-- ==== Sys2Proof/Word.lean ====
section
/-! DEFINITION. The words of the machine (R11, R14). -/

namespace Sys2Proof

/-- A 64-bit register value. -/
abbrev Word := BitVec 64

/-- A byte of memory. -/
abbrev Byte := BitVec 8

/-- An operand specifier (R46). -/
abbrev Opnd := BitVec 7

/-- The number of a shape register (R55). -/
abbrev Shp := BitVec 4

/-- A summary filter (R110). -/
abbrev Summary := BitVec 1024

end Sys2Proof
end

