-- ==== Sys2Proof/Machine/Maps.lean ====
section
/-! DEFINITION. Sparse tables: sorted lists of key and value, one entry for each key. -/

namespace Sys2Proof.Machine

/-- A sparse table: keys rising, no key twice. -/
abbrev NMap (α : Type) := List (Nat × α)

/-- The entry at a key, or the value an unlisted key has. -/
def NMap.get {α : Type} (d : α) : NMap α → Nat → α
  | [], _ => d
  | (k, v) :: m, i => if k = i then v else NMap.get d m i

/-- The entry at a key, if listed. -/
def NMap.find {α : Type} : NMap α → Nat → Option α
  | [], _ => none
  | (k, v) :: m, i => if k = i then some v else NMap.find m i

/-- Drops a key. -/
def NMap.del {α : Type} : NMap α → Nat → NMap α
  | [], _ => []
  | (k, v) :: m, i => if k = i then NMap.del m i else (k, v) :: NMap.del m i

/-- Inserts an entry before the first larger key. -/
def NMap.ins {α : Type} : NMap α → Nat → α → NMap α
  | [], i, x => [(i, x)]
  | (k, v) :: m, i, x => if i < k then (i, x) :: (k, v) :: m else (k, v) :: NMap.ins m i x

/-- Sets the entry at a key. -/
def NMap.put {α : Type} (m : NMap α) (i : Nat) (x : α) : NMap α := (m.del i).ins i x

/-- Sets the entry at a key, and lists nothing that an unlisted key has anyway. -/
def NMap.putD {α : Type} [DecidableEq α] (d : α) (m : NMap α) (i : Nat) (x : α) : NMap α :=
  if x = d then m.del i else m.put i x

/-- Every key is above `b` and the keys rise. -/
def NMap.rising {α : Type} : Nat → NMap α → Bool
  | _, [] => true
  | b, (k, _) :: m => decide (b ≤ k) && NMap.rising (k + 1) m

/-- The canonical form: keys rise, and no entry is the value an unlisted key has. -/
def NMap.wf {α : Type} [DecidableEq α] (d : α) (m : NMap α) : Bool :=
  NMap.rising 0 m && m.all fun e => decide (e.2 ≠ d)

/-- The entries whose key lies in `[lo, lo + n)` are dropped. -/
def NMap.dropRange {α : Type} (m : NMap α) (lo n : Nat) : NMap α :=
  m.filter fun e => decide (e.1 < lo) || decide (lo + n ≤ e.1)

/-- Only the entries whose key lies in `[lo, lo + n)` stay. -/
def NMap.keepRange {α : Type} (m : NMap α) (lo n : Nat) : NMap α :=
  m.filter fun e => decide (lo ≤ e.1) && decide (e.1 < lo + n)

end Sys2Proof.Machine
end

