-- ==== Sys2Proof/Machine/Bits.lean ====
section
/-! DEFINITION. Bit fields, sign extension, and bytes in memory order (R14). -/

namespace Sys2Proof.Machine

/-- Bits [lo+n-1:lo] of a value, as a number. -/
def fld {w : Nat} (x : BitVec w) (lo n : Nat) : Nat := x.toNat / 2 ^ lo % 2 ^ n

/-- One bit of a value. -/
def bit {w : Nat} (x : BitVec w) (i : Nat) : Bool := x.getLsbD i

/-- A value with bits [lo+n-1:lo] replaced. -/
def setFld {w : Nat} (x : BitVec w) (lo n v : Nat) : BitVec w :=
  .ofNat w (x.toNat - fld x lo n * 2 ^ lo + v % 2 ^ n * 2 ^ lo)

/-- The number a Bool stands for. -/
def b2n (b : Bool) : Nat := if b then 1 else 0

/-- The low `n` bits of a number read as two's complement. -/
def sgn (n v : Nat) : Int :=
  let u := v % 2 ^ n
  if u < 2 ^ (n - 1) then (u : Int) else (u : Int) - (2 ^ n : Nat)

/-- An integer's low `n` bits, as a number. -/
def low (n : Nat) (v : Int) : Nat := (v % ((2 ^ n : Nat) : Int)).toNat

/-- The 64-bit register value that holds an integer, wrapped. -/
def word (v : Int) : Word := .ofInt 64 v

/-- A number's low `n` bits, sign-extended to a register value. -/
def sext (n v : Nat) : Word := word (sgn n v)

/-- A number's low `n` bits, zero-extended to a register value. -/
def zext (n v : Nat) : Word := .ofNat 64 (v % 2 ^ n)

/-- The sign-extended value of an immediate field. -/
def imm {n : Nat} (x : BitVec n) : Int := x.toInt

/-- `n` bytes of a number, lowest first (R14). -/
def toBytes : Nat → Nat → List Byte
  | 0, _ => []
  | n + 1, v => .ofNat 8 v :: toBytes n (v / 256)

/-- The number that bytes stand for, lowest first (R14). -/
def ofBytes : List Byte → Nat
  | [] => 0
  | b :: bs => b.toNat + 256 * ofBytes bs

/-- A list padded with zero bytes, or cut, to `n`. -/
def padTo (n : Nat) (bs : List Byte) : List Byte := (bs ++ List.replicate n 0#8).take n

/-- The number of 1 bits of a number below `2 ^ n`. -/
def popc : Nat → Nat → Nat
  | 0, _ => 0
  | n + 1, v => v % 2 + popc n (v / 2)

/-- The 1 bits of a number below `2 ^ n`, as positions, lowest first. -/
def ones (n v : Nat) : List Nat := (List.range n).filter fun i => v.testBit i

/-- Rounds up to a multiple. -/
def ceilDiv (a b : Nat) : Nat := (a + b - 1) / b

/-- The first element of a list that passes a test. -/
def firstThat {α : Type} (p : α → Bool) : List α → Option α
  | [] => none
  | a :: as => if p a then some a else firstThat p as

/-- Drops the first element that passes a test. -/
def dropFirst {α : Type} (p : α → Bool) : List α → List α
  | [] => []
  | a :: as => if p a then as else a :: dropFirst p as

/-- The element at a position, or a given one. -/
def nth {α : Type} (d : α) (l : List α) (n : Nat) : α := l.getD n d

end Sys2Proof.Machine
end

