-- ==== Sys2Proof/Config.lean ====
section
/-! DEFINITION. What the spec leaves to the implementation or leaves without a value: constants with no body, which no
proof can evaluate. Each is applied to the plain counter `State.free` or to what it depends on. -/

namespace Sys2Proof.Config

/-- Which of the steps that may come next comes next, where the spec fixes no order between parties (R18, R99, R119):
see log entry 2. -/
opaque pick : Nat → Nat

/-- The clocks that make no edge in a round of the machine: bit `c` core `c`'s, bit 192 the mesh's (R4, R10, R397; log
entry 2). -/
opaque idleSet : Nat → BitVec 193

/-- A value the spec does not state, one for each use (log entry 3). -/
opaque freeWord : Nat → Word

/-- A measured quantity that only the physical part supplies, such as a rail's power (R394): log entry 3. -/
opaque measured : Nat → Word

/-- A slice's supply voltage, which its monitors trim: by the slice, its TARGET, its stretched clocks and the mesh cycle
(R381, R397; log entry 3). -/
opaque supply : Nat → Nat → Nat → Nat → Word

/-- The encoding of a wake condition, which the implementation chooses (R59): log entry 4. -/
opaque wakeCode : Nat → Nat → Word

/-- The record or wait-list handle that LINK shows, chosen by the device (R44): log entry 4. -/
opaque linkCode : Nat → Nat → Word

/-- Which of the partitions that may use a hardware queue owns it, where R198 speaks of the one that does: log entry 12. -/
opaque owner : Nat → Nat

/-- What another device answers to a PUTQ, and what its tables map the destination to (R198, R199): log entry 104. -/
opaque farAnswer : Nat → Nat
opaque farPage : Nat → Nat

/-- What CARVE.SCR reads, modulo 6, at a core of another device, by the core's name and the mesh cycle (R88, R90): log entry
64. -/
opaque farCarve : Nat → Nat → Nat

/-- The hash of a 128-byte line address by which a port of a route is chosen (R390; log entry 120). -/
opaque portHash : Nat → Nat

/-- The public key whose root is fused in the boot ROM: its root and its public seed (R407; log entry 70). -/
opaque romRoot : BitVec 256
opaque romSeed : BitVec 256

/-- The digest of a firmware image (R405), and the signature with which a key signs the items of an attestation response
with an index (R408): log entry 70. -/
opaque imageDigest : List (BitVec 8) → BitVec 256
opaque sign : BitVec 256 → Nat → List Nat → List (BitVec 8)

end Sys2Proof.Config
end

