-- ==== Sys2Proof/Syntax.lean ====
section
/-! DEFINITION. The instruction forms of R141, with the operands their entries name, and the device's events of the
opcode table: one constructor for each row of spec/opcode_table.json. -/

namespace Sys2Proof

/-- The TY codes of R139. -/
inductive Ty where
  | i64 | i32 | i16 | i8 | n64 | n32 | n16 | n8 | f64 | f32 | f16 | bf16 | m8
  deriving DecidableEq, Repr

/-- The part of the common header every form shares beside its opcode and operands (R136): the stall count, the
guard register and its negation. -/
structure Hdr where
  wait : BitVec 3
  gc   : BitVec 3
  gn   : Bool
  deriving DecidableEq, Repr

/-- What a power-on or device reset finds outside the compute dies (R1, R3, R405-R407): the ordering code (0 P, 1 C, 2 M),
the PROFSEL straps, the bytes of the two firmware slots of the board's flash, whether the compute rails come up and
training succeeds, the display heads present, the device's place in the fabric domain and the device numbers that domain
assigns (R87), the host coherence capability and the link ports with their partners. -/
structure Board where
  order   : BitVec 2
  profsel : BitVec 2
  slotA   : List (BitVec 8)
  slotB   : List (BitVec 8)
  railsOk : Bool
  trainOk : Bool
  pcieOk  : Bool
  heads   : BitVec 4
  dev     : BitVec 4
  domain  : Bool
  assigned : BitVec 16
  cxlCache : Bool
  cxlMem  : Bool
  sinks   : BitVec 4
  ports   : List (BitVec 2 × BitVec 4 × BitVec 3)
  deriving DecidableEq, Repr

/-- Every instruction form (with its header and the fields its entry uses) and every event of the table. -/
inductive Instr where
  /-- NOP (R183). Does nothing beyond using its issue slot and its WAIT. -/
  | nop (h : Hdr)
  /-- TRAP (R184). Parks the strand precisely and queues a trap record that carries the code and the argument. -/
  | trap (h : Hdr) (a : Opnd) (code : BitVec 20)
  /-- TRET (R344). Sets pc to h6 and opens context 0's trap window. -/
  | tret (h : Hdr)
  /-- TREN (R344). Opens context 0's trap window, or closes it when CLOSE is set. -/
  | tren (h : Hdr) (close : Bool)
  /-- MFS (R331). Reads a system register into DST. -/
  | mfs (h : Hdr) (d : Opnd) (a : Opnd) (n : BitVec 12)
  /-- MTS (R331). Writes a system register that has no behaviour of its own, after the checks of its limits. -/
  | mts (h : Hdr) (a : Opnd) (b : Opnd) (n : BitVec 12)
  /-- BRK (R345). Breakpoint trap; behaves as TRAP with record kind 0x0B. -/
  | brk (h : Hdr) (a : Opnd) (code : BitVec 20)
  /-- WAITE (R346). Takes the first trap record into scratchpad, parking while the queue is empty unless in poll mode. -/
  | waite (h : Hdr) (d : Opnd) (a : Opnd) (poll : Bool)
  /-- STOP (R347). Freezes or thaws the core's user contexts, or starts the partition halt tree. -/
  | stop (h : Hdr) (mode : BitVec 2)
  /-- TLBINV (R336). Writes back dirty data and removes matching stage-1 translations from every TLB and walker of the
  partition. -/
  | tlbinv (h : Hdr) (a : Opnd) (kind : BitVec 2) (as : BitVec 4)
  /-- CTXRD (R348). Reads a selected register or state item of a stopped or trapped user context. -/
  | ctxrd (h : Hdr) (d : Opnd) (a : Opnd) (slt : BitVec 12)
  /-- CTXWR (R348). Writes a selected register or state item of a stopped or trapped user context. -/
  | ctxwr (h : Hdr) (a : Opnd) (b : Opnd) (slt : BitVec 12)
  /-- ADD (R154). Typed integer add, wrapping at the type width. -/
  | add (h : Hdr) (ty : Ty) (d : Opnd) (a : Opnd) (b : Opnd)
  /-- SUB (R154). Typed integer subtract, wrapping at the type width. -/
  | sub (h : Hdr) (ty : Ty) (d : Opnd) (a : Opnd) (b : Opnd)
  /-- MUL (R154). Typed integer multiply that keeps the low w bits. -/
  | mul (h : Hdr) (ty : Ty) (d : Opnd) (a : Opnd) (b : Opnd)
  /-- MULH (R154). Upper w bits of the exact 2w-bit product. -/
  | mulh (h : Hdr) (ty : Ty) (d : Opnd) (a : Opnd) (b : Opnd)
  /-- DIV (R154). Integer division truncating toward zero, with the defined edge cases. -/
  | div (h : Hdr) (ty : Ty) (d : Opnd) (a : Opnd) (b : Opnd)
  /-- REM (R154). Integer remainder, which carries the sign of the dividend. -/
  | rem (h : Hdr) (ty : Ty) (d : Opnd) (a : Opnd) (b : Opnd)
  /-- MIN (R154). Lesser of two integers of the type. -/
  | min (h : Hdr) (ty : Ty) (d : Opnd) (a : Opnd) (b : Opnd)
  /-- MAX (R154). Greater of two integers of the type. -/
  | max (h : Hdr) (ty : Ty) (d : Opnd) (a : Opnd) (b : Opnd)
  /-- AND (R155). Bitwise AND at 64 or 32 bits. -/
  | and (h : Hdr) (ty : Ty) (d : Opnd) (a : Opnd) (b : Opnd)
  /-- OR (R155). Bitwise OR at 64 or 32 bits. -/
  | or (h : Hdr) (ty : Ty) (d : Opnd) (a : Opnd) (b : Opnd)
  /-- XOR (R155). Bitwise XOR at 64 or 32 bits. -/
  | xor (h : Hdr) (ty : Ty) (d : Opnd) (a : Opnd) (b : Opnd)
  /-- ANDN (R155). The first source AND NOT the second. -/
  | andn (h : Hdr) (ty : Ty) (d : Opnd) (a : Opnd) (b : Opnd)
  /-- SHL (R155). Logical shift left by an unmasked amount. -/
  | shl (h : Hdr) (ty : Ty) (d : Opnd) (a : Opnd) (b : Opnd)
  /-- SHR (R155). Logical shift right by an unmasked amount. -/
  | shr (h : Hdr) (ty : Ty) (d : Opnd) (a : Opnd) (b : Opnd)
  /-- SHRA (R155). Arithmetic shift right by an unmasked amount. -/
  | shra (h : Hdr) (ty : Ty) (d : Opnd) (a : Opnd) (b : Opnd)
  /-- ROT (R155). Rotate right by the amount modulo the width. -/
  | rot (h : Hdr) (ty : Ty) (d : Opnd) (a : Opnd) (b : Opnd)
  /-- CLZ (R155). Counts the leading zero bits. -/
  | clz (h : Hdr) (ty : Ty) (d : Opnd) (a : Opnd)
  /-- CTZ (R155). Counts the trailing zero bits. -/
  | ctz (h : Hdr) (ty : Ty) (d : Opnd) (a : Opnd)
  /-- POPC (R155). Counts the one bits. -/
  | popc (h : Hdr) (ty : Ty) (d : Opnd) (a : Opnd)
  /-- ADDI (R156). Adds a signed 20-bit immediate. -/
  | addi (h : Hdr) (d : Opnd) (a : Opnd) (imm : BitVec 20)
  /-- ANDI (R156). ANDs with a sign-extended immediate. -/
  | andi (h : Hdr) (d : Opnd) (a : Opnd) (imm : BitVec 20)
  /-- ORI (R156). ORs with a sign-extended immediate. -/
  | ori (h : Hdr) (d : Opnd) (a : Opnd) (imm : BitVec 20)
  /-- XORI (R156). XORs with a sign-extended immediate. -/
  | xori (h : Hdr) (d : Opnd) (a : Opnd) (imm : BitVec 20)
  /-- SHLI (R156). 64-bit shift left by an immediate amount. -/
  | shli (h : Hdr) (d : Opnd) (a : Opnd) (amt : BitVec 8)
  /-- SHRI (R156). 64-bit logical shift right by an immediate amount. -/
  | shri (h : Hdr) (d : Opnd) (a : Opnd) (amt : BitVec 8)
  /-- SHRAI (R156). 64-bit arithmetic shift right by an immediate amount. -/
  | shrai (h : Hdr) (d : Opnd) (a : Opnd) (amt : BitVec 8)
  /-- MOV (R157). Copies a register unchanged. -/
  | mov (h : Hdr) (d : Opnd) (a : Opnd)
  /-- LI (R158). Loads a sign-extended 52-bit constant. -/
  | li (h : Hdr) (d : Opnd) (imm : BitVec 52)
  /-- ADDPC (R159). Adds a scaled offset to the instruction's own address. -/
  | addpc (h : Hdr) (d : Opnd) (imm : BitVec 52)
  /-- SEL (R160). Selects one of two values by a condition value. -/
  | sel (h : Hdr) (d : Opnd) (a : Opnd) (b : Opnd) (c : Opnd)
  /-- EXT (R161). Extracts a bit field, optionally sign-extended. -/
  | ext (h : Hdr) (d : Opnd) (a : Opnd) (pos : BitVec 6) (lenm1 : BitVec 6) (sgn : Bool)
  /-- INS (R161). Inserts a bit field into a base value. -/
  | ins (h : Hdr) (d : Opnd) (a : Opnd) (b : Opnd) (pos : BitVec 6) (lenm1 : BitVec 6)
  /-- CMP (R162). Compares two integers under a relation and writes 0 or 1. -/
  | cmp (h : Hdr) (d : Opnd) (a : Opnd) (b : Opnd) (rel : BitVec 3) (ty : Ty)
  /-- CMPI (R162). Compares an integer with an immediate under a relation. -/
  | cmpi (h : Hdr) (d : Opnd) (a : Opnd) (rel : BitVec 3) (ty : Ty) (imm : BitVec 14)
  /-- CLOG (R163). Combines two truth values through a 4-bit truth table. -/
  | clog (h : Hdr) (d : Opnd) (a : Opnd) (b : Opnd) (tbl : BitVec 4)
  /-- PADD (R164). Packed lane add, wrapping. -/
  | padd (h : Hdr) (ty : Ty) (d : Opnd) (a : Opnd) (b : Opnd)
  /-- PSUB (R164). Packed lane subtract, wrapping. -/
  | psub (h : Hdr) (ty : Ty) (d : Opnd) (a : Opnd) (b : Opnd)
  /-- PADDS (R164). Packed lane add, saturating. -/
  | padds (h : Hdr) (ty : Ty) (d : Opnd) (a : Opnd) (b : Opnd)
  /-- PSUBS (R164). Packed lane subtract, saturating. -/
  | psubs (h : Hdr) (ty : Ty) (d : Opnd) (a : Opnd) (b : Opnd)
  /-- PMUL (R164). Packed lane multiply that keeps the low half. -/
  | pmul (h : Hdr) (ty : Ty) (d : Opnd) (a : Opnd) (b : Opnd)
  /-- PMIN (R164). Packed lane minimum. -/
  | pmin (h : Hdr) (ty : Ty) (d : Opnd) (a : Opnd) (b : Opnd)
  /-- PMAX (R164). Packed lane maximum. -/
  | pmax (h : Hdr) (ty : Ty) (d : Opnd) (a : Opnd) (b : Opnd)
  /-- PSHL (R164). Packed lane shift left. -/
  | pshl (h : Hdr) (ty : Ty) (d : Opnd) (a : Opnd) (b : Opnd)
  /-- PSHR (R164). Packed lane logical shift right. -/
  | pshr (h : Hdr) (ty : Ty) (d : Opnd) (a : Opnd) (b : Opnd)
  /-- PSHRA (R164). Packed lane arithmetic shift right. -/
  | pshra (h : Hdr) (ty : Ty) (d : Opnd) (a : Opnd) (b : Opnd)
  /-- CVT (R167). Converts a value between two scalar types. -/
  | cvt (h : Hdr) (ty : Ty) (d : Opnd) (a : Opnd) (rm : BitVec 2) (src : Ty)
  /-- CVTN (R168). Converts a value into or out of a narrow float format named by a descriptor. -/
  | cvtn (h : Hdr) (ty : Ty) (d : Opnd) (a : Opnd) (b : Opnd) (rm : BitVec 2) (dir : Bool)
  /-- FADD (R169). Floating-point add, correctly rounded. -/
  | fadd (h : Hdr) (ty : Ty) (d : Opnd) (a : Opnd) (b : Opnd) (rm : BitVec 2)
  /-- FSUB (R169). Floating-point subtract, correctly rounded. -/
  | fsub (h : Hdr) (ty : Ty) (d : Opnd) (a : Opnd) (b : Opnd) (rm : BitVec 2)
  /-- FMUL (R169). Floating-point multiply, correctly rounded. -/
  | fmul (h : Hdr) (ty : Ty) (d : Opnd) (a : Opnd) (b : Opnd) (rm : BitVec 2)
  /-- FMA (R169). Fused multiply-add with a single rounding. -/
  | fma (h : Hdr) (ty : Ty) (d : Opnd) (a : Opnd) (b : Opnd) (c : Opnd) (rm : BitVec 2)
  /-- FMIN (R170). Floating-point minimum under the NaN rules. -/
  | fmin (h : Hdr) (ty : Ty) (d : Opnd) (a : Opnd) (b : Opnd)
  /-- FMAX (R170). Floating-point maximum under the NaN rules. -/
  | fmax (h : Hdr) (ty : Ty) (d : Opnd) (a : Opnd) (b : Opnd)
  /-- FSGN (R171). Replaces the sign bit as SOP selects. -/
  | fsgn (h : Hdr) (ty : Ty) (d : Opnd) (a : Opnd) (b : Opnd) (sop : BitVec 2)
  /-- FCMP (R172). Floating-point comparison that writes 0 or 1. -/
  | fcmp (h : Hdr) (ty : Ty) (d : Opnd) (a : Opnd) (b : Opnd) (rel : BitVec 3) (q : Bool)
  /-- FCLASS (R173). Writes the class mask of a float. -/
  | fclass (h : Hdr) (ty : Ty) (d : Opnd) (a : Opnd)
  /-- FDIV (R174). Correctly rounded division on the special-function unit. -/
  | fdiv (h : Hdr) (ty : Ty) (d : Opnd) (a : Opnd) (b : Opnd) (rm : BitVec 2)
  /-- FSQRT (R174). Correctly rounded square root. -/
  | fsqrt (h : Hdr) (ty : Ty) (d : Opnd) (a : Opnd) (rm : BitVec 2)
  /-- FRCP (R174). Correctly rounded reciprocal. -/
  | frcp (h : Hdr) (ty : Ty) (d : Opnd) (a : Opnd) (rm : BitVec 2)
  /-- FRSQ (R174). Correctly rounded reciprocal square root. -/
  | frsq (h : Hdr) (ty : Ty) (d : Opnd) (a : Opnd) (rm : BitVec 2)
  /-- FEXP2 (R174). Correctly rounded 2 to the power x. -/
  | fexp2 (h : Hdr) (ty : Ty) (d : Opnd) (a : Opnd) (rm : BitVec 2)
  /-- FLOG2 (R174). Correctly rounded base-2 logarithm. -/
  | flog2 (h : Hdr) (ty : Ty) (d : Opnd) (a : Opnd) (rm : BitVec 2)
  /-- FSIN (R174). Correctly rounded sin(pi x). -/
  | fsin (h : Hdr) (ty : Ty) (d : Opnd) (a : Opnd) (rm : BitVec 2)
  /-- FCOS (R174). Correctly rounded cos(pi x). -/
  | fcos (h : Hdr) (ty : Ty) (d : Opnd) (a : Opnd) (rm : BitVec 2)
  /-- FTANH (R174). Correctly rounded tanh. -/
  | ftanh (h : Hdr) (ty : Ty) (d : Opnd) (a : Opnd) (rm : BitVec 2)
  /-- BR (R178). Pc-relative branch, conditional through its guard. -/
  | br (h : Hdr) (off : BitVec 20)
  /-- J (R178). Long pc-relative jump. -/
  | j (h : Hdr) (off : BitVec 52)
  /-- JL (R179). Pc-relative call that writes a link register. -/
  | jl (h : Hdr) (d : Opnd) (off : BitVec 20)
  /-- JR (R179). Register-indirect jump that writes a link register. -/
  | jr (h : Hdr) (d : Opnd) (a : Opnd) (off : BitVec 20)
  /-- LOOP (R180). Decrements a counter and branches while the counter is non-zero. -/
  | loop (h : Hdr) (d : Opnd) (a : Opnd) (off : BitVec 20)
  /-- TSTS (R181). Reads a tile status word, tests it against a mask and branches if any bit matches. -/
  | tsts (h : Hdr) (d : Opnd) (a : Opnd) (b : Opnd) (off : BitVec 13)
  /-- LD (R189, R190). Loads one typed element from base plus offset. -/
  | ld (h : Hdr) (ty : Ty) (d : Opnd) (a : Opnd) (off : BitVec 20)
  /-- LDX (R189, R190). Loads one typed element from base plus scaled index. -/
  | ldx (h : Hdr) (ty : Ty) (d : Opnd) (a : Opnd) (b : Opnd) (off : BitVec 13)
  /-- LDP (R189, R190). Loads one typed element from a pc-relative address. -/
  | ldp (h : Hdr) (ty : Ty) (d : Opnd) (a : Opnd) (off : BitVec 20)
  /-- ST (R189, R190). Stores one typed element at base plus offset. -/
  | st (h : Hdr) (ty : Ty) (a : Opnd) (b : Opnd) (off : BitVec 20)
  /-- STX (R189, R190). Stores one typed element at base plus scaled index. -/
  | stx (h : Hdr) (ty : Ty) (a : Opnd) (b : Opnd) (c : Opnd) (off : BitVec 13)
  /-- STP (R189, R190). Stores one typed element at a pc-relative address. -/
  | stp (h : Hdr) (ty : Ty) (a : Opnd) (b : Opnd) (off : BitVec 20)
  /-- PREF (R191). Hints fills of a line's missing sectors. -/
  | pref (h : Hdr) (a : Opnd) (off : BitVec 20)
  /-- CINV (R191). Writes back the dirty bytes of a line and invalidates the line in L1. -/
  | cinv (h : Hdr) (a : Opnd) (off : BitVec 20)
  /-- CWB (R191). Writes back the dirty bytes of a line and leaves it clean. -/
  | cwb (h : Hdr) (a : Opnd) (off : BitVec 20)
  /-- AMO (R192, R194). Integer atomic read-modify-write at the home slice or the scratchpad. -/
  | amo (h : Hdr) (ty : Ty) (d : Opnd) (a : Opnd) (b : Opnd) (op : BitVec 3)
  /-- CAS (R192, R194). Atomic compare and swap. -/
  | cas (h : Hdr) (ty : Ty) (d : Opnd) (a : Opnd) (b : Opnd) (c : Opnd)
  /-- AMOF (R192, R193). Atomic floating-point add. -/
  | amof (h : Hdr) (ty : Ty) (d : Opnd) (a : Opnd) (b : Opnd)
  /-- SEND (R196). Offers a 64-bit message to a mailbox, with a Publish first when the edge flag is set. -/
  | send (h : Hdr) (a : Opnd) (b : Opnd) (pri : Bool) (ef : Bool)
  /-- RECV (R197). Takes the oldest message of one priority, parking while there is none. -/
  | recv (h : Hdr) (d : Opnd) (pri : Bool)
  /-- WAITM (R197). Takes the oldest high-priority message, else the oldest normal one. -/
  | waitm (h : Hdr) (d : Opnd)
  /-- PUTQ (R198, R199). Writes a payload into the target partition and pushes one hardware-queue entry. -/
  | putq (h : Hdr) (a : Opnd) (b : Opnd) (c : Opnd) (e : Opnd) (lenm1 : BitVec 12) (ef : Bool) (dev : BitVec 4)
  /-- SIGSET (R200, R201). Publishes and then sets, or initialises, a signal object's value at home. -/
  | sigset (h : Hdr) (a : Opnd) (b : Opnd) (imm : BitVec 19) (init : Bool)
  /-- SIGADD (R200, R201). Publishes and then adds to a signal object's value at home. -/
  | sigadd (h : Hdr) (a : Opnd) (b : Opnd) (imm : BitVec 20)
  /-- SIGWAIT (R200, R202). Waits at the home slice until the signal's condition holds, then refreshes. -/
  | sigwait (h : Hdr) (a : Opnd) (b : Opnd) (imm : BitVec 18) (rel : BitVec 2)
  /-- SIGTEST (R200, R203). Tests a signal's condition once and refreshes when the condition is met. -/
  | sigtest (h : Hdr) (d : Opnd) (a : Opnd) (b : Opnd) (imm : BitVec 18) (rel : BitVec 2)
  /-- GADDR (R204). Converts an address into its global or remote form. -/
  | gaddr (h : Hdr) (d : Opnd) (a : Opnd)
  /-- SADDR (R204). Converts an address into its strand-relative form. -/
  | saddr (h : Hdr) (d : Opnd) (a : Opnd)
  /-- SPAWN (R210). Publishes and appends a child spawn record to a named core's direct list. -/
  | spawn (h : Hdr) (t : Opnd) (a : Opnd) (b : Opnd) (c : Opnd) (e : Opnd) (off : BitVec 29) (ttype : BitVec 6)
  /-- SPAWNQ (R210). Publishes and pushes a child spawn record onto a spawn queue. -/
  | spawnq (h : Hdr) (t : Opnd) (a : Opnd) (b : Opnd) (c : Opnd) (e : Opnd) (off : BitVec 29) (ttype : BitVec 6)
  /-- FORKR (R211). Saves the continuation, initialises the join cell and hands index chunks to recruited cores. -/
  | forkr (h : Hdr) (a : Opnd) (b : Opnd) (c : Opnd) (off : BitVec 29) (ttype : BitVec 6) (lvl : BitVec 3)
  /-- AWAIT (R213). Waits for a join count to reach zero, parking in place or yielding to a frame. -/
  | await (h : Hdr) (a : Opnd) (yld : Bool)
  /-- JINIT (R212). Makes a join cell with a count at home and sets jc. -/
  | jinit (h : Hdr) (a : Opnd) (b : Opnd) (n : BitVec 20)
  /-- QUIT (R214). Ends the strand: Publish, join-cell decrement and freeing of the context. -/
  | quit (h : Hdr)
  /-- MIGRATE (R215). Moves the strand to the nearest core of the named column class in its row. -/
  | migrate (h : Hdr) (d : Opnd) (cls : BitVec 2)
  /-- DQINIT (R217). Initialises a deque header. -/
  | dqinit (h : Hdr) (a : Opnd) (n : BitVec 4)
  /-- DQPUSH (R217). Pushes an entry at the owner's end of the deque. -/
  | dqpush (h : Hdr) (d : Opnd) (a : Opnd) (b : Opnd)
  /-- DQPOP (R217, R218). Pops at the owner's end; a graft taken back resumes in place. -/
  | dqpop (h : Hdr) (d : Opnd) (a : Opnd)
  /-- DQSTEAL (R217, R218). Takes the top entry of a deque; a graft is resumed on the thief's core. -/
  | dqsteal (h : Hdr) (d : Opnd) (a : Opnd)
  /-- DETACH (R218). Pushes the strand's continuation as a graft and branches to the child code. -/
  | detach (h : Hdr) (a : Opnd) (off : BitVec 20)
  /-- QPUSH (R220). Pushes a value onto a hardware value queue. -/
  | qpush (h : Hdr) (a : Opnd) (b : Opnd) (ef : Bool)
  /-- QPOP (R220). Pops a value from a hardware value queue, parking while it is empty. -/
  | qpop (h : Hdr) (d : Opnd) (a : Opnd)
  /-- QBIND (R221). Binds or unbinds a queue register to a core FIFO. -/
  | qbind (h : Hdr) (qn : BitVec 2) (fifo : BitVec 4) (mode : BitVec 2)
  /-- LDSHP (R227). Loads a 64-byte shape record into a shape register. -/
  | ldshp (h : Hdr) (a : Opnd) (sh : BitVec 4) (off : BitVec 16)
  /-- STSHP (R227). Stores a shape register to memory. -/
  | stshp (h : Hdr) (a : Opnd) (sh : BitVec 4) (off : BitVec 16)
  /-- SHPSET (R227). Sets one field of a shape register. -/
  | shpset (h : Hdr) (a : Opnd) (sh : BitVec 4) (fld : BitVec 4)
  /-- SHPGET (R227). Reads one field of a shape register. -/
  | shpget (h : Hdr) (d : Opnd) (sh : BitVec 4) (fld : BitVec 4)
  /-- TADD (R234). Elementwise tensor add. -/
  | tadd (h : Hdr) (xa : Opnd) (sd : BitVec 4) (s1 : BitVec 4) (s2 : BitVec 4) (bsc : Bool) (cty : Ty) (rm : BitVec 2) (satm : Bool)
  /-- TSUB (R234). Elementwise tensor subtract. -/
  | tsub (h : Hdr) (xa : Opnd) (sd : BitVec 4) (s1 : BitVec 4) (s2 : BitVec 4) (bsc : Bool) (cty : Ty) (rm : BitVec 2) (satm : Bool)
  /-- TMUL (R234). Elementwise tensor multiply. -/
  | tmul (h : Hdr) (xa : Opnd) (sd : BitVec 4) (s1 : BitVec 4) (s2 : BitVec 4) (bsc : Bool) (cty : Ty) (rm : BitVec 2) (satm : Bool)
  /-- TFMA (R234). Elementwise tensor fused multiply-add. -/
  | tfma (h : Hdr) (xa : Opnd) (xb : Opnd) (sd : BitVec 4) (s1 : BitVec 4) (s2 : BitVec 4) (s3 : BitVec 4) (bsc : Bool) (csc : Bool) (cty : Ty) (rm : BitVec 2)
  /-- TMIN (R234). Elementwise tensor minimum. -/
  | tmin (h : Hdr) (xa : Opnd) (sd : BitVec 4) (s1 : BitVec 4) (s2 : BitVec 4) (bsc : Bool) (cty : Ty) (rm : BitVec 2)
  /-- TMAX (R234). Elementwise tensor maximum. -/
  | tmax (h : Hdr) (xa : Opnd) (sd : BitVec 4) (s1 : BitVec 4) (s2 : BitVec 4) (bsc : Bool) (cty : Ty) (rm : BitVec 2)
  /-- TABS (R234). Elementwise tensor absolute value. -/
  | tabs (h : Hdr) (sd : BitVec 4) (s1 : BitVec 4) (cty : Ty) (rm : BitVec 2) (satm : Bool)
  /-- TNEG (R234). Elementwise tensor negation. -/
  | tneg (h : Hdr) (sd : BitVec 4) (s1 : BitVec 4) (cty : Ty) (rm : BitVec 2) (satm : Bool)
  /-- TAND (R234). Elementwise tensor AND. -/
  | tand (h : Hdr) (xa : Opnd) (sd : BitVec 4) (s1 : BitVec 4) (s2 : BitVec 4) (bsc : Bool) (cty : Ty) (rm : BitVec 2)
  /-- TOR (R234). Elementwise tensor OR. -/
  | tor (h : Hdr) (xa : Opnd) (sd : BitVec 4) (s1 : BitVec 4) (s2 : BitVec 4) (bsc : Bool) (cty : Ty) (rm : BitVec 2)
  /-- TXOR (R234). Elementwise tensor XOR. -/
  | txor (h : Hdr) (xa : Opnd) (sd : BitVec 4) (s1 : BitVec 4) (s2 : BitVec 4) (bsc : Bool) (cty : Ty) (rm : BitVec 2)
  /-- TSHL (R234). Elementwise tensor shift left. -/
  | tshl (h : Hdr) (xa : Opnd) (sd : BitVec 4) (s1 : BitVec 4) (s2 : BitVec 4) (bsc : Bool) (cty : Ty) (rm : BitVec 2)
  /-- TSHR (R234). Elementwise tensor shift right, logical or arithmetic. -/
  | tshr (h : Hdr) (xa : Opnd) (sd : BitVec 4) (s1 : BitVec 4) (s2 : BitVec 4) (bsc : Bool) (cty : Ty) (rm : BitVec 2) (arith : Bool)
  /-- TCVT (R235). Converts every element into the destination's format. -/
  | tcvt (h : Hdr) (sd : BitVec 4) (s1 : BitVec 4) (rm : BitVec 2)
  /-- TSPLIT3 (R236). Splits f32 elements into three BF16 terms. -/
  | tsplit3 (h : Hdr) (shi : BitVec 4) (sx : BitVec 4) (smid : BitVec 4) (slo : BitVec 4)
  /-- TRED (R237). Reduces a tensor by sum, min or max along its collapsed dimensions. -/
  | tred (h : Hdr) (sd : BitVec 4) (s1 : BitVec 4) (cty : Ty) (rm : BitVec 2) (op : BitVec 2)
  /-- TCMP (R238). Elementwise comparison that writes 0 or 1. -/
  | tcmp (h : Hdr) (xa : Opnd) (sd : BitVec 4) (s1 : BitVec 4) (s2 : BitVec 4) (bsc : Bool) (cty : Ty) (rm : BitVec 2) (rel : BitVec 3) (q : Bool)
  /-- TSEL (R238). Elementwise selection by a condition tensor. -/
  | tsel (h : Hdr) (sd : BitVec 4) (s1 : BitVec 4) (s2 : BitVec 4) (s3 : BitVec 4)
  /-- TGATH (R239). Gathers elements by index. -/
  | tgath (h : Hdr) (sd : BitVec 4) (s1 : BitVec 4) (s2 : BitVec 4)
  /-- TSCAT (R239). Scatters elements by index. -/
  | tscat (h : Hdr) (sd : BitVec 4) (s1 : BitVec 4) (s2 : BitVec 4)
  /-- TFILL (R235). Fills every element of a tensor with one code. -/
  | tfill (h : Hdr) (xa : Opnd) (sd : BitVec 4)
  /-- TCOPY (R235). Copies codes unchanged into another layout. -/
  | tcopy (h : Hdr) (sd : BitVec 4) (s1 : BitVec 4)
  /-- TSFU (R240). Applies a special function per element on the special-function unit. -/
  | tsfu (h : Hdr) (xa : Opnd) (sd : BitVec 4) (s1 : BitVec 4) (s2 : BitVec 4) (bsc : Bool) (cty : Ty) (rm : BitVec 2) (fn : BitVec 4)
  /-- MMGANG (R245). Joins 1, 2 or 4 adjacent matrix engines of one mesh row into a gang. -/
  | mmgang (h : Hdr) (gsz : BitVec 2)
  /-- MMLDB (R247). Loads the B operand into the array. -/
  | mmldb (h : Hdr) (sb : BitVec 4)
  /-- MMA (R248). Streams A rows through the array and accumulates into the accumulator. -/
  | mma (h : Hdr) (sa : BitVec 4) (arow : BitVec 8)
  /-- MMST (R251). Scales, converts and stores part of the accumulator and writes the status word. -/
  | mmst (h : Hdr) (sc : BitVec 4) (rm : BitVec 2) (arow : BitVec 8) (acol : BitVec 8)
  /-- MMZ (R246). Clears the accumulator and latches, optionally releasing the engine. -/
  | mmz (h : Hdr) (rl : Bool)
  /-- CPY (R257, R258). Accepts a shaped copy into a copy slot. -/
  | cpy (h : Hdr) (xa : Opnd) (xb : Opnd) (sd : BitVec 4) (s1 : BitVec 4) (act : BitVec 3) (pri : Bool)
  /-- CPYRED (R257, R258). Accepts a reducing copy into a copy slot. -/
  | cpyred (h : Hdr) (xa : Opnd) (xb : Opnd) (sd : BitVec 4) (s1 : BitVec 4) (act : BitVec 3) (pri : Bool) (rop : BitVec 2)
  /-- CPYMM (R257, R259). Accepts a copy that then gives a matrix command. -/
  | cpymm (h : Hdr) (xa : Opnd) (xb : Opnd) (sd : BitVec 4) (s1 : BitVec 4) (s2 : BitVec 4) (act : BitVec 3) (pri : Bool) (mop : BitVec 2) (arow : BitVec 8)
  /-- DGN (R263). Builds a live dependence-graph node in a summary slot. -/
  | dgn (h : Hdr) (a : Opnd) (b : Opnd) (c : Opnd) (act : BitVec 3) (count : BitVec 10)
  /-- DGDEC (R265). Publishes and decrements a dependence-graph node. -/
  | dgdec (h : Hdr) (a : Opnd)
  /-- ENGFORK (R267). Starts an engine script on a sequencer. -/
  | engfork (h : Hdr) (a : Opnd) (b : Opnd)
  /-- ENGREND (R268). Waits for the strand's engine operations and refreshes with their summaries. -/
  | engrend (h : Hdr) (fin : Bool)
  /-- RFSTART (R279). Publishes and hands a command block to the slice's refinement controller. -/
  | rfstart (h : Hdr) (a : Opnd)
  /-- RFSTAT (R283). Reads the live or stored refinement result word. -/
  | rfstat (h : Hdr) (d : Opnd) (a : Opnd)
  /-- TRIBIN (R290). Bins a triangle and sends primitive messages to the owners of the tiles it meets. -/
  | tribin (h : Hdr) (a : Opnd) (b : Opnd) (surf : BitVec 4) (nattr : BitVec 4) (cull : BitVec 2)
  /-- RAST (R293, R294). Rasterises the lowest waiting primitive over owned tiles and writes a fragment list. -/
  | rast (h : Hdr) (a : Opnd) (surf : BitVec 4) (zf : BitVec 3) (zw : Bool) (ilk : Bool) (qcap : BitVec 16)
  /-- PXLOCK (R296). Requests the ordered lock of a quad from its owner. -/
  | pxlock (h : Hdr) (a : Opnd) (b : Opnd)
  /-- PXREL (R297). Releases a quad lock. -/
  | pxrel (h : Hdr) (a : Opnd) (b : Opnd)
  /-- EMIT (R301). Hands a finished tile buffer to the emission engine for a frame. -/
  | emit (h : Hdr) (d : Opnd) (a : Opnd) (b : Opnd) (hold : Bool)
  /-- EMSTAT (R304). Reads an emission counter of a surface. -/
  | emstat (h : Hdr) (d : Opnd) (a : Opnd) (slt : BitVec 2)
  /-- CTXSTART (R350). Resumes a trapped or stopped context, giving its stopped operations again first. -/
  | ctxstart (h : Hdr) (a : Opnd)
  /-- CTXREAP (R351). Frees a context outright, releasing its holdings, with no edge. -/
  | ctxreap (h : Hdr) (a : Opnd)
  /-- CTXSAVE (R352). Saves a context image, stopping the context or freeing it with its frame held. -/
  | ctxsave (h : Hdr) (d : Opnd) (a : Opnd) (b : Opnd) (free : Bool)
  /-- CTXLOAD (R354). Loads a held context image into a free context. -/
  | ctxload (h : Hdr) (d : Opnd) (a : Opnd) (b : Opnd)
  /-- CTXSTAT (R355). Reads the status of a context. -/
  | ctxstat (h : Hdr) (d : Opnd) (a : Opnd)
  /-- PLACE_HEAD (R41). The dispatcher places its head in a free context, window and frame, retrying on each freeing. -/
  | placeHead (core : Nat)
  /-- WAKE (R24). A wake event reaches a parked strand's core and makes the strand ready. -/
  | wake (core : Nat) (ctx : Nat) (payload : Word) (delivered : Option Summary)
  /-- RESULT_LANDS (R146). A variable-latency result lands in its destination and releases its readers. -/
  | resultLands (core : Nat) (ctx : Nat)
  /-- CONTEXT_GATE (R21). The power controller removes a context from the rotation. -/
  | contextGate (core : Nat)
  /-- CONTEXT_RESTORE (R21). The power controller restores a gated context. -/
  | contextRestore (core : Nat)
  /-- DIRECT_LIST_APPEND (R209). A held chunk or continuation enters a direct list when room appears. -/
  | directListAppend (core : Nat)
  /-- MESSAGE_ARRIVAL (R197). A message enters a mailbox and is taken by the earliest parked receiver. -/
  | messageArrival (core : Nat) (hi : Bool) (payload : Word) (delivered : Option Summary)
  /-- QUEUE_POP_ASSIGN (R220). A waiting pop request at the queue logic is assigned an arriving entry. -/
  | queuePopAssign (queue : Nat)
  /-- POSTED_STORE_PERFORMED (R120). A posted remote store is performed at its destination and the landed count rises. -/
  | postedStorePerformed (n : Nat)
  /-- EDGE_RECORD_RELEASE (R120). A held cross-device edge record is performed once the landed count reaches the carried
  count. -/
  | edgeRecordRelease (n : Nat)
  /-- TENSOR_COMPLETION (R231). A tensor operation's last chunk finishes and its status word is written. -/
  | tensorCompletion (core : Nat) (ctx : Nat)
  /-- MATRIX_COMPLETION (R253). A matrix operation completes at the engine. -/
  | matrixCompletion (core : Nat) (ctx : Nat)
  /-- COPY_UNIT_CONFIRM (R258). A copy unit's write is confirmed and the resume index advances. -/
  | copyUnitConfirm (core : Nat) (slot : Nat)
  /-- MATRIX_COMMAND_GIVEN (R259). A CPYMM's matrix command is given to the engine after its last unit. -/
  | matrixCommandGiven (core : Nat) (slot : Nat)
  /-- COPY_COMPLETION (R260). A copy completes and performs its completion action, then frees its slot. -/
  | copyCompletion (core : Nat) (slot : Nat)
  /-- ENGINE_FAULT_TRAP (R261). A stopped engine operation traps its issuing strand at its next turn. -/
  | engineFaultTrap (core : Nat) (ctx : Nat)
  /-- NODE_DECREMENT (R264). A decrement arrives at a node and is performed at its scratchpad. -/
  | nodeDecrement (core : Nat) (off : Nat) (delivered : Summary)
  /-- NODE_ACTION (R264). The graph unit performs a fired node's action and frees its slot. -/
  | nodeAction (core : Nat)
  /-- SCRIPT_START (R267). A sequencer reads a script header and starts the script. -/
  | scriptStart (core : Nat) (seqr : Nat)
  /-- SCRIPT_END (R267). A script reaches ENGREND with END set and decrements its completion node. -/
  | scriptEnd (core : Nat) (seqr : Nat)
  /-- REFINE_FACTOR (R274). The controller factors A at the current rung. -/
  | refineFactor (slice : Nat)
  /-- REFINE_PASS (R276). The controller runs one residual pass and its tests. -/
  | refinePass (slice : Nat)
  /-- REFINE_EXIT (R280). The controller writes the results, releases the gang and performs the exit action. -/
  | refineExit (slice : Nat)
  /-- PRIMITIVE_MESSAGE (R290). A primitive message is accepted into an owner's primitive queue. -/
  | primitiveMessage (core : Nat) (n : Nat)
  /-- PXLOCK_GRANT (R296). The owner grants a quad lock to the earliest entry's requester. -/
  | pxlockGrant (core : Nat)
  /-- TILE_TAKE (R300). At a band's fetch time the engine takes each tile's pending or shown buffer. -/
  | tileTake (part : Nat) (surf : Nat)
  /-- BAND_CAPTURE (R303). A band's pixels are written into the capture ring during its scan, and CAPSIG gains 1 after the
  last band. -/
  | bandCapture (part : Nat) (surf : Nat)
  /-- UNBIND_COMPLETE (R288). A surface unbind completes after the last frame in progress is scanned. -/
  | unbindComplete (part : Nat) (surf : Nat)
  /-- VECTORED_ENTRY (R342). Context 0 enters its trap handler with h6 and h7 set and its window closed. -/
  | vectoredEntry (core : Nat)
  /-- HALT_TREE (R359). A halt spreads over the partition's cores, each of which halts at a slot boundary. -/
  | haltTree (part : Nat)
  /-- PARTITION_START (R382). Writing PARTDEF V = 1 checks and forms the partition and starts context 0 everywhere. -/
  | partitionStart (part : Nat) (v : Word)
  /-- PARTITION_END (R383). Writing PARTDEF V = 0 halts, reaps and unmaps the partition. -/
  | partitionEnd (part : Nat)
  /-- PARTITION_SWAP (R360). Writing SWAP exchanges two twins through the heartwood. -/
  | partitionSwap (part : Nat)
  /-- S2INV_PAGE (R384). Removes the stage-2 translations of one page of a partition. -/
  | s2invPage (part : Nat) (page : Nat)
  /-- S2INV_ALL (R384). Removes every stage-2 translation of a partition. -/
  | s2invAll (part : Nat)
  /-- ROUTE_WRITE (R390). Sets the ports to a device, holding new transactions until removed ports drain. -/
  | routeWrite (dev : Nat) (v : Word)
  /-- HEAD_MODE_WRITE (R299). Writes a head's video mode, checked, and trains the link on enable. -/
  | headModeWrite (head : Nat) (isTime : Bool) (v : Word)
  /-- PROFNEXT_WRITE (R406). Stores the profile for the next power-on or device reset after checking it. -/
  | profnextWrite (v : Word)
  /-- QUEUE_DEFINE (R380). Writing V = 1 defines a hardware queue and clears its counts. -/
  | queueDefine (stack : Nat) (idx : Nat) (desc : BitVec 256)
  /-- QUEUE_UNDEFINE (R380). Writing V = 0 undefines a hardware queue and discards its entries. -/
  | queueUndefine (stack : Nat) (idx : Nat)
  /-- DOORBELL (R366). A doorbell write advances WPTR of a host queue or halts it on overrun. -/
  | doorbell (queue : Nat) (v : BitVec 32)
  /-- SLOT_MAP (R375). Writing V = 1 maps a host queue into a hardware slot. -/
  | slotMap (slot : Nat) (v : Word)
  /-- SLOT_UNMAP (R375). Writing V = 0 unmaps a queue and writes its pointers back. -/
  | slotUnmap (slot : Nat)
  /-- SLOT_RESTART (R375). Writing RST restarts a halted queue at RPTR. -/
  | slotRestart (slot : Nat)
  /-- NOP_PACKET (R367). A NOP packet, a barrier when BAR is set. -/
  | nopPacket (slot : Nat)
  /-- LAUNCH (R370). A LAUNCH packet acquires its handles and deals its strands. -/
  | launch (slot : Nat)
  /-- SIGNAL (R372). A SIGNAL packet sets or adds to a signal with a full summary. -/
  | signal (slot : Nat)
  /-- WAIT_PACKET (R372). A WAIT packet tests a signal and parks the slot on its wait list. -/
  | waitPacket (slot : Nat)
  /-- INDIRECT (R374). An INDIRECT packet runs the packets of a buffer. -/
  | indirect (slot : Nat)
  /-- COPY_PACKET (R373). A COPY packet runs a byte copy on the partition's lowest core. -/
  | copyPacket (slot : Nat)
  /-- LAUNCH_COMPLETE (R371). A completed launch releases its handles, adds to CSIG and raises its event. -/
  | launchComplete (number : Nat)
  /-- MSIX_EVENT (R376). An event to a vector is held and sent when HELD reaches COUNT. -/
  | msixEvent (vec : Nat)
  /-- COALESCING_TIMER (R376). The hold timer of a vector expires and its message is sent. -/
  | coalescingTimer (vec : Nat)
  /-- FIRMWARE_EXCEPTION (R378). A firmware exception writes a crash record and reboots the firmware core. -/
  | firmwareException (mcause : Word) (mepc : Word) (mtval : Word) (xregs : List (BitVec 32))
  /-- WATCHDOG_EXPIRY (R378). Expiry of the firmware watchdog writes a crash record and reboots the firmware. -/
  | watchdogExpiry (mcause : Word) (mepc : Word) (mtval : Word) (xregs : List (BitVec 32))
  /-- FAULT_RESOLVED (R337). Firmware places a resolved record after the driver maps a forwarded fault. -/
  | faultResolved (core : Nat) (ctx : Nat)
  /-- FWDREC (R337). Forwards a trap record to firmware, completing once firmware has copied it. -/
  | fwdrec (core : Nat) (v : Word)
  /-- FLIT_RECEIVE (R389). A port receives a flit, checks its CRC and acknowledges or negatively acknowledges it;
  the mark with it says whether it is the one with which its partner starts to resend. -/
  | flitReceive (port : Nat) (flit : BitVec 256 × Bool)
  /-- ACK_TIMER (R389). An acknowledgement is sent every 64 flits or every 1 us. -/
  | ackTimer (port : Nat)
  /-- LINK_RETRAIN (R389). A flit replayed 8 times starts retraining; a failure sets the port down. -/
  | linkRetrain (port : Nat) (ok : Bool)
  /-- CURRENT_LIMITER_STEP (R398). Each us the current limiter adds or releases a gated context. -/
  | currentLimiterStep (slice : Nat) (above : Bool) (below : Bool)
  /-- COLLECTIVE_COMPLETE (R399). A pacing collective completes and leads are measured, adjusting REM at each window end. -/
  | collectiveComplete (lead : Int) (period : Nat)
  /-- THERMAL_STEP (R400). Every 100 us at HOT the thermal controller gates or releases one context per core. -/
  | thermalStep (temp : BitVec 8)
  /-- EMERGENCY_SAVE (R401). At CRIT firmware halts everything, saves and seals each partition, and powers down. -/
  | emergencySave
  /-- THERMAL_TRIP (R402). The analogue comparator switches off the compute rails after putting HBM in self-refresh. -/
  | thermalTrip
  /-- ATTESTATION_REQUEST (R409). The management controller commits its counter and returns a signed response: a
  request arrives with its nonce, and the controller serves what has arrived in turns of its own. -/
  | attestationRequest (nonce : Option (BitVec 256))
  /-- PROFILE_STORE_COMMITTED (R406). The management controller commits the new profile to its non-volatile store and BUSY
  in PROFNEXT returns to 0. -/
  | profileStoreCommitted
  /-- FIRMWARE_RETURN (R379). The rebooted firmware core sets FWUP again, FB returns to 0 and priority service of the
  slots resumes. -/
  | firmwareReturn
  /-- EVICTION_WRITEBACK (R94). A dirty L1 sector evicted by replacement has its masked bytes performed at its home slice
  as an A-class writeback. -/
  | evictionWriteback (core : Nat) (sector : Nat)
  /-- POSTED_ATOMIC_PERFORMED (R194). An atomic with DST = g0 is performed at its home slice or scratchpad after the
  issuing strand has moved on. -/
  | postedAtomicPerformed (n : Nat)
  /-- SCRIPT_INSTRUCTION (R266). A sequencer reaches and issues the next instruction of a running script, or stops the
  script as an engine fault. -/
  | scriptInstruction (core : Nat) (seqr : Nat)
  /-- CLOCK_STRETCH (R397). A droop stretches a slice's core clocks and counts in STRETCH. -/
  | clockStretch (slice : Nat)
  /-- POWER_ON_RESET (R404). The always-on rail rises and everything is cleared. -/
  | powerOnReset (board : Board)
  /-- DEVICE_RESET (R404). A fundamental or side-band reset clears the device but keeps sealed save areas. -/
  | deviceReset (board : Board)
  /-- HOST_ACCESS (R122). A host read or write through a window is performed at the home slice as an uncached access. -/
  | hostAccess (unit : Nat) (write : Bool) (mpa : Nat) (bytes : List Byte)
  /-- CARVE_WRITE (R91). A write of SCR resizes the scratchpad and L1, or sets ERR when refused. -/
  | carveWrite (core : Nat) (v : Word)
  /-- FRAME_WRITE (R328). A write of the frame area register, refused with ERR unless allowed. -/
  | frameWrite (core : Nat) (v : Word)
  /-- FIFO_FLUSH (R328). Writing FLUSH bits empties the named core FIFOs. -/
  | fifoFlush (core : Nat) (v : Word)
  /-- TRAPVEC_WRITE (R341). Sets the trap vector after checking its page. -/
  | trapvecWrite (part : Nat) (v : Word)
  /-- FEEDQ_WRITE (R380). Names the feed queues, checked against spawn queues of the partition. -/
  | feedqWrite (core : Nat) (v : Word)
  /-- FRAMEQ_WRITE (R380). Names the frame free list, checked against value queues of the partition. -/
  | frameqWrite (part : Nat) (v : Word)
  /-- PRIVATE_WINDOW_WRITE (R327). Writes PWBASE or PWSIZE with the pair alignment check. -/
  | privateWindowWrite (part : Nat) (isSize : Bool) (v : Word)
  /-- S1ROOT_WRITE (R331). Writes a stage-1 root and removes that address space's translations. -/
  | s1rootWrite (part : Nat) (as : Nat) (v : Word)
  /-- SURFACE_BIND (R287). Writing a descriptor address to SURFBIND checks and binds the surface. -/
  | surfaceBind (part : Nat) (surf : Nat) (v : Word)
  /-- SURFACE_UNBIND (R288). Writing 0 to SURFBIND starts the unbind of the surface. -/
  | surfaceUnbind (part : Nat) (surf : Nat)
  /-- TASK_TYPE_WRITE (R329). Writes a task-type table entry for later placements. -/
  | taskTypeWrite (part : Nat) (n : Nat) (v : Word)
  /-- REGISTER_WRITE (R326). A device-level or MMIO write to a register with no behaviour of its own. -/
  | registerWrite (off : Nat) (v : Word)
  /-- POWER_LOSS (R409). The board supply or the always-on rail falls, taking every volatile state and any uncommitted
  attestation or save with it. -/
  | powerLoss (rail : Bool)
  /-- SOFT_ERROR (R392). A corrected or uncorrected soft error is detected and its source writes an event record of kind 2
  or 3. -/
  | softError (source : Nat) (corrected : Bool) (data : BitVec 128)
  /-- TEMP_REACHES_HOT (R400). The hottest sensor reaches HOT, STATE becomes 1 and a thermal state change event is raised. -/
  | tempReachesHot (temp : BitVec 8)
  /-- DISPLAY_SINK_CHANGE (R299). A display sink is attached to or removed from a head, so that EN reads 0 while the sink
  is absent. -/
  | displaySinkChange (head : Nat) (present : Bool)
  deriving DecidableEq, Repr

end Sys2Proof
end

