-- ==== Sys2Proof/Machine/State.lean ====
section
/-! DEFINITION. The whole state of a TX192 as the spec gives it, as plain data, and the state after reset. -/

namespace Sys2Proof.Machine

/-- The states of a context (R24). -/
inductive CtxState where
  | free | ready | parked | trapped | stopped
  deriving DecidableEq, Repr

/-- What a parked context waits for (R24, R59). -/
inductive Wake where
  | none
  /-- A join cell, by its home address and its page's home mode (R213). -/
  | cell (obj : Nat) (hm : Bool)
  /-- A signal, by its home address and its page's home mode, with the condition (R202). -/
  | signal (obj : Nat) (hm : Bool) (rel : BitVec 2) (thr : Word)
  /-- RECV on one priority, or WAITM on either (R197). -/
  | mail (pri : Option Bool)
  /-- Queue registers that are empty or full: the sources and destinations of the waiting instruction (R53). -/
  | fifo (srcs dsts : List Opnd)
  /-- A pop request at a hardware queue (R220). -/
  | qpop (queue : Nat)
  /-- A quad's lock at its owner (R296). -/
  | pxlock (owner quad seq : Nat)
  /-- ENGREND (R268). -/
  | engrend
  /-- RAST with no primitive for its surface (R293). -/
  | prim (surf : Nat)
  /-- WAITE on an empty trap queue (R346). -/
  | waite
  deriving DecidableEq, Repr

/-- A result issued to a register and not yet landed: `ready` is the turn from which it may be read, and none for a
variable-latency result (R144, R146); `unit` marks one that the special-function unit is still computing (R175), and
`fifo` is the FIFO that a result to a queue register goes to, as it was bound at issue (R52). -/
structure Flight where
  o     : Opnd
  v     : Word
  ready : Option Nat
  unit  : Bool
  fifo  : Nat
  deriving DecidableEq, Repr

/-- A tensor or matrix instruction whose last chunk has run: what its completion writes its status word to, where the pc
goes, its stall count, and the sources whose queue registers it pops then (R53, R231, R253). -/
structure Fin where
  stat : Word
  pc   : Word
  wait : Nat
  mx   : Bool
  pops : List Opnd
  deriving DecidableEq, Repr

/-- A combined translation held in a TLB (R335): its partition, address space, first virtual address and size, the
machine address it maps to, and its attributes. -/
structure Tlb where
  part  : Nat
  as    : Nat
  va    : Nat
  size  : Nat
  mpa   : Nat
  pa    : Nat
  w     : Bool
  x     : Bool
  uc    : Bool
  hm    : Bool
  sh    : BitVec 2
  locked : Bool
  deriving DecidableEq, Repr

/-- Where an access goes, decoded and translated: the key of its first byte and, for a global page, its
translation. -/
structure Place where
  key : Nat
  tlb : Option Tlb
  deriving DecidableEq, Repr

/-- One context: what R58 and R59 list, with the results in flight, the stall turns left (R144), what a wake event has
brought, the launch its strand descends from (R371), and the result and flags that the special-function unit has delivered
to an FSFU instruction that may trap on them (R176). `running` is the instruction that holds the strand or that the strand
is parked at, and `vals` the values of its sources as it read them when it issued (R140, R147); `busy` says that one runs
(R231, R253), `woken` that a wake event has come for one that then looks again itself (R53, R346), `blocks` the registers
whose results, of the last instruction, hold the strand until they land (R187), and `reading` what the strand's last
instruction loads, until its result lands or the strand goes on: the read may be performed at any time before that (R107).
`kept` are the resume indices, partial status words and totals of the instructions that vectored entries have interrupted,
each with its address (R60, R342). `rastOn` are the descriptor and the map of the surface that a RAST in progress has
issued on (R293, R295). `rejected` are the engine-fault records of actions that their targets have rejected, which no
resumption gives again (R260, R261). -/
structure Ctx where
  st     : CtxState
  resume : CtxState
  pc     : Word
  h      : NMap Word
  w0     : Word
  w1     : Word
  wpend  : List (Word × Nat)
  flight : List Flight
  q      : NMap (BitVec 6)
  c      : BitVec 8
  ff     : Word
  jc     : Word
  shapes : NMap (BitVec 512)
  ttype  : BitVec 6
  as     : Nat
  chk    : Bool
  dl     : Nat
  win    : BitVec 2
  winBase : Nat
  fbase  : Nat
  fsize  : Nat
  ri     : Nat
  status : BitVec 128
  total  : Word
  summ   : Summary
  wake   : Wake
  grant  : Option (Word × Option Summary)
  parkSeq : Nat
  gated  : Bool
  stall  : Nat
  eng    : Summary
  busy   : Bool
  fin    : Option Fin
  reserved : Option (Nat × Bool)
  etrap  : Option (BitVec 256)
  rejected : List (BitVec 256)
  rastOn   : Option (BitVec 512 × List Nat)
  rtrap  : Option (Word × Nat × Summary)
  launch : Nat
  sfuOut : Option (Word × Nat)
  running : Option Instr
  vals    : List Word
  woken   : Bool
  blocks  : List Opnd
  reading : Option (Place × Ty)
  kept    : List (Word × Nat × BitVec 128 × Word)
  deriving DecidableEq, Repr

/-- A 16-byte L1 sector: its bytes, which of them are valid and which are dirty, and whether its page is of the
shared class and quadrant-local (R94, R95). -/
structure Sector where
  data   : BitVec 128
  valid  : BitVec 16
  dirty  : BitVec 16
  shared : Bool
  hm     : Bool
  deriving DecidableEq, Repr

/-- A mailbox message or hardware-queue value: its payload, and the sender's summary when it is an edge (R196). -/
structure Msg where
  payload : Word
  summ    : Option Summary
  deriving DecidableEq, Repr

/-- A child record: what SPAWN, SPAWNQ, FORKR and a launch hand to a dispatcher (R28, R29, R210, R211). -/
structure Child where
  pc     : Word
  ttype  : BitVec 6
  g1     : Word
  g2     : Word
  g3     : Word
  g4     : Word
  jc     : Word
  summ   : Summary
  launch : Nat
  deriving DecidableEq, Repr

/-- An entry of a dispatcher: a child with its source (0 the direct list, 1-4 a feed queue), or a continuation held in
the frame at a partition-physical address; `first` marks a FORKR continuation, which enters ahead of the others (R40,
R42). -/
inductive Entry where
  | child (c : Child) (src : Nat)
  | cont (frame : Nat) (summ : Summary) (launch : Nat) (first : Bool)
  deriving DecidableEq, Repr

/-- A continuation held in a frame: the core it left, its launch, and its scratch frame there, with its bytes as it left it
(R34). -/
structure Cont where
  core   : Nat
  launch : Nat
  fbase  : Nat
  scratch : List Byte
  deriving DecidableEq, Repr

/-- An image saved with its frame held (R352), and what its strand keeps that the image does not carry: its launch, its
type's address space, checking and deadline class, the completion edges for its next ENGREND, what a RAST in progress has
issued on (R295), and the records that are due to it (log entry 136). -/
structure Held where
  addr   : Nat
  fbase  : Nat
  fsize  : Nat
  launch : Nat
  as     : Nat
  chk    : Bool
  dl     : Nat
  eng    : Summary
  rast   : Option (BitVec 512 × List Nat)
  etraps : List (BitVec 256)
  deriving DecidableEq, Repr

/-- The resident B of a matrix engine: K, N, its format word and its scale vector (R241). -/
structure BDesc where
  k     : Nat
  n     : Nat
  fmt   : BitVec 64
  scale : List (Option (BitVec 32))
  deriving DecidableEq, Repr

/-- A matrix engine (R241). A latch that is listed is set: to none, or to a scale. `owner` is the claiming strand of
partition `lastPart`, `waiters` the strands interlocked on the claim with their pcs (R244), `part` a gang member's share
of an MMST in progress, `run` the operation in progress, `seen` the sectors that it has read (R131), and `err` an array
error that the next row will meet: 1 one that a rerun mends, 2 one that it does not (R250). -/
structure Matrix where
  array  : NMap Nat
  b      : Option BDesc
  row    : List Nat
  acc    : NMap (BitVec 32)
  cls    : BitVec 2
  rowL   : NMap (Option (BitVec 32))
  colL   : NMap (Option (BitVec 32))
  status : BitVec 128
  owner  : Option Nat
  lastPart : Option Nat
  gang   : Nat
  lastRel : Nat
  waiters : List (Nat × Word)
  part   : BitVec 128
  run    : Option Nat
  seen   : NMap (BitVec 128)
  err    : Nat
  deriving DecidableEq, Repr

/-- A copy in its slot (R255-R261): the form, the shapes captured at acceptance, the action, the issuer and the progress:
`ri` the next unit, `pos` its first element, `mri` the next row of a CPYMM command. `phase` is 0 while units remain, 1
while a CPYMM command is to be given, 2 while it runs, 3 when the status word and the action remain, 4 when only the
action does, 5 while the node's core has not accepted its decrement, 6 when the action has been rejected. `order` numbers
the copies of a core in acceptance order, and `seqr` is the sequencer of a script's copy, and `launch` the number of a
host queue's COPY (R373), 0 for the others. -/
structure Copy where
  form   : Nat
  d      : BitVec 512
  a      : BitVec 512
  m      : BitVec 512
  mop    : Nat
  arow   : Nat
  rop    : Nat
  act    : Nat
  pri    : Bool
  target : Word
  val    : Word
  ctx    : Nat
  part   : Nat
  as     : Nat
  pc     : Word
  ri     : Nat
  applied : List Nat
  status : BitVec 128
  summ   : Summary
  regs   : Summary
  phase  : Nat
  mri    : Nat
  order  : Nat
  stopped : Bool
  seqr   : Option Nat
  pos    : Nat
  launch : Nat
  deriving DecidableEq, Repr

/-- A script in a sequencer (R266, R267). `caught` are the shape records of the operation in progress, as they were when it
was accepted (R261). -/
structure Script where
  off    : Nat
  pos    : Nat
  len    : Nat
  h      : List Word
  shpt   : Word
  node   : Word
  ctx    : Nat
  part   : Nat
  as     : Nat
  ri     : Nat
  status : BitVec 128
  total  : Word
  summ   : Summary
  regs   : Summary
  stopped : Bool
  caught : List (BitVec 512)
  deriving DecidableEq, Repr

/-- A fired node's action, waiting its turn at the graph unit (R264): `slot` is the summary slot it frees, `off` the
node's offset. -/
structure Fired where
  act    : Nat
  target : Word
  arg    : Word
  ctx    : Nat
  part   : Nat
  as     : Nat
  summ   : Summary
  slot   : Nat
  off    : Nat
  stopped : Bool
  deriving DecidableEq, Repr

/-- A primitive message (R290): its surface, sequence number, attribute count, edges and planes; the progress a RAST has
made through it, whether a list of it has been written, and, while a RAST works on it, the number of that RAST (R293,
R294). -/
structure Prim where
  surf   : Nat
  seq    : Nat
  nattr  : Nat
  edges  : List (Int × Int × Int)
  planes : List (BitVec 32 × BitVec 32 × BitVec 32)
  done   : Nat
  cont   : Bool
  taken  : Option Nat
  deriving DecidableEq, Repr

/-- An entry of the interlock table, with the strand that holds the quad (R296). -/
structure Lock where
  quad   : Nat
  seq    : Nat
  holder : Option Nat
  deriving DecidableEq, Repr

/-- The request in service at a core's special-function unit (R175): its context, the core cycle at which its service ends,
its flags, and the result of an instruction that waits for them because one of them may trap (R176). -/
structure Sfu where
  ctx   : Nat
  upto  : Nat
  flags : Nat
  held  : Option Word
  deriving DecidableEq, Repr

/-- A SEND that a mailbox priority without room holds back (R196): its context and pc, the core and the priority. -/
structure Offer where
  ctx : Nat
  pc  : Word
  aim : Nat
  hi  : Bool
  deriving DecidableEq, Repr

/-- One core (R11). `offers` are the SENDs that wait for room, in order. `counts` are the three counts that the last halt
has left in a heartwood image (R359), and `ring0` and `ring1` the places in the spill rings of the oldest entries there
(R363). `sfuWait` are the contexts whose requests wait for the special-function unit, and `lastSfu` the one it served last
(R45, R175). `forced` is a context whose instruction the next slot of context 0 completes on its behalf (R352). `primOut`
are the primitive messages a TRIBIN has sent and no owner has accepted: the TRIBIN's number, the owner and the message
(R290). -/
structure Core where
  cycle  : Nat
  regs   : NMap Word
  ctxs   : NMap Ctx
  scratch : NMap Byte
  carve  : Word
  frame  : Word
  feedq  : Word
  l1     : NMap Sector
  icache : NMap (BitVec 128)
  tlb    : List Tlb
  fifos  : NMap (List Word)
  mail0  : List Msg
  mail1  : List Msg
  direct : List Entry
  directHeld : List Entry
  head   : Option Entry
  asked  : Bool
  held   : List Held
  trapq  : List (BitVec 256)
  trapHeld : List (BitVec 256)
  seq    : Nat
  entryDue : List Word
  winOpen : Bool
  halted : Bool
  frozen : Bool
  dead   : Bool
  mx     : Matrix
  copies : NMap Copy
  lastCopy : Nat
  copySeq : Nat
  copyWait : List (Nat × Word)
  slots  : NMap Summary
  nodes  : List Nat
  fired  : List Fired
  seqrs  : NMap Script
  prims  : List Prim
  primOut : List (Nat × Nat × Prim)
  locks  : List Lock
  lockReqs : List (Nat × Nat × Nat)
  sent   : NMap (BitVec 32)
  issued : Nat
  msgOut : Nat
  msgIn  : Nat
  waddr  : NMap Word
  wctl   : NMap Word
  spill0 : List Msg
  spill1 : List Msg
  parkCtr : Nat
  sfu    : Option Sfu
  sfuWait : List Nat
  lastSfu : Nat
  offers : List Offer
  counts : Nat × Nat × Nat
  ring0  : Nat
  ring1  : Nat
  forced : Option Nat
  deriving DecidableEq, Repr

/-- A refinement loop controller (R269-R284): the block it runs and its progress through the loop of R276. `phase` is 0
idle, 1 claiming its gang, 2 a Factor, 3 a pass, 4 the exit writes, 5 the action, 6 the exit writes again, 7 while the
node's core has not accepted the action's decrement. -/
structure Refine where
  phase  : Nat
  blk    : Word
  core   : Nat
  ctx    : Nat
  part   : Nat
  as     : Nat
  pc     : Word
  a      : Word
  b      : Word
  x      : Word
  ws     : Word
  n      : Nat
  lda    : Nat
  tol    : Word
  rho    : Word
  delta  : Word
  ctrl   : Word
  stag   : Nat
  maxit  : Nat
  tgt    : Word
  arg    : Word
  rung   : Nat
  passes : Nat
  pass   : NMap Nat
  esc    : Nat
  fail   : BitVec 4
  k      : Nat
  run    : Nat
  nu0    : Word
  nuPrev : Word
  nuBest : Word
  beta   : Word
  bs     : List Word
  xs     : List Word
  xbest  : List Word
  t      : List (List Word)
  trung  : Nat
  perm   : List Nat
  exit   : Nat
  act    : Nat
  status : BitVec 128
  summ   : Summary
  stopped : Bool
  deriving DecidableEq, Repr

/-- One slice: its L2 TLB, its refinement controller and its power state (R9, R335, R397, R398). -/
structure Slice where
  tlb    : List Tlb
  rf     : Refine
  target : BitVec 7
  stretch : Nat
  limit  : Nat
  deriving DecidableEq, Repr

/-- A tile of a bound surface: its pending handover and its shown buffer (R300). -/
structure Tile where
  pend  : Option (Bool × BitVec 32 × Bool)
  shown : Option (Bool × Bool)
  deriving DecidableEq, Repr

/-- A bound surface (R285-R304); `number` tells one bind from another. -/
structure Surface where
  desc   : BitVec 512
  map    : List Nat
  t0     : Nat
  fFrame : Nat
  fBand  : Nat
  sFrame : Nat
  sBand  : Nat
  bands  : List (Nat × Nat × List Byte)
  skipped : Bool
  late   : Nat
  lost   : Nat
  captured : Nat
  tiles  : NMap Tile
  unbind : Option Word
  number : Nat
  deriving DecidableEq, Repr

/-- A step that something outside the issue slots will make, not before a mesh cycle. -/
structure Pend where
  due : Nat
  ev : Instr
  deriving DecidableEq, Repr

/-- One partition: the registers of R327, R364 and R381 that belong to it, and its bound surfaces; `next` are the QMASK and
SPILL that were written with V = 0, which it takes once it is off (R16, R381). -/
structure Part where
  v      : Bool
  spill  : Bool
  res    : Nat
  st     : Nat
  qmask  : BitVec 4
  pc     : Word
  trapvec : Word
  pwbase : Word
  pwsize : Word
  frameq : Word
  scrwin : Word
  s1root : NMap Word
  s2root : Word
  surfRes : NMap Nat
  surfAddr : NMap Word
  surfs  : NMap Surface
  tt     : NMap Word
  htbase : Word
  htsize : Word
  perrsig : Word
  savebase : Word
  spillbase : Word
  fgrant : NMap Word
  ending : Bool
  swapping : Bool
  held   : List Pend
  solves : NMap Refine
  next   : Option (BitVec 4 × Bool)
  dfaults : List (Nat × BitVec 256)
  deriving DecidableEq, Repr

/-- A hardware-queue descriptor (R380), with what its logic keeps beside it: the pop requests waiting (R220) and the
launches its spawn records descend from (R371). -/
structure HwQ where
  rbase  : Word
  count  : Nat
  rsvd   : Nat
  head   : BitVec 32
  tail   : BitVec 32
  v      : Bool
  spawn  : Bool
  remote : Bool
  log2n  : Nat
  pmask  : BitVec 4
  pops   : List (Nat × Nat)
  lin    : List Nat
  deriving DecidableEq, Repr

/-- A buffer an INDIRECT runs (R374): its base, its length in entries and the next entry. -/
structure Buf where
  base  : Nat
  count : Nat
  pos   : Nat
  deriving DecidableEq, Repr

/-- A hardware slot with the queue it serves (R375, R365): `desc` is the queue's descriptor as it was mapped. `number` and
`words` are the launch number and the words of a LAUNCH or COPY that has passed its checks, and `next` the next strand of
a LAUNCH that is being dealt (R370). `wcond` is the object, its page's home mode, the relation and threshold of a WAIT
that has joined a wait list, `woken` a WAIT that an update has satisfied (R372), and `closing` a slot that is being
unmapped. -/
structure HSlot where
  pri    : Nat
  queue  : Nat
  desc   : BitVec 512
  rptr   : BitVec 32
  wptr   : BitVec 32
  halted : Bool
  err    : Nat
  bufs   : List Buf
  summ   : Summary
  number : Nat
  words  : List Word
  next   : Option Nat
  wcond  : Option (Nat × Bool × Nat × Word)
  woken  : Bool
  closing : Bool
  deriving DecidableEq, Repr

/-- An outstanding launch or copy of a host queue (R370, R371, R373): its queue, its handles with their ACC, the ring
position of its packet, and for a COPY its core and copy slot; `bufs` are the buffers that its packet stands in, innermost
first (R374). -/
structure Launch where
  queue  : Nat
  part   : Nat
  as     : Nat
  live   : Nat
  dealt  : Bool
  handles : List (Nat × Nat)
  csig   : Word
  cadd   : Word
  vec    : Nat
  ven    : Bool
  rpos   : BitVec 32
  copy   : Option (Nat × Nat)
  bufs   : List Buf
  deriving DecidableEq, Repr

/-- What an edge record for another device does there (R120): a signal update, a join, a message or a queue value. A signal
update carries the context of the strand to which a trap comes when the object rejects it, with that trap's record (R201,
R260); none for a host queue's. -/
inductive Edge where
  | signal (obj : Nat) (set init : Bool) (core : Nat) (v : Word) (summ : Summary) (late : Option (Nat × BitVec 256))
  | join (obj : Nat) (summ : Summary)
  | mail (dev core : Nat) (hi : Bool) (m : Msg)
  | queue (dev : Nat) (handle : Nat) (m : Msg)
  deriving DecidableEq, Repr

/-- A transaction on its way to its destination (R99, R119, R120). -/
inductive Posted where
  /-- A store, or a part of one: the source core and context, its destination key in memory, its bytes, and whether the store
  has been performed once this part has, so that the counts of R120 rise with it. -/
  | store (core ctx : Nat) (key : Nat) (bytes : List Byte) (last : Bool)
  /-- A posted atomic: the source core and context, destination key, whether its page is quadrant-local, the type, the
  operation (0-6 AMO, 7 AMOF, 8 CAS) and the operands. -/
  | amo (core ctx : Nat) (key : Nat) (hm : Bool) (ty : Ty) (op : Nat) (b c : Word)
  /-- An edge record that its destination device holds until the landed count reaches the carried one: the device, the
  source core, the carried count and what it does. -/
  | edge (dev core : Nat) (count : BitVec 32) (e : Edge)
  deriving DecidableEq, Repr

/-- A Miljor Link port (R388-R390); `buf` holds the flits not yet acknowledged, each with its number and how often it has been
replayed. -/
structure Port where
  st     : Nat
  retry  : Nat
  crcerr : Nat
  pdev   : BitVec 4
  pport  : BitVec 3
  txSeq  : Nat
  rxSeq  : Nat
  buf    : List (Nat × BitVec 256 × Nat)
  sinceAck : Nat
  discard : Bool
  out    : List (BitVec 256)
  rx     : List (BitVec 256)
  deriving DecidableEq, Repr

/-- A display head's registers, and whether its sink is present and its link trained (R299). -/
structure Head where
  hmode : Word
  htime : Word
  sink  : Bool
  trained : Bool
  deriving DecidableEq, Repr

/-- An attestation response: what is signed together, and the signature (R408). -/
structure Reply where
  signature : List Byte
  index  : Nat
  measurement : BitVec 256
  nonce  : BitVec 256
  svn    : Nat
  profile : BitVec 2
  order  : BitVec 2
  deriving DecidableEq, Repr

/-- The registers and the tightly coupled memory, of `size` bytes, of an RV32IMC core of the firmware complex (R12). No
rule says what the programs of these cores do beyond the effects that the events give, and no step reads them (log entry
109). -/
structure Rv32 where
  x    : NMap (BitVec 32)
  pc   : BitVec 32
  size : Nat
  tcm  : NMap Byte
  deriving DecidableEq, Repr

/-- A core of the firmware complex that holds nothing: 256 KiB of the firmware core's memory, 64 KiB of the management
controller's (R12). -/
def Rv32.blank (size : Nat) : Rv32 := ⟨[], 0, size, []⟩
def tcmFirmware : Nat := 262144
def tcmControl : Nat := 65536

/-- The management controller and its non-volatile store (R402, R406, R409). `pendProf` is a profile being stored, `key`
the key that it attests with, `pendSig` the index and nonce of the request being served, `reqs` the requests that have
arrived behind it, and `bootStop` the step at which a boot stopped, with its cause (R405; log entry 16). -/
structure Mgmt where
  profile  : Option (BitVec 2)
  pendProf : Option (BitVec 2)
  minSvn   : Nat
  tripped  : Bool
  sealedRec : BitVec 4
  counter  : Nat
  pendSig  : Option (Nat × BitVec 256)
  reqs     : List (BitVec 256)
  replies  : List (Option Reply)
  bootStop : Option (Nat × Nat)
  ctl      : Rv32
  key      : BitVec 256
  deriving DecidableEq, Repr

/-- The device-level registers and counters (R364, R376, R378, R381, R392, R399, R400). `arrivals` are the SIGADDs
performed at the pacing signal for the collective in progress, each with its device and time, and `lastColl` when the last
collective was complete (R399), `saving` the partition that an emergency save comes to next (R401), `fwd` the trap records
that firmware has taken for the host driver, each with its core (R337), `saved` the save area of each sealed partition,
base and size (R401), `hread` what the last host read returned (R122), `slotRw` the PRI and QUEUE that each slot register
was last given (R375), `bells` the queues held by no slot whose doorbells firmware has been told of (R366), `nesting` the
buffers that a queue was running, innermost first, when it last halted (R374), `waitSumm` the summaries of the signals
that a queue's WAITs were satisfied by, kept while no slot holds it (R370), and `reports` what firmware has recorded of
double faults: the core, h6, h7 and the failing record (R343). -/
structure Dev where
  number : BitVec 4
  domain : Bool
  assigned : BitVec 16
  order  : BitVec 2
  profile : BitVec 2
  heads  : BitVec 4
  cxlCache : Bool
  cxlMem : Bool
  measurement : BitVec 256
  svn    : Nat
  route  : NMap Word
  evbase : Word
  evctl  : Word
  evprod : BitVec 32
  evcons : BitVec 32
  evseq  : NMap (BitVec 32)
  temp   : BitVec 8
  trip   : BitVec 8
  crit   : BitVec 8
  hot    : BitVec 8
  thermState : BitVec 2
  thermGate : Nat
  saving    : Option Nat
  pacectl : Word
  pacesig : Word
  rem    : Nat
  late   : Nat
  leads  : List (Int × Nat)
  arrivals : List (Nat × Nat)
  lastColl : Option Nat
  paceSkip : Bool
  sealedM : BitVec 4
  hd     : NMap Head
  ports  : NMap Port
  cpcfg  : Word
  qdbase : Word
  hslots : NMap HSlot
  slotRw : NMap Word
  bells  : List Nat
  nesting : NMap (List Buf)
  waitSumm : NMap Summary
  lastSlot : Nat
  coal   : NMap Word
  msix   : NMap Word
  pba    : NMap Bool
  msgs   : List Nat
  launches : NMap Launch
  nextLaunch : Nat
  hwq    : NMap HwQ
  hwatch : NMap Word
  crash  : NMap Byte
  crashSeq : Nat
  fwd    : List (Nat × BitVec 256)
  saved  : NMap (Nat × Nat)
  hread  : List Byte
  reports : List (Nat × Word × Word × BitVec 256)
  fw     : Rv32
  deriving DecidableEq, Repr

/-- The machine. `cur` is the core whose slot comes next, `idle` the clocks that make no edge in this round of the cores
(bit 192 the mesh's), `mesh` the mesh cycle, `agenda` the steps that events will make, `free` the counter of free values
(log entries 2 and 3), `conts` the scratch frames of strands that have left their cores (R34), `waits` the wait lists of
sync objects in order (R202). `cores` lists each core under its number, and the heartwood image of core `c` under 256 +
`c` (R362). -/
structure State where
  powered : Bool
  cur    : Nat
  idle   : BitVec 193
  mesh   : Nat
  free   : Nat
  cores  : NMap Core
  slices : NMap Slice
  parts  : NMap Part
  dev    : Dev
  mem    : NMap Byte
  posted : List Posted
  landed : NMap (BitVec 32)
  waits  : List (Nat × Nat)
  conts  : NMap Cont
  mxSpill : NMap Matrix
  agenda : List Pend
  mgmt   : Mgmt
  board  : Board
  deriving DecidableEq, Repr

/-- Why a step stops with a fault. -/
inductive Fault where
  /-- A step of a device whose compute rails are off or whose boot stopped, with no event due. Raised by `step`. Safe:
  such a device makes no step until it is reset (R402, R405). -/
  | poweredOff
  deriving DecidableEq, Repr

/-- Why an instruction has no meaning. -/
inductive Refusal where
  /-- The instruction has no meaning in the model. Raised by the arms of `exec` that say so. Safe: the machine stops. -/
  | notModelled (mnemonic : String)
  deriving DecidableEq, Repr

/-- A matrix engine at reset: unclaimed and empty. -/
def Matrix.reset : Matrix where
  array := []
  b := none
  row := []
  acc := []
  cls := 0
  rowL := []
  colL := []
  status := 0
  owner := none
  lastPart := none
  gang := 1
  lastRel := 15
  waiters := []
  part := 0
  run := none
  seen := []
  err := 0

/-- A context that holds no strand, with the values of R58. -/
def Ctx.reset : Ctx where
  st := .free
  resume := .free
  pc := 0
  h := []
  w0 := 0
  w1 := 0
  wpend := []
  flight := []
  q := []
  c := 1
  ff := 0
  jc := 0
  shapes := []
  ttype := 0
  as := 0
  chk := false
  dl := 0
  win := 0
  winBase := 0
  fbase := 0
  fsize := 0
  ri := 0
  status := 0
  total := 0
  summ := 0
  wake := .none
  grant := none
  parkSeq := 0
  gated := false
  stall := 0
  eng := 0
  busy := false
  fin := none
  reserved := none
  etrap := none
  rejected := []
  rastOn := none
  rtrap := none
  launch := 0
  sfuOut := none
  running := none
  vals := []
  woken := false
  blocks := []
  reading := none
  kept := []

/-- A core at reset (R90, R327, R404): the round-robin arbiters count context 15 as last served (R45). -/
def Core.reset : Core where
  cycle := 0
  regs := []
  ctxs := []
  scratch := []
  carve := 0
  frame := 0
  feedq := 0
  l1 := []
  icache := []
  tlb := []
  fifos := []
  mail0 := []
  mail1 := []
  direct := []
  directHeld := []
  head := none
  asked := false
  held := []
  trapq := []
  trapHeld := []
  seq := 0
  entryDue := []
  winOpen := false
  halted := false
  frozen := false
  dead := false
  mx := .reset
  copies := []
  lastCopy := 15
  copySeq := 0
  copyWait := []
  slots := []
  nodes := []
  fired := []
  seqrs := []
  prims := []
  primOut := []
  locks := []
  lockReqs := []
  sent := []
  issued := 0
  msgOut := 0
  msgIn := 0
  waddr := []
  wctl := []
  spill0 := []
  spill1 := []
  parkCtr := 0
  sfu := none
  sfuWait := []
  lastSfu := 15
  offers := []
  counts := (0, 0, 0)
  ring0 := 0
  ring1 := 0
  forced := none

/-- An idle refinement controller. -/
def Refine.reset : Refine where
  phase := 0
  blk := 0
  core := 0
  ctx := 0
  part := 0
  as := 0
  pc := 0
  a := 0
  b := 0
  x := 0
  ws := 0
  n := 0
  lda := 0
  tol := 0
  rho := 0
  delta := 0
  ctrl := 0
  stag := 0
  maxit := 0
  tgt := 0
  arg := 0
  rung := 0
  passes := 0
  pass := []
  esc := 0
  fail := 0
  k := 0
  run := 0
  nu0 := 0
  nuPrev := 0
  nuBest := 0
  beta := 0
  bs := []
  xs := []
  xbest := []
  t := []
  trung := 0
  perm := []
  exit := 0
  act := 0
  status := 0
  summ := 0
  stopped := false

/-- A slice at reset: TARGET is 40 (R381). -/
def Slice.reset : Slice where
  tlb := []
  rf := .reset
  target := 40
  stretch := 0
  limit := 0

/-- A partition at reset: off, every register 0 (R327, R381). -/
def Part.reset : Part where
  v := false
  spill := false
  res := 0
  st := 0
  qmask := 0
  pc := 0
  trapvec := 0
  pwbase := 0
  pwsize := 0
  frameq := 0
  scrwin := 0
  s1root := []
  s2root := 0
  surfRes := []
  surfAddr := []
  surfs := []
  tt := []
  htbase := 0
  htsize := 0
  perrsig := 0
  savebase := 0
  spillbase := 0
  fgrant := []
  ending := false
  swapping := false
  held := []
  solves := []
  next := none
  dfaults := []

/-- An undefined hardware queue (R380). -/
def HwQ.reset : HwQ where
  rbase := 0
  count := 0
  rsvd := 0
  head := 0
  tail := 0
  v := false
  spawn := false
  remote := false
  log2n := 0
  pmask := 0
  pops := []
  lin := []

/-- A link port with no partner (R381). -/
def Port.reset : Port where
  st := 0
  retry := 0
  crcerr := 0
  pdev := 0
  pport := 0
  txSeq := 0
  rxSeq := 0
  buf := []
  sinceAck := 0
  discard := false
  out := []
  rx := []

/-- A head with nothing set (R299). -/
def Head.reset : Head where
  hmode := 0
  htime := 0
  sink := false
  trained := false

/-- The management controller as a TX192-C leaves manufacture: its store holds desk (R406; log entry 5). -/
def Mgmt.reset : Mgmt where
  profile := some 1
  pendProf := none
  minSvn := 0
  tripped := false
  sealedRec := 0
  counter := 0
  pendSig := none
  reqs := []
  replies := []
  bootStop := none
  ctl := .blank tcmControl
  key := 0

/-- The device registers after boot (R330, R364, R376, R381): EVCTL.LOG2N is 6, CPCFG has FALLEN, CRASHEN and FWUP set,
CRIT 105, HOT 95, TRIP 115. The part is a TX192-C outside a fabric domain (log entry 5). -/
def Dev.reset : Dev where
  number := 0
  domain := false
  assigned := 0
  order := 1
  profile := 1
  heads := 15
  cxlCache := true
  cxlMem := true
  measurement := 0
  svn := 0
  route := []
  evbase := 0
  evctl := 6
  evprod := 0
  evcons := 0
  evseq := []
  temp := 0
  trip := 115
  crit := 105
  hot := 95
  thermState := 0
  thermGate := 0
  saving := none
  pacectl := 0
  pacesig := 0
  rem := 0
  late := 0
  leads := []
  arrivals := []
  lastColl := none
  paceSkip := true
  sealedM := 0
  hd := []
  ports := []
  cpcfg := 0x103
  qdbase := 0
  hslots := []
  slotRw := []
  bells := []
  nesting := []
  waitSumm := []
  lastSlot := 63
  coal := []
  msix := []
  pba := []
  msgs := []
  launches := []
  nextLaunch := 1
  hwq := []
  hwatch := []
  crash := []
  crashSeq := 0
  fwd := []
  saved := []
  hread := []
  reports := []
  fw := .blank tcmFirmware

/-- The board the device stands on at reset: a TX192-C with four heads and both firmware slots unread (log entry 5). -/
def boardReset : Board where
  order := 1
  profsel := 0
  slotA := []
  slotB := []
  railsOk := true
  trainOk := true
  pcieOk := true
  heads := 15
  dev := 0
  domain := false
  assigned := 0
  cxlCache := true
  cxlMem := true
  sinks := 0
  ports := []

/-- The machine right after reset and boot (R404, R405): ready, with no partition running, every context FREE, memory
listing nothing (each byte reads as zero, R404), and nothing pending. -/
def State.reset : State where
  powered := true
  cur := 0
  idle := 0
  mesh := 0
  free := 0
  cores := []
  slices := []
  parts := []
  dev := .reset
  mem := []
  posted := []
  landed := []
  waits := []
  conts := []
  mxSpill := []
  agenda := []
  mgmt := .reset
  board := boardReset

end Sys2Proof.Machine
end

