-- ==== Sys2Proof/Machine/Ops.lean ====
section
/-! DEFINITION. The named operations over the state: its parts, the numbering of the device, events, trap records, taking
a trap, and the return from one. -/

namespace Sys2Proof.Machine

abbrev Res := Host.Outcome State Fault Refusal

/-! ### Parts of the state -/

/-- A context of a core. -/
def Core.ctx (k : Core) (x : Nat) : Ctx := k.ctxs.get .reset x

/-- A core with one context replaced. -/
def Core.setCtx (k : Core) (x : Nat) (v : Ctx) : Core := { k with ctxs := k.ctxs.put x v }

/-- A core by its number. -/
def State.core (s : State) (c : Nat) : Core := s.cores.get .reset c

/-- The state with one core replaced. -/
def State.setCore (s : State) (c : Nat) (k : Core) : State := { s with cores := s.cores.put c k }

/-- One core changed. -/
def State.onCore (s : State) (c : Nat) (f : Core → Core) : State := s.setCore c (f (s.core c))

/-- A context by core and number. -/
def State.ctx (s : State) (c x : Nat) : Ctx := (s.core c).ctx x

/-- The state with one context replaced. -/
def State.setCtx (s : State) (c x : Nat) (v : Ctx) : State := s.setCore c ((s.core c).setCtx x v)

/-- One context changed. -/
def State.onCtx (s : State) (c x : Nat) (f : Ctx → Ctx) : State := s.setCtx c x (f (s.ctx c x))

/-- A partition by its number. -/
def State.part (s : State) (p : Nat) : Part := s.parts.get .reset p

/-- One partition changed. -/
def State.onPart (s : State) (p : Nat) (f : Part → Part) : State := { s with parts := s.parts.put p (f (s.part p)) }

/-- A slice by its number. -/
def State.slice (s : State) (i : Nat) : Slice := s.slices.get .reset i

/-- One slice changed. -/
def State.onSlice (s : State) (i : Nat) (f : Slice → Slice) : State := { s with slices := s.slices.put i (f (s.slice i)) }

/-- The device-level registers changed. -/
def State.onDev (s : State) (f : Dev → Dev) : State := { s with dev := f s.dev }

/-- The management controller changed. -/
def State.onMgmt (s : State) (f : Mgmt → Mgmt) : State := { s with mgmt := f s.mgmt }

/-- The device number that names the issuing device: the fabric domain's, or 0 outside a domain (R204, R322). -/
def State.ownDev (s : State) : Nat := if s.dev.domain then s.dev.number.toNat else 0

/-- A hardware queue by stack × 4096 + index (R100). -/
def State.hwq (s : State) (q : Nat) : HwQ := s.dev.hwq.get .reset q

/-- One hardware queue changed. -/
def State.onHwq (s : State) (q : Nat) (f : HwQ → HwQ) : State :=
  s.onDev fun d => { d with hwq := d.hwq.put q (f (d.hwq.get .reset q)) }

/-- The context that owns the issue slot of a core's cycle (R19). -/
def Core.owner (k : Core) : Nat := k.cycle % 16

/-- The context that acts in the slot: its owner, but in one of context 0 a context whose instruction a CTXSAVE completes on
its behalf (R352). -/
def Core.actor (k : Core) : Nat := if k.owner = 0 then k.forced.getD 0 % 16 else k.owner

/-- The context that acts in the slot of the core whose slot comes next. -/
def State.actor (s : State) : Nat := (s.core s.cur).actor

/-- The acting context. -/
def State.me (s : State) : Ctx := s.ctx s.cur s.actor

/-- The acting context changed. -/
def State.onMe (s : State) (f : Ctx → Ctx) : State := s.onCtx s.cur s.actor f

/-- The next free value's number, and the state that has used it. -/
def State.draw (s : State) : Nat × State := (s.free, { s with free := s.free + 1 })

/-- Adds a step that an event will make now. -/
def State.plan (s : State) (i : Instr) : State := { s with agenda := s.agenda ++ [⟨s.mesh, i⟩] }

/-- Adds a step that an event will make at a mesh cycle. -/
def State.planAt (s : State) (t : Nat) (i : Instr) : State := { s with agenda := s.agenda ++ [⟨t, i⟩] }

/-- FWUP: the firmware core runs (R364). -/
def Dev.fwUp (d : Dev) : Bool := bit d.cpcfg 8

/-! ### The numbering of cores (R9) and columns (R395) -/

def rowOf (c : Nat) : Nat := c / 16
def colOf (c : Nat) : Nat := c % 16
def quadOf (c : Nat) : Nat := 2 * (rowOf c / 6) + colOf c / 8
def sliceOf (c : Nat) : Nat := 4 * (rowOf c / 2) + colOf c / 4
def sidOf (c x : Nat) : Nat := c * 16 + x

/-- The column classes of each profile: 0 fast, 1 medium, 2 efficient (R395). -/
def classOf (profile : BitVec 2) (col : Nat) : Nat :=
  match profile.toNat with
  | 0 => 0
  | 1 => if col ≤ 4 ∨ 11 ≤ col then 0 else if col = 7 ∨ col = 8 then 2 else 1
  | _ => if col ≤ 1 ∨ 14 ≤ col then 0 else if col ≤ 4 ∨ 11 ≤ col then 1 else 2

/-- The class of a core's column. -/
def State.classOf (s : State) (c : Nat) : Nat := Machine.classOf s.dev.profile (colOf c)

/-- A quadrant belongs to a partition (R382). -/
def Part.hasQuad (p : Part) (q : Nat) : Bool := decide (p.st ≠ 0) && p.qmask.getLsbD q

/-- The key of a core's heartwood image (R362). -/
def heartKey (c : Nat) : Nat := 256 + c

/-- The partition whose state a core holds: one that covers its quadrant and is not swapped out; for a heartwood image,
the one that is. -/
def State.partOf (s : State) (c : Nat) : Nat :=
  if c < 256 then ((List.range 4).find? fun p => (s.part p).hasQuad (quadOf c) && decide ((s.part p).st ≠ 2)).getD 0
  else ((List.range 4).find? fun p => (s.part p).hasQuad (quadOf (c - 256)) && decide ((s.part p).st = 2)).getD 0

/-- A core belongs to a partition. -/
def State.inPart (s : State) (p c : Nat) : Bool := decide (c < 192) && (s.part p).hasQuad (quadOf c)

/-- Where a partition's state of a core is: the core, or its heartwood image while the partition is swapped out. -/
def State.home (s : State) (p c : Nat) : Nat := if s.partOf c = p then c else heartKey c

/-- The cores of a partition in ascending number. -/
def State.coresOf (s : State) (p : Nat) : List Nat := (List.range 192).filter (s.inPart p)

/-- The lowest-numbered core of a partition. -/
def State.firstCore (s : State) (p : Nat) : Nat := (s.coresOf p).headD 0

/-- The partition that shares a partition's quadrants, if any: its twin (R362). -/
def State.twinOf (s : State) (p : Nat) : Option Nat :=
  (List.range 4).find? fun r => decide (r ≠ p) && decide ((s.part r).st ≠ 0) && decide ((s.part p).st ≠ 0)
    && decide ((s.part r).qmask = (s.part p).qmask)

/-- The size of a core's scratchpad in bytes (R90). -/
def Core.scratchSize (k : Core) : Nat := 262144 * (fld k.carve 0 3 + 1)

/-! ### Windows and scratch frames (R23, R41) -/

/-- An instruction has issued and not completed: it runs on, or what it waited for has come. It is not tested again (R140,
R143). -/
def Ctx.going (k : Ctx) : Bool := k.busy || k.woken || k.grant.isSome || k.sfuOut.isSome || k.reserved.isSome

/-- The registers a context may name (R48). -/
def Ctx.winSize (x : Nat) (k : Ctx) : Nat := if x = 0 then 64 else 16 * (k.win.toNat + 1)

/-- The first main-register entry of a context's window (R23). -/
def Ctx.winEntry (x : Nat) (k : Ctx) : Nat := if x = 0 then 0 else 64 + 16 * k.winBase

/-- The generic address of a strand's scratch frame (R56). -/
def Ctx.fb (k : Ctx) : Word := if k.fsize = 0 then 0 else .ofNat 64 (0xC * 2 ^ 60 + 1024 * k.fbase)

/-- The user contexts that hold a strand. -/
def Core.taken (k : Core) : List Nat := (List.range 16).filter fun x => decide (0 < x) && decide ((k.ctx x).st ≠ .free)

/-- A granule lies in no user window. -/
def Core.granuleFree (k : Core) (g : Nat) : Bool :=
  k.taken.all fun x => let v := k.ctx x; decide (g < v.winBase) || decide (v.winBase + v.win.toNat + 1 ≤ g)

/-- The lowest run of free granules long enough, if any. -/
def Core.findWindow (k : Core) (n : Nat) : Option Nat :=
  (List.range 28).find? fun g => decide (g + n ≤ 28) && (List.range n).all fun i => k.granuleFree (g + i)

/-- A 1 KiB unit lies in no strand's frame and in no held one. -/
def Core.unitFree (k : Core) (u : Nat) : Bool :=
  (k.taken.all fun x => let v := k.ctx x; decide (u < v.fbase) || decide (v.fbase + v.fsize ≤ u)) &&
  k.held.all fun v => decide (u < v.fbase) || decide (v.fbase + v.fsize ≤ u)

/-- The first unit and the size of the frame area (R327). -/
def Core.faBase (k : Core) : Nat := fld k.frame 16 11
def Core.faSize (k : Core) : Nat := fld k.frame 0 11

/-- The lowest run of free units in the frame area long enough, if any. -/
def Core.findFrame (k : Core) (n : Nat) : Option Nat :=
  if n = 0 then some 0 else
  ((List.range k.faSize).find? fun i => decide (i + n ≤ k.faSize) &&
    (List.range n).all fun j => k.unitFree (k.faBase + i + j)).map (k.faBase + ·)

/-! ### Main registers, operand file and the last-result file (R48-R51, R144-R148) -/

/-- A main register's entry of the core's register file. -/
def Core.entry (k : Core) (e : Nat) : Word := k.regs.get 0 e

/-- Writes one register file entry. -/
def Core.setEntry (k : Core) (e : Nat) (v : Word) : Core := { k with regs := k.regs.putD 0 e v }

/-- A core's turn number: the turns its contexts have had (R19, R144). -/
def Core.turn (k : Core) : Nat := k.cycle / 16

/-- Moves the oldest landed results of the last-result file into w0 and w1 (R50). -/
def Ctx.settleW (t : Nat) (k : Ctx) : Ctx :=
  k.wpend.foldr (init := { k with wpend := [] }) fun e a =>
    if a.wpend = [] ∧ e.2 ≤ t then { a with w1 := a.w0, w0 := e.1 } else { a with wpend := e :: a.wpend }

/-- The value of place `i` of a last-result file, newest first, at turn `t`; when its result has not landed, the value
that the same place held before the producing instruction issued (R51). `n` bounds how far back it looks. -/
def wBack (t i : Nat) : Nat → List (Word × Nat) → Word
  | 0, _ => 0
  | n + 1, l => match l[i]? with
    | some e => if e.2 ≤ t then e.1 else wBack t i n (l.drop (i + 1))
    | none => 0

/-- The value a read of w0 (`i` = 0) or w1 (`i` = 1) returns with checking off (R51). -/
def Ctx.wRead (t i : Nat) (k : Ctx) : Word := wBack t i (k.wpend.length + 1) (k.wpend ++ [(k.w0, 0), (k.w1, 0)])

/-- The result that w0 or w1 names has not landed. -/
def Ctx.wPending (t i : Nat) (k : Ctx) : Bool := ((k.wpend.drop i).head?).elim false fun e => decide (t < e.2)

/-- The FIFO a queue register is bound to, with its mode: 1 reader, 2 writer (R221). -/
def Ctx.binding (k : Ctx) (q : Nat) : Nat × Nat := ((k.q.get 0 q).toNat % 16, (k.q.get 0 q).toNat / 16)

/-- A queue register (R46). -/
def Opnd.isQueue (o : Opnd) : Bool := decide (0x4C ≤ o.toNat) && decide (o.toNat < 0x50)

/-- How many of a list of operands name a register. -/
def uses (os : List Opnd) (o : Opnd) : Nat := (os.filter (· == o)).length

/-- The entries of the FIFO behind a queue register. -/
def Core.fifoOf (k : Core) (x : Nat) (q : Nat) : List Word := k.fifos.get [] ((k.ctx x).binding q).1

/-- The FIFO behind a queue source holds an entry for each of its reads (R53). -/
def Core.canPop (k : Core) (x : Nat) (os : List Opnd) (o : Opnd) : Bool :=
  !Opnd.isQueue o || decide (uses os o ≤ (k.fifoOf x (o.toNat - 0x4C)).length)

/-- The results on their way to a FIFO of a core: each takes a place there when it lands (R52, R53). -/
def Core.inbound (k : Core) (f : Nat) : Nat :=
  ((List.range 16).flatMap fun y => (k.ctx y).flight.filter fun r => Opnd.isQueue r.o && r.fifo == f).length

/-- The FIFO behind a queue destination has room, beside the results that are on their way to it (R53). -/
def Core.canPush (k : Core) (x : Nat) (o : Opnd) : Bool :=
  !Opnd.isQueue o || decide ((k.fifoOf x (o.toNat - 0x4C)).length + k.inbound ((k.ctx x).binding (o.toNat - 0x4C)).1 < 16)

/-- Every FIFO that an instruction names can serve it (R53). -/
def Core.fifosServe (k : Core) (x : Nat) (srcs dsts : List Opnd) : Bool := srcs.all (k.canPop x srcs) && dsts.all (k.canPush x)

/-- A context parked on queue registers that can all serve its instruction now (R53, R152). -/
def Core.fifoReady (k : Core) (x : Nat) : Bool :=
  match (k.ctx x).wake with
  | .fifo srcs dsts => k.fifosServe x srcs dsts
  | _ => false

/-- A context asks the special-function unit and its mailboxes for nothing any more: its instruction counts as not issued
(R61, R176, R196). -/
def Core.unask (k : Core) (x : Nat) : Core :=
  { k with sfuWait := k.sfuWait.filter (· != x), offers := k.offers.filter (·.ctx != x) }

/-- A wake event of a context is on its way. -/
def State.wakePending (s : State) (c x : Nat) : Bool :=
  s.agenda.any fun e => match e.ev with | .wake c' x' _ _ => c' == c && x' == x | _ => false

/-- A wake event for a context of a core, unless one is on its way. -/
def State.wakeOnce (s : State) (c x : Nat) : State := if s.wakePending c x then s else s.plan (.wake c x 0 none)

/-- An entry has moved: the contexts parked on queue registers that can serve them now are given a wake event (R53). -/
def State.fifoMoved (s : State) (c : Nat) : State :=
  (List.range 16).foldl (init := s) fun a x =>
    let v := a.ctx c x
    if (v.st = .parked ∨ (v.st = .stopped ∧ v.resume = .parked)) ∧ (a.core c).fifoReady x then a.wakeOnce c x else a

/-- Pushes a value into a FIFO of a core (R52). -/
def State.pushFifo (s : State) (c f : Nat) (v : Word) : State :=
  (s.onCore c fun k => { k with fifos := k.fifos.put f (k.fifos.get [] f ++ [v]) }).fifoMoved c

/-- Pushes a value through a queue register (R52). -/
def State.pushQ (s : State) (c x q : Nat) (v : Word) : State := s.pushFifo c ((s.ctx c x).binding q).1 v

/-- Puts a value into a register of a context, with no shift. -/
def State.putReg (s : State) (c x : Nat) (o : Opnd) (v : Word) : State :=
  let n := o.toNat
  if n = 0 then s
  else if n < 0x40 then s.onCore c fun k => k.setEntry (Ctx.winEntry x (k.ctx x) + n) v
  else if n < 0x48 then s.onCtx c x fun k => { k with h := k.h.putD 0 (n - 0x40) v }
  else if 0x4C ≤ n ∧ n < 0x50 then s.pushQ c x (n - 0x4C) v
  else if 0x61 ≤ n ∧ n < 0x68 then
    s.onCtx c x fun k => { k with c := setFld k.c (n - 0x60) 1 (b2n (decide (v ≠ 0))) }
  else if n = 0x56 then s.onCtx c x fun k =>
    { k with ff := .ofNat 64 ((k.ff.toNat % 32 - (k.ff &&& v).toNat % 32) + fld v 16 5 * 65536) }
  else s

/-- A result lands in its register, or in the FIFO that its queue register named when it issued (R52, R151). -/
def State.landIn (s : State) (c x : Nat) (f : Flight) : State :=
  if Opnd.isQueue f.o then s.pushFifo c f.fifo f.v else s.putReg c x f.o f.v

/-- A g or h register, whose writes shift the last-result file (R50). -/
def Opnd.shifts (o : Opnd) : Bool := decide (o.toNat < 0x48)

/-- Lands the fixed-latency results that are ready: in program order, an older result to the same register that has
not landed being discarded (R148). -/
def State.landFixed (s : State) (c x t : Nat) : State :=
  let k := s.ctx c x
  let due := fun f : Flight => f.ready.elim false fun r => decide (r ≤ t)
  let s1 := k.flight.foldl (init := s) fun a f => if due f then a.landIn c x f else a
  let rest := k.flight.foldr (init := ([], ([] : List Opnd))) fun f a =>
    if due f then (a.1, f.o :: a.2) else if a.2.contains f.o then a else (f :: a.1, a.2)
  s1.onCtx c x fun k => { k.settleW t with flight := rest.1 }

/-- The special-function unit ends its service of an instruction that has issued: its flags are set, and its result may
land (R175). -/
def State.sfuLand (s : State) (c x : Nat) : State :=
  match (s.core c).sfu with
  | some q =>
    if q.ctx = x ∧ q.held = none then
      (s.onCore c fun k => { k with sfu := none }).onCtx c x fun k => { k with
        ff := k.ff ||| .ofNat 64 (q.flags % 32), flight := k.flight.map fun f => { f with unit := false } }
    else s
  | none => s

/-- Lands every result a context has issued (R61). -/
def State.landAll (s : State) (c x : Nat) : State :=
  let s := s.sfuLand c x
  let k := s.ctx c x
  let s1 := k.flight.foldl (init := s) fun a f => a.landIn c x f
  let vs := (k.flight.filter fun f => f.ready.isNone && Opnd.shifts f.o).map fun f => (f.v, 0)
  s1.onCtx c x fun k =>
    let k1 := { k with wpend := vs.reverse ++ k.wpend.map fun (e : Word × Nat) => (e.1, 0) }
    { k1.settleW 0 with flight := [] }

/-- A variable-latency result that may land now. -/
def Flight.landable (f : Flight) : Bool := f.ready.isNone && !f.unit

/-- The results in flight once the oldest variable-latency one has landed: an older one to its register that has not is
discarded (R148). -/
def landedFlight (fs : List Flight) : List Flight :=
  match fs.find? (·.landable) with
  | none => fs
  | some f => (fs.takeWhile (!·.landable)).filter (·.o != f.o) ++ (fs.dropWhile (!·.landable)).drop 1

/-- The oldest variable-latency result of a context lands (R146): RESULT_LANDS. -/
def State.landVar (s : State) (c x : Nat) : State :=
  let k := s.ctx c x
  match k.flight.find? (·.landable) with
  | none => s
  | some f =>
    let s1 := (s.landIn c x f).onCtx c x fun k => { k with flight := landedFlight k.flight }
    if Opnd.shifts f.o then s1.onCtx c x fun k => { k with wpend := (f.v, 0) :: k.wpend } else s1

/-! ### Trap records (R338-R340) -/

/-- A trap record's 256 bits (R338). -/
def mkRec (kind ctx seq : Nat) (info pc arg : Word) : BitVec 256 :=
  .ofNat 256 (seq % 65536 + ctx % 16 * 2 ^ 20 + kind % 256 * 2 ^ 24 + info.toNat * 2 ^ 64 + pc.toNat * 2 ^ 128
    + arg.toNat * 2 ^ 192)

def recKind (r : BitVec 256) : Nat := fld r 24 8
def recCtx (r : BitVec 256) : Nat := fld r 20 4
def recWord (r : BitVec 256) : Word := r.setWidth 64

/-- A wake event for a context of a core. -/
def State.planWake (s : State) (c x : Nat) (v : Word) (d : Option Summary) : State := s.plan (.wake c x v d)

/-- Puts a record into a core's trap queue: KIND 0x13 ahead of the others, each in arrival order; a full queue leaves
it at its source (R340). Context 0 is woken from WAITE, or owes a vectored entry to a KIND 0x13 record (R342). -/
def State.queueRec (s : State) (c : Nat) (r : BitVec 256) : State :=
  let k := s.core c
  if 16 ≤ k.trapq.length then s.setCore c { k with trapHeld := k.trapHeld ++ [r] }
  else
    let q := if recKind r = 0x13 then k.trapq.filter (recKind · = 0x13) ++ [r] ++ k.trapq.filter (recKind · ≠ 0x13)
      else k.trapq ++ [r]
    let inWaite := decide ((k.ctx 0).st = .parked ∧ (k.ctx 0).wake = .waite)
    let s1 := s.setCore c { k with
      trapq := q
      entryDue := if recKind r = 0x13 ∧ inWaite = false then k.entryDue ++ [recWord r] else k.entryDue }
    if inWaite then s1.wakeOnce c 0 else s1

/-- Makes a record with the core's next sequence number and queues it. -/
def State.post (s : State) (c kind x : Nat) (info pc arg : Word) : State :=
  let r := mkRec kind x (s.core c).seq info pc arg
  (s.onCore c fun k => { k with seq := (k.seq + 1) % 65536 }).queueRec c r

/-- Held records enter the queue while it has room (R340). -/
def State.admitHeld (s : State) (c : Nat) : State :=
  match (s.core c).trapHeld with
  | [] => s
  | r :: rs => if 16 ≤ (s.core c).trapq.length then s else
      ((s.onCore c fun k => { k with trapHeld := rs }).queueRec c r).plan (.placeHead c)

/-! ### Taking a trap, and the return from one (R338, R342-R344) -/

/-- TRAPVEC is valid for a core's partition (R341). -/
def State.vecOk (s : State) (c : Nat) : Bool := bit (s.part (s.partOf c)).trapvec 0

/-- The resume index of a context is kept for the instruction at an address. -/
def Ctx.keepIndex (k : Ctx) (pc : Word) : Ctx :=
  if k.ri = 0 ∧ k.status = 0 ∧ k.total = 0 then k
  else { k with kept := (pc, k.ri, k.status, k.total) :: k.kept, ri := 0, status := 0, total := 0 }

/-- A context comes back to an address: the resume index kept for the instruction there is its own again (R60). -/
def Ctx.findIndex (k : Ctx) (pc : Word) : Ctx :=
  match k.kept.find? (·.1 == pc) with
  | none => k
  | some e => { k with kept := k.kept.filter (· != e), ri := e.2.1, status := e.2.2.1, total := e.2.2.2 }

/-- A vectored entry into context 0: results land, h6 takes the address context 0 stands at, h7 the record's low word,
the window closes and the pc goes to HADDR × 32 (R342). The writes do not shift the last-result file. The stall turns of
the last instruction still run (R144), and the resume index and partial state are kept for the instruction that h6 names, so
that no other one resumes from them (R60; log entry 93). -/
def State.enterVector (s : State) (c : Nat) (h6 h7 : Word) : State :=
  let s1 := s.landAll c 0
  let vec := (s1.part (s1.partOf c)).trapvec
  (s1.onCtx c 0 fun k => { k.keepIndex h6 with
    st := .ready, wake := .none, grant := none, busy := false, woken := false
    h := (k.h.putD 0 6 h6).putD 0 7 h7
    pc := .ofNat 64 (fld vec 5 47 * 32) }).onCore c fun k => { k.unask 0 with winOpen := false }

/-- A double fault: context 0 issues nothing further and the halt tree starts; the core number and the failing record are kept
for firmware, which records them once the halt is complete (R343). -/
def State.doubleFault (s : State) (c : Nat) (r : BitVec 256) : State :=
  let p := s.partOf c
  ((s.onCore c fun k => { k with dead := true }).onPart p fun v => { v with dfaults := v.dfaults ++ [(c, r)] }).plan (.haltTree p)

/-- A trap of a context at its pc. A user strand parks where it stands, TRAPPED, with a record in its core's queue
(R338). Context 0 makes a vectored entry, its record queued as well, or a double fault (R342, R343). -/
def State.takeTrap (s : State) (c x kind : Nat) (info arg : Word) : State :=
  let pc := (s.ctx c x).pc
  if x = 0 then
    let r := mkRec kind 0 (s.core c).seq info pc arg
    let s1 := s.onCore c fun k => { k with seq := (k.seq + 1) % 65536 }
    if (s.core c).winOpen && s.vecOk c then (s1.enterVector c pc (recWord r)).queueRec c r
    else s1.doubleFault c r
  else
    (s.onCtx c x fun k => { k with
      st := .trapped, wake := .none, grant := none, busy := false, woken := false }).post c kind x info pc arg

/-- TRET: the pc takes h6, with the resume index of the instruction there, and the window opens (R60, R344). -/
def State.trapReturn (s : State) (c : Nat) : State :=
  (s.onCtx c 0 fun k => { k.findIndex (k.h.get 0 6) with pc := k.h.get 0 6 }).onCore c fun k => { k with winOpen := true }

/-- Kinds of trap record that instructions raise (R339). -/
def kIllegal : Nat := 0x01
def kOperand : Nat := 0x02
def kShort : Nat := 0x03
def kArith : Nat := 0x04
def kAlign : Nat := 0x05
def kTrans : Nat := 0x06

/-! ### Parking and waking (R24) -/

/-- Parks a context at its pc. -/
def State.parkCtx (s : State) (c x : Nat) (w : Wake) : State :=
  (s.onCtx c x fun k => { k with st := .parked, wake := w, grant := none, woken := false, parkSeq := (s.core c).parkCtr }).onCore c
    fun k => { k with parkCtr := k.parkCtr + 1 }

/-- What a wake event brings to the instruction that waits: nothing where the instruction looks again itself, at its queue
registers (R53) or at the trap queue (R346). -/
def Wake.brings (w : Wake) (v : Word) (d : Option Summary) : Option (Word × Option Summary) :=
  match w with
  | .fifo _ _ | .waite => Option.none
  | _ => some (v, d)

/-- The instruction of a wait looks again itself when it is woken, for a wake event brings it nothing. -/
def Wake.looks (w : Wake) : Bool := (w.brings 0 Option.none).isNone

/-- A wake event reaches a parked context, or one stopped while parked: it is ready with what the event brought, and
its instruction completes at its next turn (R24). -/
def State.wakeCtx (s : State) (c x : Nat) (v : Word) (d : Option Summary) : State :=
  let k := s.ctx c x
  match k.st, k.resume with
  | .parked, _ => s.setCtx c x { k with st := .ready, wake := .none, grant := k.wake.brings v d, woken := k.wake.looks }
  | .stopped, .parked => s.setCtx c x { k with resume := .ready, wake := .none, grant := k.wake.brings v d, woken := k.wake.looks }
  | _, _ => s

/-- The contexts in `order` that a queue binding of a core names in a role (R221). -/
def Core.boundTo (k : Core) (fifo mode : Nat) : List (Nat × Nat) :=
  (List.range 16).flatMap fun x => ((List.range 4).filter fun q =>
    decide (((k.ctx x).q.get 0 q).toNat = fifo + 16 * mode)).map fun q => (x, q)

/-- Round-robin: the first of the contexts that ask, starting after the one last served (R45). -/
def nextAfter (last : Nat) (asks : Nat → Bool) : Option Nat :=
  ((List.range 16).map fun i => (last + 1 + i) % 16).find? asks

/-- The region of a machine address, as a bit of a summary (R110). -/
def regionBit (a : Nat) : Nat := (a / 4096 * 0x9E3779B97F4A7C15) % 2 ^ 64 / 2 ^ 54

/-- The summary with one region's bit. -/
def regionOf (a : Nat) : Summary := .ofNat 1024 (2 ^ regionBit a)

/-- A full summary. -/
def fullSummary : Summary := .allOnes 1024

/-- The number of bits set in a summary. -/
def summaryCount (f : Summary) : Nat := popc 1024 f.toNat

/-- The regions of the bytes from `a`, `n` of them. -/
def regionsOf (a n : Nat) : Summary :=
  (List.range ((a % 4096 + n + 4095) / 4096)).foldl (init := 0) fun f i => f ||| regionOf (a / 4096 * 4096 + 4096 * i)

/-- A context's own summary gains regions (R110). -/
def State.mark (s : State) (c x : Nat) (f : Summary) : State := s.onCtx c x fun k => { k with summ := k.summ ||| f }

end Sys2Proof.Machine
end

