-- ==== Sys2Proof/Machine/Xmss.lean ====
section
/-! DEFINITION. The signature scheme of firmware images (R407): SHAKE256, and the verification of XMSS-SHAKE256_20_256 as NIST
SP 800-208 and RFC 8391 define them (log entry 70). -/

namespace Sys2Proof.Machine

/-! ### SHAKE256 -/

/-- The round constants of Keccak-f[1600]. -/
def keccakRounds : List Word :=
  [0x1, 0x8082, 0x800000000000808A, 0x8000000080008000, 0x808B, 0x80000001, 0x8000000080008081, 0x8000000000008009] ++
  [0x8A, 0x88, 0x80008009, 0x8000000A, 0x8000808B, 0x800000000000008B, 0x8000000000008089, 0x8000000000008003] ++
  [0x8000000000008002, 0x8000000000000080, 0x800A, 0x800000008000000A, 0x8000000080008081, 0x8000000000008080, 0x80000001,
   0x8000000080008008]

/-- The rotations of the lanes, lane `x + 5 y` at its place. -/
def keccakRots : List Nat :=
  [0, 1, 62, 28, 27] ++ [36, 44, 6, 55, 20] ++ [3, 10, 43, 25, 39] ++ [41, 45, 15, 21, 8] ++ [18, 2, 61, 56, 14]

/-- One round on the 25 lanes. -/
def keccakRound (a : List Word) (rc : Word) : List Word :=
  let col := (List.range 5).map fun x => (List.range 5).foldl (fun w y => w ^^^ nth 0 a (x + 5 * y)) 0
  let mix := (List.range 5).map fun x => nth 0 col ((x + 4) % 5) ^^^ (nth 0 col ((x + 1) % 5)).rotateLeft 1
  let rot := (List.range 25).map fun i => (nth 0 a i ^^^ nth 0 mix (i % 5)).rotateLeft (nth 0 keccakRots i)
  let b := (List.range 25).map fun i =>
    let (y, z) := (i % 5, i / 5)
    nth 0 rot ((y + 3 * z) % 5 + 5 * y)
  let c := (List.range 25).map fun i =>
    let (x, y) := (i % 5, i / 5)
    nth 0 b i ^^^ (~~~(nth 0 b ((x + 1) % 5 + 5 * y)) &&& nth 0 b ((x + 2) % 5 + 5 * y))
  match c with
  | [] => []
  | w :: ws => (w ^^^ rc) :: ws

def keccak (a : List Word) : List Word := keccakRounds.foldl keccakRound a

/-- A block of 136 bytes goes into the lanes. -/
def absorb (a : List Word) (block : List Byte) : List Word :=
  keccak ((List.range 25).map fun i => nth 0 a i ^^^ (if i < 17 then .ofNat 64 (ofBytes ((block.drop (8 * i)).take 8)) else 0))

/-- The blocks of a message, `n` of them. -/
def absorbAll : Nat → List Word → List Byte → List Word
  | 0, a, _ => a
  | n + 1, a, m => absorbAll n (absorb a (m.take 136)) (m.drop 136)

/-- The first 32 bytes of SHAKE256 of a message. -/
def shake256 (m : List Byte) : List Byte :=
  let n := m.length / 136 + 1
  let pad := (m ++ [0x1F#8] ++ List.replicate (136 * n - m.length - 1) 0#8)
  let last := nth 0 pad (136 * n - 1) ||| 0x80#8
  (absorbAll n (List.replicate 25 0) (pad.take (136 * n - 1) ++ [last])).flatMap (fun w => toBytes 8 w.toNat) |>.take 32

/-! ### XMSS -/

/-- A number in `n` bytes, highest first. -/
def beBytes (n v : Nat) : List Byte := (toBytes n v).reverse

/-- The keyed functions: 0 F, 1 H, 2 the message hash, 3 the pseudorandom function. -/
def xmssHash (fn : Nat) (key m : List Byte) : List Byte := shake256 (beBytes 32 fn ++ key ++ m)

/-- An address: its type and its four words. -/
def xmssAdrs (ty a b c d : Nat) : List Byte := beBytes 12 0 ++ [ty, a, b, c, d].flatMap (beBytes 4)

def xorBytes (a b : List Byte) : List Byte := List.zipWith (· ^^^ ·) a b

/-- A chain of the one-time signature runs from step `i` on, `n` steps. -/
def xmssChain (seed : List Byte) (ots chain : Nat) : Nat → Nat → List Byte → List Byte
  | 0, _, x => x
  | n + 1, i, x =>
    let prf := fun (k : Nat) => xmssHash 3 seed (xmssAdrs 0 ots chain i k)
    xmssChain seed ots chain n (i + 1) (xmssHash 0 (prf 0) (xorBytes x (prf 1)))

/-- Two nodes of a tree are hashed to their parent. -/
def xmssNode (seed : List Byte) (ty a height index : Nat) (l r : List Byte) : List Byte :=
  let prf := fun (k : Nat) => xmssHash 3 seed (xmssAdrs ty a height index k)
  xmssHash 1 (prf 0) (xorBytes (l ++ r) (prf 1 ++ prf 2))

/-- The 67 digits of base 16 of a message hash, with those of its checksum. -/
def xmssDigits (h : List Byte) : List Nat :=
  let ds := h.flatMap fun b => [b.toNat / 16, b.toNat % 16]
  let sum := ds.foldl (fun a d => a + (15 - d)) 0
  ds ++ [sum / 256 % 16, sum / 16 % 16, sum % 16]

/-- A row of nodes of an L-tree is paired; an odd one goes up as it is. -/
def xmssPairs (seed : List Byte) (leaf height : Nat) : Nat → List (List Byte) → List (List Byte)
  | i, l :: r :: rest => xmssNode seed 1 leaf height i l r :: xmssPairs seed leaf height (i + 1) rest
  | _, rest => rest

/-- The root of an L-tree. -/
def xmssLtree (seed : List Byte) (leaf : Nat) (pk : List (List Byte)) : List Byte :=
  ((List.range 7).foldl (fun ns h => xmssPairs seed leaf h 0 ns) pk).headD []

/-- The root that a signature leads to from a message. -/
def xmssRoot (root seed m sig : List Byte) : List Byte :=
  let idx := ofBytes (sig.take 4).reverse
  let part := fun (i : Nat) => (sig.drop (4 + 32 * i)).take 32
  let h := xmssHash 2 (part 0 ++ root ++ beBytes 32 idx) m
  let ds := xmssDigits h
  let pk := (List.range 67).map fun i => xmssChain seed idx i (15 - nth 0 ds i) (nth 0 ds i) (part (1 + i))
  (List.range 20).foldl (init := xmssLtree seed idx pk) fun n k =>
    let auth := part (68 + k)
    if idx / 2 ^ k % 2 = 0 then xmssNode seed 2 0 k (idx / 2 ^ (k + 1)) n auth else xmssNode seed 2 0 k (idx / 2 ^ (k + 1)) auth n

/-- A 2,820-byte signature of a message verifies under a public key. -/
def xmssVerify (root seed : BitVec 256) (m sig : List Byte) : Bool :=
  let r := beBytes 32 root.toNat
  decide (sig.length = 2820) && decide (ofBytes (sig.take 4).reverse < 2 ^ 20) && xmssRoot r (beBytes 32 seed.toNat) m sig == r

end Sys2Proof.Machine
end

