-- ==== Sys2Proof/Machine/Image.lean ====
section
/-! DEFINITION. Firmware images (R407), and the firmware core's start from one (R12, R405). -/

namespace Sys2Proof.Machine

/-- A 32-bit word of an image's header. -/
def imageWord (img : List Byte) (i : Nat) : Nat := ofBytes ((img.drop (4 * i)).take 4)
def imageSvn (img : List Byte) : Nat := imageWord img 1
def imageLen (img : List Byte) : Nat := imageWord img 2
def imageCode (img : List Byte) : List Byte := (img.drop 64).take (imageLen img)

/-- What is signed: the header and the code. -/
def imageSigned (img : List Byte) : List Byte := img.take (64 + imageLen img)

/-- The ROM accepts an image: MAGIC, a LEN that fits its slot, SVN and the signature behind the code; the reserved bits are
zero. -/
def imageOk (minSvn : Nat) (img : List Byte) : Bool :=
  imageWord img 0 == 0x4B524746 && decide (imageLen img ≤ 253952) && decide (64 + imageLen img + 2820 ≤ img.length) &&
  decide (minSvn ≤ imageSvn img) && ((img.drop 12).take 52).all (· == 0) &&
  xmssVerify Config.romRoot Config.romSeed (imageSigned img) ((img.drop (64 + imageLen img)).take 2820)

/-- The image that the ROM takes: slot A's, or else slot B's. -/
def firmwareImage (b : Board) (minSvn : Nat) : Option (List Byte) :=
  if imageOk minSvn b.slotA then some b.slotA else if imageOk minSvn b.slotB then some b.slotB else none

/-- A core of the firmware complex with code in its memory, which takes no more than it holds. -/
def Rv32.load (r : Rv32) (code : List Byte) : Rv32 := { Rv32.blank r.size with
  tcm := (List.range (min r.size code.length)).foldl (fun m k => m.putD 0 k (nth 0 code k)) [] }

end Sys2Proof.Machine
end

