-- ==== Sys2Proof/Machine/Num.lean ====
section
/-! DEFINITION. Exact values of floating-point codes and the one rounding of every format (R65-R69, R76, R77). -/

namespace Sys2Proof.Machine

/-- A binary format: with a sign bit or not, the widths of exponent and fraction, the bias, and whether an all-ones
exponent is infinity and NaN (R65, R76). -/
structure Fmt where
  sg   : Bool
  ew   : Nat
  mw   : Nat
  bias : Int
  ieee : Bool
  deriving DecidableEq, Repr

def fmtF64 : Fmt := ⟨true, 11, 52, 1023, true⟩
def fmtF32 : Fmt := ⟨true, 8, 23, 127, true⟩
def fmtF16 : Fmt := ⟨true, 5, 10, 15, true⟩
def fmtBf16 : Fmt := ⟨true, 8, 7, 127, true⟩

/-- The exact value of a code: a NaN, signalling or quiet; an infinity; or a signed integer times a power of two. -/
inductive FVal where
  | nan (signalling : Bool)
  | inf (neg : Bool)
  | fin (neg : Bool) (m : Nat) (e : Int)
  deriving DecidableEq, Repr

/-- The flags of R57, as bits of a number: NV 16, DZ 8, OF 4, UF 2, NX 1. -/
def fNV : Nat := 16
def fDZ : Nat := 8
def fOF : Nat := 4
def fUF : Nat := 2
def fNX : Nat := 1

/-- The union of two flag sets. -/
def fOr (a b : Nat) : Nat := a ||| b

/-- The value of a code (R65, R76). -/
def Fmt.value (f : Fmt) (code : Nat) : FVal :=
  let fr := code % 2 ^ f.mw
  let ex := code / 2 ^ f.mw % 2 ^ f.ew
  let neg := f.sg && code.testBit (f.mw + f.ew)
  if f.ieee ∧ ex = 2 ^ f.ew - 1 then
    if fr = 0 then .inf neg else .nan (fr / 2 ^ (f.mw - 1) % 2 == 0)
  else if ex = 0 then .fin neg fr (1 - f.bias - f.mw)
  else .fin neg (2 ^ f.mw + fr) ((ex : Int) - f.bias - f.mw)

/-- The sign bit of a code. -/
def Fmt.signOf (f : Fmt) (neg : Bool) : Nat := if f.sg && neg then 2 ^ (f.mw + f.ew) else 0

/-- The canonical NaN (R67). -/
def Fmt.nanCode (f : Fmt) : Nat := (2 ^ f.ew - 1) * 2 ^ f.mw + 2 ^ (f.mw - 1)
/-- Infinity of a sign. -/
def Fmt.infCode (f : Fmt) (neg : Bool) : Nat := f.signOf neg + (2 ^ f.ew - 1) * 2 ^ f.mw
/-- The largest finite code of a sign. -/
def Fmt.maxCode (f : Fmt) (neg : Bool) : Nat :=
  f.signOf neg + (if f.ieee then (2 ^ f.ew - 1) * 2 ^ f.mw - 1 else 2 ^ (f.ew + f.mw) - 1)
/-- Zero of a sign. -/
def Fmt.zeroCode (f : Fmt) (neg : Bool) : Nat := f.signOf neg

/-- The fraction bit a rounding adds: `half` is 0 below, 1 at and 2 above the halfway point, `odd` the last bit kept
(R68). -/
def roundUp (rm : Nat) (neg odd exact : Bool) (half : Nat) : Bool :=
  match rm with
  | 0 => half == 2 || (half == 1 && odd)
  | 1 => false
  | 2 => neg && !exact
  | _ => !neg && !exact

/-- Cuts `m × 2^e` (plus something below its last bit when `sticky`) at the quantum `2^q`: the kept integer, and how
the rest compares with half. -/
def cutAt (m : Nat) (e q : Int) (sticky : Bool) : Nat × Bool × Nat :=
  if q ≤ e then (m * 2 ^ (e - q).toNat, !sticky, 0)
  else
    let k := (q - e).toNat
    let r := m % 2 ^ k
    let h := 2 ^ (k - 1)
    (m / 2 ^ k, r == 0 && !sticky, if r < h then 0 else if r = h ∧ sticky = false then 1 else 2)

/-- Rounds a positive value to a quantum. -/
def roundAt (rm : Nat) (neg : Bool) (m : Nat) (e q : Int) (sticky : Bool) : Nat × Bool :=
  let (n, exact, half) := cutAt m e q sticky
  (n + b2n (roundUp rm neg (n % 2 == 1) exact half), exact)

/-- The exponent of the highest bit of `m × 2^e`. -/
def topExp (m : Nat) (e : Int) : Int := (Nat.log2 m : Int) + e

/-- Rounds `(-1)^neg × m × 2^e`, plus something below the last bit of `m` when `sticky`, to a format: the code and the
flags, tininess being detected after rounding (R66, R68, R69). `sat` gives the largest finite code on overflow, as a
narrow format does (R77). -/
def Fmt.round (f : Fmt) (sat : Bool) (rm : Nat) (neg : Bool) (m : Nat) (e : Int) (sticky : Bool) : Nat × Nat :=
  if m = 0 ∧ sticky = false then (f.zeroCode neg, 0)
  else
    let emin := 1 - f.bias
    let top := topExp m e
    let q := max (top - f.mw) (emin - f.mw)
    let (n, exact) := roundAt rm neg m e q sticky
    let code := (q - (emin - f.mw)).toNat * 2 ^ f.mw + n
    let free := (roundAt rm neg m e (top - f.mw) sticky).1
    let tiny := decide (top < emin) && !(decide (top + 1 = emin) && decide (free = 2 ^ (f.mw + 1)))
    if f.maxCode false < code then
      let big := match rm with
        | 0 => true
        | 1 => false
        | 2 => neg
        | _ => !neg
      (if big && !sat then f.infCode neg else f.maxCode neg, fOF + fNX)
    else (f.signOf neg + code, if exact then 0 else if tiny then fUF + fNX else fNX)

/-- Rounds an exact value; a NaN gives the canonical NaN, and a signalling one raises NV (R67). -/
def Fmt.ofVal (f : Fmt) (rm : Nat) (v : FVal) : Nat × Nat :=
  match v with
  | .nan sig => (f.nanCode, if sig then fNV else 0)
  | .inf neg => (f.infCode neg, 0)
  | .fin neg m e => f.round false rm neg m e false

/-- A narrow format's rounding: to nearest even whatever the mode, with the saturations of R77; the third part is 1 when
the value was clamped (log entry 8). -/
def Fmt.toNarrow (f : Fmt) (v : FVal) : Nat × Nat × Nat :=
  match v with
  | .nan _ => (0, fNV, 0)
  | .inf neg =>
    if !f.sg && neg then (0, fNV, 1)
    else if f.ieee then (f.infCode neg, 0, 0) else (f.maxCode neg, 0, 1)
  | .fin neg m e =>
    if !f.sg && neg && m != 0 then (0, fNV, 1)
    else
      let r := f.round true 0 (neg && f.sg) m e false
      (r.1, r.2, if r.2 / 4 % 2 = 1 then 1 else 0)

/-! ### Exact arithmetic -/

/-- A signed integer times a power of two, as a value; `z` is the sign of an exact zero. -/
def FVal.ofInt (z : Bool) (v : Int) (e : Int) : FVal := if v = 0 then .fin z 0 0 else .fin (decide (v < 0)) v.natAbs e

/-- The signed integer of a finite value at an exponent no higher than its own. -/
def scaled (neg : Bool) (m : Nat) (e q : Int) : Int :=
  let v : Int := ((m * 2 ^ (e - q).toNat : Nat) : Int)
  if neg then -v else v

/-- The sign of a sum that is exactly zero: the operands' when they agree, else negative only rounding down. -/
def zeroSign (rm : Nat) (a b : Bool) : Bool := if a = b then a else rm == 2

/-- A NaN operand is signalling. -/
def FVal.snan : FVal → Bool
  | .nan s => s
  | _ => false
def FVal.isNan : FVal → Bool
  | .nan _ => true
  | _ => false
def FVal.neg : FVal → FVal
  | .nan s => .nan s
  | .inf n => .inf (!n)
  | .fin n m e => .fin (!n) m e
def FVal.isZero : FVal → Bool
  | .fin _ 0 _ => true
  | _ => false
def FVal.sign : FVal → Bool
  | .nan _ => false
  | .inf n => n
  | .fin n _ _ => n

/-- The quiet result of NaN operands with their NV. -/
def nanOf (vs : List FVal) : FVal × Nat := (.nan false, if vs.any FVal.snan then fNV else 0)

/-- The exact sum with the NV it raises. -/
def fAdd (rm : Nat) (a b : FVal) : FVal × Nat :=
  match a, b with
  | .fin na ma ea, .fin nb mb eb =>
    let q := min ea eb
    (.ofInt (zeroSign rm na nb) (scaled na ma ea q + scaled nb mb eb q) q, 0)
  | .inf na, .inf nb => if na = nb then (.inf na, 0) else (.nan false, fNV)
  | .inf na, .fin _ _ _ => (.inf na, 0)
  | .fin _ _ _, .inf nb => (.inf nb, 0)
  | _, _ => nanOf [a, b]

/-- The exact product with the NV it raises. -/
def fMul (a b : FVal) : FVal × Nat :=
  match a, b with
  | .fin na ma ea, .fin nb mb eb => (.fin (na != nb) (ma * mb) (ea + eb), 0)
  | .inf na, .inf nb => (.inf (na != nb), 0)
  | .inf na, .fin nb mb _ => if mb = 0 then (.nan false, fNV) else (.inf (na != nb), 0)
  | .fin na ma _, .inf nb => if ma = 0 then (.nan false, fNV) else (.inf (na != nb), 0)
  | _, _ => nanOf [a, b]

/-- The exact fused multiply-add; infinity times zero raises NV whatever the addend (R169). -/
def fFma (rm : Nat) (a b c : FVal) : FVal × Nat :=
  let p := fMul a b
  if a.isNan || b.isNan then nanOf [a, b, c]
  else if p.1.isNan then (.nan false, fNV)
  else if c.isNan then nanOf [c]
  else fAdd rm p.1 c

/-- Rounds an exact result with the flags it already has. -/
def Fmt.finish (f : Fmt) (rm : Nat) (r : FVal × Nat) : Nat × Nat :=
  let c := f.ofVal rm r.1
  (c.1, fOr r.2 c.2)

def Fmt.add (f : Fmt) (rm : Nat) (a b : Nat) : Nat × Nat := f.finish rm (fAdd rm (f.value a) (f.value b))
def Fmt.sub (f : Fmt) (rm : Nat) (a b : Nat) : Nat × Nat := f.finish rm (fAdd rm (f.value a) (f.value b).neg)
def Fmt.mul (f : Fmt) (rm : Nat) (a b : Nat) : Nat × Nat := f.finish rm (fMul (f.value a) (f.value b))
def Fmt.fma (f : Fmt) (rm : Nat) (a b c : Nat) : Nat × Nat := f.finish rm (fFma rm (f.value a) (f.value b) (f.value c))

/-- Division of values, correctly rounded (R69). -/
def Fmt.divV (f : Fmt) (rm : Nat) (a b : FVal) : Nat × Nat :=
  match a, b with
  | .fin na ma ea, .fin nb mb eb =>
    if mb = 0 then if ma = 0 then (f.nanCode, fNV) else (f.infCode (na != nb), fDZ)
    else
      let k := f.mw + 3 + (Nat.log2 mb - Nat.log2 ma) + 1
      let n := ma * 2 ^ k
      f.round false rm (na != nb) (n / mb) (ea - eb - k) (n % mb != 0)
  | .inf _, .inf _ => (f.nanCode, fNV)
  | .inf na, .fin nb _ _ => (f.infCode (na != nb), 0)
  | .fin na _ _, .inf nb => (f.zeroCode (na != nb), 0)
  | _, _ => (f.nanCode, (nanOf [a, b]).2)
def Fmt.div (f : Fmt) (rm : Nat) (a b : Nat) : Nat × Nat := f.divV rm (f.value a) (f.value b)

/-- The integer square root, bit by bit from bit `i`. -/
def isqrtFrom : Nat → Nat → Nat → Nat
  | 0, n, r => if (r + 1) * (r + 1) ≤ n then r + 1 else r
  | i + 1, n, r =>
    let t := r + 2 ^ (i + 1)
    if t * t ≤ n then isqrtFrom i n t else isqrtFrom i n r
def isqrt (n : Nat) : Nat := isqrtFrom (Nat.log2 n / 2 + 1) n 0

/-- Square root of a value, correctly rounded. -/
def Fmt.sqrtV (f : Fmt) (rm : Nat) (a : FVal) : Nat × Nat :=
  match a with
  | .nan s => (f.nanCode, if s then fNV else 0)
  | .inf n => if n then (f.nanCode, fNV) else (f.infCode false, 0)
  | .fin n m e =>
    if m = 0 then (f.zeroCode n, 0)
    else if n then (f.nanCode, fNV)
    else
      let k := 2 * f.mw + 8 + (if e % 2 = 0 then 0 else 1)
      let v := m * 2 ^ k
      let r := isqrt v
      f.round false rm false r ((e - k) / 2) (r * r != v)
def Fmt.sqrt (f : Fmt) (rm : Nat) (a : Nat) : Nat × Nat := f.sqrtV rm (f.value a)

/-- The order of two values that are not NaN. -/
def FVal.lt (a b : FVal) : Bool :=
  match a, b with
  | .inf na, .inf nb => na && !nb
  | .inf na, _ => na
  | _, .inf nb => !nb
  | .fin na ma ea, .fin nb mb eb => let q := min ea eb; decide (scaled na ma ea q < scaled nb mb eb q)
  | _, _ => false
def FVal.eq (a b : FVal) : Bool := !a.isNan && !b.isNan && !a.lt b && !b.lt a

/-- Minimum and maximum of two codes (R70). -/
def Fmt.minMax (f : Fmt) (isMax : Bool) (a b : Nat) : Nat × Nat :=
  let x := f.value a
  let y := f.value b
  let fl := if x.snan || y.snan then fNV else 0
  let n := 2 ^ (f.ew + f.mw + b2n f.sg)
  if x.isNan && y.isNan then (f.nanCode, fl)
  else if x.isNan then (b % n, fl)
  else if y.isNan then (a % n, fl)
  else
    let aFirst := if x.eq y then x.sign || !y.sign else x.lt y
    (if aFirst != isMax then a % n else b % n, fl)

/-- Rounds a value to an integer by a mode: the integer and whether it changed (R74). -/
def FVal.toInt (rm : Nat) : FVal → Int × Bool
  | .fin neg m e =>
    let (n, exact) := roundAt rm neg m e 0 false
    (if neg then -(n : Int) else n, !exact)
  | _ => (0, false)

end Sys2Proof.Machine
end

