-- ==== Sys2Proof/WellFormed.lean ====
section
/-! DEFINITION. Well-formed instructions: what steps 3 and 4 of R143 require of an encoding's fields, and the bounds
on the parameters of an event. -/

namespace Sys2Proof

namespace Ty

/-- The types in the order of their codes (R139). -/
def codes : List Ty := [i64, i32, i16, i8, n64, n32, n16, n8, f64, f32, f16, bf16, m8]

/-- The number of a type (R139). -/
def code (t : Ty) : Nat := codes.idxOf t

/-- The type a code names; 0xD to 0xF are reserved (R139). -/
def ofCode (n : Nat) : Option Ty := codes[n]?

/-- An integer type, i or n. -/
def isInt (t : Ty) : Bool := decide (t.code < 8)
/-- The widths ILOGIC takes: 64 bits and 32 bits. -/
def isLogic (t : Ty) : Bool := decide (t.code < 2)
/-- The lane types of the packed group. -/
def isPacked (t : Ty) : Bool := t.isInt && t.code % 4 != 0
/-- The floating-point types f64, f32, f16 and bf16. -/
def isFloat (t : Ty) : Bool := decide (8 ≤ t.code) && decide (t.code < 12)
/-- The types of FDIV, FSQRT, FRCP and FRSQ. -/
def isDivF (t : Ty) : Bool := decide (8 ≤ t.code) && decide (t.code < 11)
/-- The types of the other special functions. -/
def isSfuF (t : Ty) : Bool := t == f32 || t == f16
/-- The types of AMO and CAS. -/
def isAtom (t : Ty) : Bool := t.isInt && decide (t.code % 4 < 2)
/-- The types of AMOF. -/
def isAtomF (t : Ty) : Bool := t == f64 || t == f32 || t == bf16

end Ty

/-- A guard that negates c0 is not a guard (R140). -/
def Hdr.ok (h : Hdr) : Bool := !(h.gn && h.gc == 0#3)

namespace Instr

/-- The instruction is one of the 172 forms of R141, which stand first in `Instr`, and no event. -/
def isForm (i : Instr) : Bool := decide (i.ctorIdx < 172)

/-- The checks of R138, R139, R140 and R142 that an encoding's own fields decide, and the ranges of an event's
parameters. TRED and TCMP take no CTY m8, which R237 and R238 do not say (log entry 125). -/
def wf : Instr → Bool
  | .nop h => Hdr.ok h
  | .trap h _ _ => Hdr.ok h
  | .tret h => Hdr.ok h
  | .tren h _ => Hdr.ok h
  | .mfs h _ _ _ => Hdr.ok h
  | .mts h _ _ _ => Hdr.ok h
  | .brk h _ _ => Hdr.ok h
  | .waite h _ _ _ => Hdr.ok h
  | .stop h mode => Hdr.ok h && mode != 3#2
  | .tlbinv h a kind as => Hdr.ok h && kind != 3#2 && (kind == 0#2 || a == 0#7) && (kind != 2#2 || as == 0#4)
  | .ctxrd h _ _ _ => Hdr.ok h
  | .ctxwr h _ _ _ => Hdr.ok h
  | .add h ty _ _ _ => Hdr.ok h && ty.isInt
  | .sub h ty _ _ _ => Hdr.ok h && ty.isInt
  | .mul h ty _ _ _ => Hdr.ok h && ty.isInt
  | .mulh h ty _ _ _ => Hdr.ok h && ty.isInt
  | .div h ty _ _ _ => Hdr.ok h && ty.isInt
  | .rem h ty _ _ _ => Hdr.ok h && ty.isInt
  | .min h ty _ _ _ => Hdr.ok h && ty.isInt
  | .max h ty _ _ _ => Hdr.ok h && ty.isInt
  | .and h ty _ _ _ => Hdr.ok h && ty.isLogic
  | .or h ty _ _ _ => Hdr.ok h && ty.isLogic
  | .xor h ty _ _ _ => Hdr.ok h && ty.isLogic
  | .andn h ty _ _ _ => Hdr.ok h && ty.isLogic
  | .shl h ty _ _ _ => Hdr.ok h && ty.isLogic
  | .shr h ty _ _ _ => Hdr.ok h && ty.isLogic
  | .shra h ty _ _ _ => Hdr.ok h && ty.isLogic
  | .rot h ty _ _ _ => Hdr.ok h && ty.isLogic
  | .clz h ty _ _ => Hdr.ok h && ty.isLogic
  | .ctz h ty _ _ => Hdr.ok h && ty.isLogic
  | .popc h ty _ _ => Hdr.ok h && ty.isLogic
  | .addi h _ _ _ => Hdr.ok h
  | .andi h _ _ _ => Hdr.ok h
  | .ori h _ _ _ => Hdr.ok h
  | .xori h _ _ _ => Hdr.ok h
  | .shli h _ _ _ => Hdr.ok h
  | .shri h _ _ _ => Hdr.ok h
  | .shrai h _ _ _ => Hdr.ok h
  | .mov h _ _ => Hdr.ok h
  | .li h _ _ => Hdr.ok h
  | .addpc h _ _ => Hdr.ok h
  | .sel h _ _ _ _ => Hdr.ok h
  | .ext h _ _ _ _ _ => Hdr.ok h
  | .ins h _ _ _ _ _ => Hdr.ok h
  | .cmp h _ _ _ _ ty => Hdr.ok h && ty.isInt
  | .cmpi h _ _ _ ty _ => Hdr.ok h && ty.isInt
  | .clog h _ _ _ _ => Hdr.ok h
  | .padd h ty _ _ _ => Hdr.ok h && ty.isPacked
  | .psub h ty _ _ _ => Hdr.ok h && ty.isPacked
  | .padds h ty _ _ _ => Hdr.ok h && ty.isPacked
  | .psubs h ty _ _ _ => Hdr.ok h && ty.isPacked
  | .pmul h ty _ _ _ => Hdr.ok h && ty.isPacked
  | .pmin h ty _ _ _ => Hdr.ok h && ty.isPacked
  | .pmax h ty _ _ _ => Hdr.ok h && ty.isPacked
  | .pshl h ty _ _ _ => Hdr.ok h && ty.isPacked
  | .pshr h ty _ _ _ => Hdr.ok h && ty.isPacked
  | .pshra h ty _ _ _ => Hdr.ok h && ty.isPacked
  | .cvt h _ _ _ _ _ => Hdr.ok h
  | .cvtn h _ _ _ _ _ _ => Hdr.ok h
  | .fadd h ty _ _ _ _ => Hdr.ok h && ty.isFloat
  | .fsub h ty _ _ _ _ => Hdr.ok h && ty.isFloat
  | .fmul h ty _ _ _ _ => Hdr.ok h && ty.isFloat
  | .fma h ty _ _ _ _ _ => Hdr.ok h && ty.isFloat
  | .fmin h ty _ _ _ => Hdr.ok h && ty.isFloat
  | .fmax h ty _ _ _ => Hdr.ok h && ty.isFloat
  | .fsgn h ty _ _ _ sop => Hdr.ok h && ty.isFloat && sop != 3#2
  | .fcmp h ty _ _ _ rel q => Hdr.ok h && ty.isFloat && (!q || (rel != 0#3 && rel != 1#3 && rel != 6#3 && rel != 7#3))
  | .fclass h ty _ _ => Hdr.ok h && ty.isFloat
  | .fdiv h ty _ _ _ _ => Hdr.ok h && ty.isDivF
  | .fsqrt h ty _ _ _ => Hdr.ok h && ty.isDivF
  | .frcp h ty _ _ _ => Hdr.ok h && ty.isDivF
  | .frsq h ty _ _ _ => Hdr.ok h && ty.isDivF
  | .fexp2 h ty _ _ _ => Hdr.ok h && ty.isSfuF
  | .flog2 h ty _ _ _ => Hdr.ok h && ty.isSfuF
  | .fsin h ty _ _ _ => Hdr.ok h && ty.isSfuF
  | .fcos h ty _ _ _ => Hdr.ok h && ty.isSfuF
  | .ftanh h ty _ _ _ => Hdr.ok h && ty.isSfuF
  | .br h _ => Hdr.ok h
  | .j h _ => Hdr.ok h
  | .jl h _ _ => Hdr.ok h
  | .jr h _ _ _ => Hdr.ok h
  | .loop h _ _ _ => Hdr.ok h
  | .tsts h _ _ _ _ => Hdr.ok h
  | .ld h _ _ _ _ => Hdr.ok h
  | .ldx h _ _ _ _ _ => Hdr.ok h
  | .ldp h _ _ _ _ => Hdr.ok h
  | .st h _ _ _ _ => Hdr.ok h
  | .stx h _ _ _ _ _ => Hdr.ok h
  | .stp h _ _ _ _ => Hdr.ok h
  | .pref h _ _ => Hdr.ok h
  | .cinv h _ _ => Hdr.ok h
  | .cwb h _ _ => Hdr.ok h
  | .amo h ty _ _ _ op => Hdr.ok h && ty.isAtom && op != 7#3
  | .cas h ty _ _ _ _ => Hdr.ok h && ty.isAtom
  | .amof h ty _ _ _ => Hdr.ok h && ty.isAtomF
  | .send h _ _ _ _ => Hdr.ok h
  | .recv h _ _ => Hdr.ok h
  | .waitm h _ => Hdr.ok h
  | .putq h _ _ _ _ _ _ _ => Hdr.ok h
  | .sigset h _ _ _ _ => Hdr.ok h
  | .sigadd h _ _ _ => Hdr.ok h
  | .sigwait h _ _ _ _ => Hdr.ok h
  | .sigtest h _ _ _ _ _ => Hdr.ok h
  | .gaddr h _ _ => Hdr.ok h
  | .saddr h _ _ => Hdr.ok h
  | .spawn h _ _ _ _ _ _ _ => Hdr.ok h
  | .spawnq h _ _ _ _ _ _ _ => Hdr.ok h
  | .forkr h _ _ _ _ _ lvl => Hdr.ok h && lvl != 0#3 && lvl != 5#3 && lvl != 6#3 && lvl != 7#3
  | .await h _ _ => Hdr.ok h
  | .jinit h _ _ _ => Hdr.ok h
  | .quit h => Hdr.ok h
  | .migrate h _ cls => Hdr.ok h && cls != 3#2
  | .dqinit h _ _ => Hdr.ok h
  | .dqpush h _ _ _ => Hdr.ok h
  | .dqpop h _ _ => Hdr.ok h
  | .dqsteal h _ _ => Hdr.ok h
  | .detach h _ _ => Hdr.ok h
  | .qpush h _ _ _ => Hdr.ok h
  | .qpop h _ _ => Hdr.ok h
  | .qbind h _ _ mode => Hdr.ok h && mode != 3#2
  | .ldshp h _ _ _ => Hdr.ok h
  | .stshp h _ _ _ => Hdr.ok h
  | .shpset h _ _ fld => Hdr.ok h && decide (fld.toNat < 11)
  | .shpget h _ _ fld => Hdr.ok h && decide (fld.toNat < 11)
  | .tadd h xa _ _ s2 bsc cty _ satm => Hdr.ok h && (bsc || xa == 0#7) && (!bsc || s2 == 0#4) && (!satm || cty.isInt) && cty != .m8
  | .tsub h xa _ _ s2 bsc cty _ satm => Hdr.ok h && (bsc || xa == 0#7) && (!bsc || s2 == 0#4) && (!satm || cty.isInt) && cty != .m8
  | .tmul h xa _ _ s2 bsc cty _ satm => Hdr.ok h && (bsc || xa == 0#7) && (!bsc || s2 == 0#4) && (!satm || cty.isInt) && cty != .m8
  | .tfma h xa xb _ _ s2 s3 bsc csc cty _ => Hdr.ok h && (bsc || xa == 0#7) && (!bsc || s2 == 0#4) && (csc || xb == 0#7) && (!csc || s3 == 0#4) && cty.isFloat
  | .tmin h xa _ _ s2 bsc cty _ => Hdr.ok h && (bsc || xa == 0#7) && (!bsc || s2 == 0#4) && cty != .m8
  | .tmax h xa _ _ s2 bsc cty _ => Hdr.ok h && (bsc || xa == 0#7) && (!bsc || s2 == 0#4) && cty != .m8
  | .tabs h _ _ cty _ satm => Hdr.ok h && (!satm || cty.isInt) && cty != .m8
  | .tneg h _ _ cty _ satm => Hdr.ok h && (!satm || cty.isInt) && cty != .m8
  | .tand h xa _ _ s2 bsc cty _ => Hdr.ok h && (bsc || xa == 0#7) && (!bsc || s2 == 0#4) && cty.isInt
  | .tor h xa _ _ s2 bsc cty _ => Hdr.ok h && (bsc || xa == 0#7) && (!bsc || s2 == 0#4) && cty.isInt
  | .txor h xa _ _ s2 bsc cty _ => Hdr.ok h && (bsc || xa == 0#7) && (!bsc || s2 == 0#4) && cty.isInt
  | .tshl h xa _ _ s2 bsc cty _ => Hdr.ok h && (bsc || xa == 0#7) && (!bsc || s2 == 0#4) && cty.isInt
  | .tshr h xa _ _ s2 bsc cty _ _ => Hdr.ok h && (bsc || xa == 0#7) && (!bsc || s2 == 0#4) && cty.isInt
  | .tcvt h _ _ _ => Hdr.ok h
  | .tsplit3 h _ _ _ _ => Hdr.ok h
  | .tred h _ _ cty _ op => Hdr.ok h && op != 3#2 && cty != .m8
  | .tcmp h xa _ _ s2 bsc cty _ rel q => Hdr.ok h && (bsc || xa == 0#7) && (!bsc || s2 == 0#4) && cty != .m8 && (!q || (!cty.isInt && rel != 0#3 && rel != 1#3 && rel != 6#3 && rel != 7#3))
  | .tsel h _ _ _ _ => Hdr.ok h
  | .tgath h _ _ _ => Hdr.ok h
  | .tscat h _ _ _ => Hdr.ok h
  | .tfill h _ _ => Hdr.ok h
  | .tcopy h _ _ => Hdr.ok h
  | .tsfu h xa _ _ s2 bsc cty _ fn => Hdr.ok h && (bsc || xa == 0#7) && (!bsc || s2 == 0#4) && decide (fn.toNat < 9) && (fn == 0#4 || (!bsc && s2 == 0#4)) && (cty == .f32 || cty == .f16 || (cty == .f64 && decide (fn.toNat < 4)))
  | .mmgang h gsz => Hdr.ok h && gsz != 3#2
  | .mmldb h _ => Hdr.ok h
  | .mma h _ _ => Hdr.ok h
  | .mmst h _ _ _ _ => Hdr.ok h
  | .mmz h _ => Hdr.ok h
  | .cpy h xa xb _ _ act pri => Hdr.ok h && decide (act.toNat < 4) && (act != 0#3 || (xa == 0#7 && xb == 0#7)) && (act != 3#3 || xb == 0#7) && (act == 1#3 || !pri)
  | .cpyred h xa xb _ _ act pri rop => Hdr.ok h && decide (act.toNat < 4) && (act != 0#3 || (xa == 0#7 && xb == 0#7)) && (act != 3#3 || xb == 0#7) && (act == 1#3 || !pri) && rop != 3#2
  | .cpymm h xa xb _ _ _ act pri mop arow => Hdr.ok h && decide (act.toNat < 4) && (act != 0#3 || (xa == 0#7 && xb == 0#7)) && (act != 3#3 || xb == 0#7) && (act == 1#3 || !pri) && (mop == 1#2 || mop == 2#2) && (mop == 2#2 || arow == 0#8)
  | .dgn h _ _ _ _ _ => Hdr.ok h
  | .dgdec h _ => Hdr.ok h
  | .engfork h _ _ => Hdr.ok h
  | .engrend h _ => Hdr.ok h
  | .rfstart h _ => Hdr.ok h
  | .rfstat h _ _ => Hdr.ok h
  | .tribin h _ _ _ _ cull => Hdr.ok h && cull != 3#2
  | .rast h _ _ _ _ _ _ => Hdr.ok h
  | .pxlock h _ _ => Hdr.ok h
  | .pxrel h _ _ => Hdr.ok h
  | .emit h _ _ _ _ => Hdr.ok h
  | .emstat h _ _ _ => Hdr.ok h
  | .ctxstart h _ => Hdr.ok h
  | .ctxreap h _ => Hdr.ok h
  | .ctxsave h _ _ _ _ => Hdr.ok h
  | .ctxload h _ _ _ => Hdr.ok h
  | .ctxstat h _ _ => Hdr.ok h
  | .placeHead core => decide (core < 192)
  | .wake core ctx _ _ => decide (core < 192) && decide (ctx < 16)
  | .resultLands core ctx => decide (core < 192) && decide (ctx < 16)
  | .contextGate core => decide (core < 192)
  | .contextRestore core => decide (core < 192)
  | .directListAppend core => decide (core < 192)
  | .messageArrival core _ _ _ => decide (core < 192)
  | .queuePopAssign queue => decide (queue < 16384)
  | .postedStorePerformed _ => true
  | .edgeRecordRelease _ => true
  | .tensorCompletion core ctx => decide (core < 192) && decide (ctx < 16)
  | .matrixCompletion core ctx => decide (core < 192) && decide (ctx < 16)
  | .copyUnitConfirm core slot => decide (core < 192) && decide (slot < 16)
  | .matrixCommandGiven core slot => decide (core < 192) && decide (slot < 16)
  | .copyCompletion core slot => decide (core < 192) && decide (slot < 16)
  | .engineFaultTrap core ctx => decide (core < 192) && decide (ctx < 16)
  | .nodeDecrement core _ _ => decide (core < 192)
  | .nodeAction core => decide (core < 192)
  | .scriptStart core seqr => decide (core < 192) && decide (seqr < 4)
  | .scriptEnd core seqr => decide (core < 192) && decide (seqr < 4)
  | .refineFactor slice => decide (slice < 24)
  | .refinePass slice => decide (slice < 24)
  | .refineExit slice => decide (slice < 24)
  | .primitiveMessage core _ => decide (core < 192)
  | .pxlockGrant core => decide (core < 192)
  | .tileTake part surf => decide (part < 4) && decide (surf < 16)
  | .bandCapture part surf => decide (part < 4) && decide (surf < 16)
  | .unbindComplete part surf => decide (part < 4) && decide (surf < 16)
  | .vectoredEntry core => decide (core < 192)
  | .haltTree part => decide (part < 4)
  | .partitionStart part v => decide (part < 4) && v.getLsbD 31
  | .partitionEnd part => decide (part < 4)
  | .partitionSwap part => decide (part < 4)
  | .s2invPage part page => decide (part < 4) && decide (page < 2 ^ 36)
  | .s2invAll part => decide (part < 4)
  | .routeWrite dev _ => decide (dev < 16)
  | .headModeWrite head _ _ => decide (head < 4)
  | .profnextWrite _ => true
  | .queueDefine stack idx desc => decide (stack < 4) && decide (idx < 4096) && desc.getLsbD 31
  | .queueUndefine stack idx => decide (stack < 4) && decide (idx < 4096)
  | .doorbell queue _ => decide (queue < 4096)
  | .slotMap slot v => decide (slot < 64) && v.getLsbD 31
  | .slotUnmap slot => decide (slot < 64)
  | .slotRestart slot => decide (slot < 64)
  | .nopPacket slot => decide (slot < 64)
  | .launch slot => decide (slot < 64)
  | .signal slot => decide (slot < 64)
  | .waitPacket slot => decide (slot < 64)
  | .indirect slot => decide (slot < 64)
  | .copyPacket slot => decide (slot < 64)
  | .launchComplete _ => true
  | .msixEvent vec => decide (vec < 256)
  | .coalescingTimer vec => decide (vec < 256)
  | .firmwareException _ _ _ xregs => decide (xregs.length = 31)
  | .watchdogExpiry _ _ _ xregs => decide (xregs.length = 31)
  | .faultResolved core ctx => decide (core < 192) && decide (ctx < 16)
  | .flitReceive port _ => decide (port < 8)
  | .ackTimer port => decide (port < 8)
  | .linkRetrain port _ => decide (port < 8)
  | .currentLimiterStep slice above below => decide (slice < 24) && !(above && below)
  | .collectiveComplete _ period => decide (0 < period)
  | .thermalStep _ => true
  | .emergencySave => true
  | .thermalTrip => true
  | .attestationRequest _ => true
  | .profileStoreCommitted => true
  | .firmwareReturn => true
  | .evictionWriteback core _ => decide (core < 192)
  | .postedAtomicPerformed _ => true
  | .scriptInstruction core seqr => decide (core < 192) && decide (seqr < 4)
  | .clockStretch slice => decide (slice < 24)
  | .powerOnReset _ => true
  | .deviceReset _ => true
  | .hostAccess unit _ mpa _ => decide (unit < 4) && decide (mpa < 2 ^ 48)
  | .carveWrite core _ => decide (core < 192)
  | .frameWrite core _ => decide (core < 192)
  | .fifoFlush core _ => decide (core < 192)
  | .trapvecWrite part _ => decide (part < 4)
  | .feedqWrite core _ => decide (core < 192)
  | .frameqWrite part _ => decide (part < 4)
  | .fwdrec core _ => decide (core < 192)
  | .privateWindowWrite part _ _ => decide (part < 4)
  | .s1rootWrite part as _ => decide (part < 4) && decide (as < 16)
  | .surfaceBind part surf _ => decide (part < 4) && decide (surf < 16)
  | .surfaceUnbind part surf => decide (part < 4) && decide (surf < 16)
  | .taskTypeWrite part n _ => decide (part < 4) && decide (n < 64)
  | .registerWrite off _ => decide (off < 2 ^ 26)
  | .powerLoss _ => true
  | .softError source _ _ => decide (source < 65536)
  | .tempReachesHot _ => true
  | .displaySinkChange head _ => decide (head < 4)

end Instr

end Sys2Proof
end

