-- ==== Sys2Proof/Machine/Types.lean ====
section
/-! DEFINITION. The scalar types (R62-R65): widths, values, extension and saturation, and the new value an atomic writes
(R192). -/

namespace Sys2Proof.Machine

/-- The bits of a type (R62, R65). -/
def tyBits : Ty → Nat
  | .i64 | .n64 | .f64 => 64
  | .i32 | .n32 | .f32 => 32
  | .i16 | .n16 | .f16 | .bf16 => 16
  | .i8 | .n8 | .m8 => 8

/-- The bytes of a type. -/
def tyBytes (t : Ty) : Nat := tyBits t / 8

/-- A type is signed: an i type (R62). -/
def tySigned (t : Ty) : Bool := decide (t.code < 4)

/-- The value of a w-bit pattern as a type's value (R62). -/
def tyVal (t : Ty) (v : Nat) : Int := if tySigned t then sgn (tyBits t) v else ((v % 2 ^ tyBits t : Nat) : Int)

/-- A w-bit result as a register value: i types extend the sign, every other type extends zeros (R62). -/
def tyExtend (t : Ty) (v : Nat) : Word := if tySigned t then sext (tyBits t) v else zext (tyBits t) v

/-- The range of a type (R71). -/
def tyMin (t : Ty) : Int := if tySigned t then -(2 ^ (tyBits t - 1) : Nat) else 0
def tyMax (t : Ty) : Int := if tySigned t then (2 ^ (tyBits t - 1) : Nat) - 1 else (2 ^ tyBits t : Nat) - 1

/-- Saturation to a type's range (R71). -/
def tyClamp (t : Ty) (v : Int) : Int := if v < tyMin t then tyMin t else if tyMax t < v then tyMax t else v

/-- The format of a float type. -/
def fmtOf : Ty → Fmt
  | .f64 => fmtF64
  | .f32 => fmtF32
  | .f16 => fmtF16
  | _ => fmtBf16

/-- A type is one of the four IEEE formats. -/
def tyFloat : Ty → Bool
  | .f64 | .f32 | .f16 | .bf16 => true
  | _ => false

/-- What an atomic writes over `m`: AMO 0 add, 1 and, 2 or, 3 xor, 4 min, 5 max, 6 swap; 7 AMOF, with its flags; 8
CAS, which writes nothing when unequal (R192). -/
def amoNew (t : Ty) (op : Nat) (b d : Word) (m : Nat) : Option Nat × Nat :=
  let w := tyBits t
  let y := b.toNat % 2 ^ w
  match op with
  | 0 => (some ((m + y) % 2 ^ w), 0)
  | 1 => (some (m &&& y), 0)
  | 2 => (some (m ||| y), 0)
  | 3 => (some (m ^^^ y), 0)
  | 4 => (some (if tyVal t m ≤ tyVal t y then m else y), 0)
  | 5 => (some (if tyVal t y ≤ tyVal t m then m else y), 0)
  | 6 => (some y, 0)
  | 7 => let r := (fmtOf t).add 0 m y; (some r.1, r.2)
  | _ => (if m = y then some (d.toNat % 2 ^ w) else none, 0)

end Sys2Proof.Machine
end

