-- ==== Sys2Proof/Machine/Space.lean ====
section
/-! DEFINITION. Address spaces: decoding (R87, R88), two-stage translation (R332-R337), the L1 (R94), homes and
scratchpads, Refresh (R111), the destinations of posted transactions (R99, R119), and watchpoints (R358). -/

namespace Sys2Proof.Machine

/-- A trap an access raises: its kind, INFO and ARG (R338). -/
abbrev TrapE := Nat × Word × Word

/-- The translation syndrome (R337). -/
def syndrome (level acc stage cause : Nat) : Word :=
  .ofNat 64 (cause + 256 * stage + 1024 * acc + 4096 * level)

/-- A translation fault at an address. -/
def transFault (level acc stage cause : Nat) (a : Word) : TrapE := (kTrans, syndrome level acc stage cause, a)

/-! ### Locations

A location key is a machine-physical address below 2^48; another device's scratchpad byte from 2^48; and a scratchpad
byte of this device from 2^60 (log entry 6). -/

def ownScr : Nat := 2 ^ 60
def farScr : Nat := 2 ^ 48

/-- The key of a scratchpad byte of a core of this device. -/
def scrKey (core off : Nat) : Nat := ownScr + core * 2 ^ 21 + off

/-- The key of a scratchpad byte of another device. -/
def farKey (dev core off : Nat) : Nat := farScr + (dev * 256 + core) * 2 ^ 21 + off

/-- The core whose scratchpad a key of this device names. -/
def keyCore (key : Nat) : Nat := (key - ownScr) / 2 ^ 21

/-- The device a location lies on. -/
def keyDev (own key : Nat) : Nat :=
  if ownScr ≤ key then own
  else if farScr ≤ key then (key - farScr) / 2 ^ 29
  else if key / 2 ^ 46 = 2 then key / 2 ^ 42 % 16 else own

/-- The canonical form of a memory or a scratchpad: addresses rise, and no entry is the zero byte that an unlisted one
reads as (log entry 7). -/
def Memory.wf (m : NMap Byte) : Bool := NMap.wf 0 m

/-- The byte at a location (log entry 7 for one that nothing has written). -/
def State.byte (s : State) (key : Nat) : Byte :=
  if ownScr ≤ key then (s.core (keyCore key)).scratch.get 0 ((key - ownScr) % 2 ^ 21) else s.mem.get 0 key

/-- `n` bytes from a location. -/
def State.bytes (s : State) (key n : Nat) : List Byte := (List.range n).map fun i => s.byte (key + i)

/-- The number `n` bytes at a location stand for (R14). -/
def State.loadN (s : State) (key n : Nat) : Nat := ofBytes (s.bytes key n)

/-- Sets a byte at a location. -/
def State.setByte (s : State) (key : Nat) (b : Byte) : State :=
  if ownScr ≤ key then
    s.onCore (keyCore key) fun k => { k with scratch := k.scratch.putD 0 ((key - ownScr) % 2 ^ 21) b }
  else { s with mem := s.mem.putD 0 key b }

/-- Sets bytes from a location on. -/
def State.setBytes : State → Nat → List Byte → State
  | s, _, [] => s
  | s, key, b :: bs => (s.setByte key b).setBytes (key + 1) bs

/-- Memory and every scratchpad are in canonical form. -/
def State.memWf (s : State) : Prop := Memory.wf s.mem = true ∧ ∀ c, Memory.wf (s.core c).scratch = true

/-! ### Home slices and home watchpoints (R96, R358) -/

/-- The quadrant whose slices home a line for a partition: interleaved over its stacks, or the stack of the address
(R96). -/
def Part.homeQuad (p : Part) (hm : Bool) (mpa : Nat) : Nat :=
  let qs := ones 4 p.qmask.toNat
  if hm then mpa / 2 ^ 36 % 4 else nth 0 qs (mpa / 2048 % (max qs.length 1))

/-- The home slice of a line: index (MPA >> 7) mod 6 among the quadrant's slices in ascending number (R96). -/
def homeSlice (quad mpa : Nat) : Nat :=
  let i := mpa / 128 % 6
  4 * (3 * (quad / 2) + i / 2) + 2 * (quad % 2) + i % 2

/-- The home watchpoints of a quadrant that a write meets, each posting a KIND 0x15 record to its TCORE (R358). -/
def State.homeWatch (s : State) (quad mpa n : Nat) (writer : Word) : State :=
  (List.range 8).foldl (init := s) fun a h =>
    let base := (a.dev.hwatch.get 0 (quad * 16 + 2 * h)).toNat
    let ctl := a.dev.hwatch.get 0 (quad * 16 + 2 * h + 1)
    let size := 2 ^ (fld ctl 4 4 + 7)
    if bit ctl 0 ∧ mpa < base + size ∧ base < mpa + n then a.post (fld ctl 8 8) 0x15 0 writer 0 (.ofNat 64 mpa) else a

/-- The parts of a range that lie in one 2 KiB granule each, and so on one stack (R96): start and length. -/
def granules (mpa n : Nat) : List (Nat × Nat) :=
  (List.range ((mpa % 2048 + n + 2047) / 2048)).map fun i =>
    let lo := max mpa (mpa / 2048 * 2048 + 2048 * i)
    (lo, min (mpa + n) (mpa / 2048 * 2048 + 2048 * (i + 1)) - lo)

/-- A write performed at home, with its writer as R358 names it: each granule at its own home, whose quadrant's watchpoints
test it (R96). -/
def State.homeWrite (s : State) (p : Nat) (hm : Bool) (mpa : Nat) (bs : List Byte) (writer : Word) : State :=
  let s1 := s.setBytes mpa bs
  if mpa < 2 ^ 47 then
    (granules mpa bs.length).foldl (init := s1) fun a g =>
      a.homeWatch ((s.part p).homeQuad (hm && decide (mpa < 2 ^ 46)) g.1) g.1 g.2 writer
  else s1

/-- The writer word of a strand (R358). -/
def byStrand (c x : Nat) : Word := .ofNat 64 (sidOf c x)
/-- The writer word of a copy engine (R358). -/
def byCopy (c : Nat) : Word := .ofNat 64 (2 ^ 62 + c)
/-- The writer word of another device (R358). -/
def byDevice (d : Nat) : Word := .ofNat 64 (2 * 2 ^ 62 + d * 2 ^ 48)
/-- The writer word of the host (R358). -/
def byHost (u : Nat) : Word := .ofNat 64 (3 * 2 ^ 62 + u)

/-! ### Translation (R332-R335) -/

/-- Why a walk fails: stage, level and cause (R337). -/
abbrev WalkErr := Nat × Nat × Nat

/-- The page a walk ends at: its base, its size and its leaf entry. -/
structure Leaf where
  base  : Nat
  size  : Nat
  entry : Word
  deriving DecidableEq, Repr

/-- An 8-byte entry breaks R333 for its level and stage: a reserved bit, LEAF where it may not be, or a leaf whose
ADDR is not a multiple of its size. -/
def badEntry (stage level : Nat) (e : Word) : Bool :=
  let leaf := bit e 1
  decide (fld e 60 4 ≠ 0) || decide (fld e 48 4 ≠ 0) || decide (fld e 2 10 ≠ 0) ||
  (leaf && level == 1) || (!leaf && level == 4) ||
  (!leaf && decide (fld e 52 8 ≠ 0)) ||
  (leaf && (
    (bit e 59 && level != 4) ||
    (stage == 1 && (bit e 56 || fld e 57 2 == 3)) ||
    (stage == 2 && decide (fld e 57 2 ≠ 0)) ||
    (level == 2 && decide (fld e 12 36 * 4096 % 2 ^ 29 ≠ 0)) ||
    (level == 3 && decide (fld e 12 36 * 4096 % 2 ^ 21 ≠ 0))))

/-- The levels of a walk: number, lowest index bit, index width (R332); stage 2 has 8 index bits at level 1. -/
def walkLevels (stage : Nat) : List (Nat × Nat × Nat) :=
  [(1, 40, if stage = 1 then 12 else 8), (2, 29, 11), (3, 21, 8), (4, 12, 9)]

/-- A table walk: at each level the entry is read by `rd`; a CONT entry is replaced by its group's first one (R334). -/
def walk (stage : Nat) (rd : Nat → Nat → Except WalkErr Word) (va : Nat) :
    List (Nat × Nat × Nat) → Nat → Except WalkErr Leaf
  | [], _ => .error (stage, 4, 5)
  | (lv, sh, w) :: ls, table =>
    let idx := va / 2 ^ sh % 2 ^ w
    match rd lv (table + 8 * idx) with
    | .error e => .error e
    | .ok e =>
      if !bit e 0 then .error (stage, lv, 2)
      else if badEntry stage lv e then .error (stage, lv, 5)
      else if !bit e 1 then walk stage rd va ls (fld e 12 36 * 4096)
      else if !bit e 59 then .ok ⟨fld e 12 36 * 4096, 2 ^ sh, e⟩
      else match rd lv (table + 8 * (idx / 16 * 16)) with
        | .error e => .error e
        | .ok e0 =>
          if !bit e0 0 then .error (stage, lv, 2)
          else if badEntry stage lv e0 || !bit e0 59 || decide (fld e0 12 36 * 4096 % 65536 ≠ 0) then .error (stage, lv, 5)
          else .ok ⟨fld e0 12 36 * 4096, 65536, e0⟩

/-- What a machine-physical address names: device memory, a host range or a fabric aperture (R334, R385, R118). The cause
of a failure is 6, no memory, or 1 for a non-zero aperture bit; 0 for none. -/
def mpaNames (mpa : Nat) : Nat :=
  match mpa / 2 ^ 46 with
  | 0 => if mpa / 2 ^ 38 = 0 then 0 else 6
  | 1 => 0
  | 2 => if mpa / 2 ^ 38 % 16 = 0 then 0 else 1
  | _ => 6

/-- A leaf's machine-physical address names memory the partition may have: device memory only of its own stacks (R383). -/
def State.mpaCause (s : State) (p mpa : Nat) : Nat :=
  if mpa / 2 ^ 46 = 0 ∧ (s.part p).qmask.getLsbD (mpa / 2 ^ 36 % 4) = false then 6 else mpaNames mpa

/-- The level of the table that a leaf stands in (R333). -/
def Leaf.level (l : Leaf) : Nat := if l.size = 2 ^ 29 then 2 else if l.size = 2 ^ 21 then 3 else 4

/-- The location an aperture page of this very device names is the device's own memory (R118). -/
def State.mpaKey (s : State) (mpa : Nat) : Nat :=
  if mpa / 2 ^ 46 = 2 ∧ mpa / 2 ^ 42 % 16 = s.ownDev then mpa % 2 ^ 38 else mpa

/-- An aperture access needs a grant: the device's V, the stack's quadrant, and W for a store (R391). -/
def State.granted (s : State) (p dev quad : Nat) (wr : Bool) : Bool :=
  let g := (s.part p).fgrant.get 0 dev
  bit g 31 && bit g (4 + quad) && (!wr || bit g 0)

/-- A machine address in an aperture of a device that a partition may not reach (R391). -/
def State.ungranted (s : State) (p m : Nat) (wr : Bool) : Bool :=
  decide (m / 2 ^ 46 = 2) && !s.granted p (m / 2 ^ 42 % 16) (m / 2 ^ 36 % 4) wr

/-- The walker's read of a partition's stage-2 entry at its home; an address that names no memory faults (R334), and so does
one in an aperture that the partition has no grant to (R391). -/
def State.readEntry (s : State) (p lv a : Nat) : Except WalkErr Word :=
  match mpaNames a with
  | 0 => if s.ungranted p a false then .error (2, lv, 8) else .ok (.ofNat 64 (s.loadN (s.mpaKey a) 8))
  | c => .error (2, lv, c)

/-- Stage 2: from a partition-physical address to a page of machine memory (R332). -/
def State.walk2 (s : State) (p pa : Nat) : Except WalkErr Leaf :=
  let root := (s.part p).s2root
  if !bit root 0 then .error (2, 1, 2) else walk 2 (s.readEntry p) pa (walkLevels 2) (fld root 15 33 * 32768)

/-- A partition-physical address as a machine address through stage 2 alone (R380), for a read by the device (R391). -/
def State.toMpa (s : State) (p pa : Nat) : Except WalkErr Nat :=
  match s.walk2 p pa with
  | .error e => .error e
  | .ok l =>
    let m := l.base + pa % l.size
    match s.mpaCause p m with
    | 0 => if s.ungranted p m false then .error (2, l.level, 8) else .ok m
    | c => .error (2, l.level, c)

/-- Stage 1: each table address is itself translated by stage 2 (R334). -/
def State.walk1 (s : State) (p as va : Nat) : Except WalkErr Leaf :=
  let root := (s.part p).s1root.get 0 as
  if !bit root 0 then .error (1, 1, 2)
  else walk 1 (fun _ a => (s.toMpa p a).map fun m => .ofNat 64 (s.loadN (s.mpaKey m) 8)) va (walkLevels 1) (fld root 15 33 * 32768)

/-- A whole walk: the combined translation of the 4 KiB page that holds a virtual address (R334). -/
def State.walkBoth (s : State) (p as va : Nat) : Except WalkErr Tlb :=
  match s.walk1 p as va with
  | .error e => .error e
  | .ok l1 =>
    let pa := l1.base + va % l1.size
    match s.walk2 p pa with
    | .error e => .error e
    | .ok l2 =>
      let mpa := l2.base + pa % l2.size
      match s.mpaCause p mpa with
      | 0 =>
        let size := min l1.size l2.size
        .ok { part := p, as := as, va := va / size * size, size := size, mpa := mpa / size * size,
              pa := pa / size * size,
              w := bit l1.entry 53 && bit l2.entry 53, x := bit l1.entry 54 && bit l2.entry 54,
              uc := bit l1.entry 55 || bit l2.entry 55 || mpa / 2 ^ 46 == 2 || (mpa / 2 ^ 46 == 1 && !s.dev.cxlCache),
              hm := bit l2.entry 56, sh := .ofNat 2 (fld l1.entry 57 2), locked := false }
      | c => .error (2, l2.level, c)

/-- What an access needs of a page: 0 a load, 1 a store or atomic, 2 a fetch. The cause of a refusal, 0 for none (R95,
R334). -/
def Tlb.refuses (t : Tlb) (use : Nat) : Nat :=
  if use = 1 ∧ (t.w = false ∨ t.sh = 1) then 3 else if use = 2 ∧ t.x = false then 4 else 0

/-- The stage and level of the leaf that refuses an access (R337): stage 1 where its leaf does, else stage 2. -/
def State.refusedAt (s : State) (p as va use : Nat) : Nat × Nat :=
  match s.walk1 p as va with
  | .error (stage, lv, _) => (stage, lv)
  | .ok l1 =>
    if !bit l1.entry (52 + use) ∨ (use = 1 ∧ fld l1.entry 57 2 = 1) then (1, l1.level)
    else match s.walk2 p (l1.base + va % l1.size) with
      | .error (stage, lv, _) => (stage, lv)
      | .ok l2 => (2, l2.level)

/-- A held translation covers an address. -/
def Tlb.covers (t : Tlb) (p as va : Nat) : Bool :=
  decide (t.part = p) && decide (t.as = as) && decide (t.va ≤ va) && decide (va < t.va + t.size)

/-- A translation is held in a core's L1 TLB and its slice's L2 TLB (R335). -/
def State.hold (s : State) (c : Nat) (t : Tlb) : State :=
  (s.onCore c fun k => { k with tlb := (k.tlb.filter (·.locked)) ++ (t :: k.tlb.filter (!·.locked)).take (64 - (k.tlb.filter (·.locked)).length) }).onSlice
    (sliceOf c) fun v => { v with tlb := (t :: v.tlb).take 4096 }

/-- Translation of a global virtual address for a core, a partition, an address space and a use, with the ACC the
syndrome shows: from a held translation that allows the access, or by a fresh walk (R335). A held one that refuses is
removed first, but the locked one of TRAPVEC stays until TRAPVEC is written (log entry 139). -/
def State.translate (s : State) (c p as : Nat) (va : Nat) (use acc : Nat) : State × Except TrapE Tlb :=
  let a : Word := .ofNat 64 va
  let grant (s : State) (t : Tlb) : State × Except TrapE Tlb :=
    if s.ungranted p (t.mpa + va % t.size) (use == 1) then (s, .error (transFault 0 acc 0 8 a))
    else (s, .ok t)
  let fresh (s : State) : State × Except TrapE Tlb :=
    match s.walkBoth p as va with
    | .error (stage, lv, cause) => (s, .error (transFault lv acc stage cause a))
    | .ok t =>
      match t.refuses use with
      | 0 => grant (s.hold c t) t
      | cause => (s, .error (transFault (s.refusedAt p as va use).2 acc (s.refusedAt p as va use).1 cause a))
  match ((s.core c).tlb ++ (s.slice (sliceOf c)).tlb).find? (·.covers p as va) with
  | none => fresh s
  | some t =>
    match t.refuses use with
    | 0 => grant s t
    | _ => fresh ((s.onCore c fun k => { k with tlb := k.tlb.filter fun e => !(e.covers p as va && !e.locked) }).onSlice
        (sliceOf c) fun v => { v with tlb := v.tlb.filter fun e => !e.covers p as va })

/-- Removes translations of a partition that match from every TLB (R336, R384). -/
def State.dropTlb (s : State) (p : Nat) (m : Tlb → Bool) : State :=
  let gone := fun (t : Tlb) => decide (t.part = p) && m t
  { s with
    cores := s.cores.map fun e => (e.1, { e.2 with tlb := e.2.tlb.filter (!gone ·) })
    slices := s.slices.map fun e => (e.1, { e.2 with tlb := e.2.tlb.filter (!gone ·) }) }

/-! ### Decoding a generic address (R87, R88, R92) -/

/-- The space of an access: a scratchpad of this device, a scratchpad of another, or a global virtual address. -/
inductive Space where
  | scr (core off : Nat)
  | far (dev core off : Nat)
  | glob (va : Nat)
  deriving DecidableEq, Repr

/-- A scratchpad range lies in the core's scratchpad and in the partition's window while one is in force (R88, R362). -/
def State.scrOk (s : State) (p core off n : Nat) : Bool :=
  let w := (s.part p).scrwin
  decide (off + n ≤ (s.core core).scratchSize) &&
  (!bit w 31 || (decide (1024 * fld w 0 11 ≤ off) && decide (off + n ≤ 1024 * fld w 16 11)))

/-- The bytes of a private window (R92). -/
def Part.winBytes (p : Part) : Nat := if p.pwsize = 0 then 0 else 2 ^ fld p.pwsize 0 6

/-- Another device that the fabric domain assigns a number (R87); outside a domain there is none (R322). -/
def State.otherDev (s : State) (dev : Nat) : Bool := s.dev.domain && dev != s.ownDev && s.dev.assigned.getLsbD dev

/-- A scratchpad range lies in the current scratchpad of a core of another device. Its carve is that device's own: every
scratchpad has 256 KiB, and how much of the largest one it has besides is an open value (R88, R90; log entry 64). -/
def State.farOk (s : State) (dev core off n : Nat) : Bool :=
  decide (off + n ≤ 262144) || decide (off + n ≤ 262144 * (Config.farCarve (dev * 256 + core) s.mesh % 6 + 1))

/-- Decodes an access of `n` bytes by a strand of partition `p`; the cause of a failure otherwise: 1, or 8 without a
grant (R87, R88, R391). A private window whose addresses pass the top of the virtual space wraps (log entry 101). -/
def State.decodeIn (s : State) (p c x : Nat) (a : Word) (n : Nat) (wr : Bool) : Except Nat Space :=
  let tag := fld a 60 4
  let off := fld a 0 21
  if tag = 0 then
    if fld a 52 8 = 0 then .ok (.glob (fld a 0 52)) else .error 1
  else if tag = 0xC then
    if fld a 21 39 = 0 ∧ s.scrOk p c off n then .ok (.scr c off) else .error 1
  else if tag = 0xD then
    let dev := fld a 48 4
    let core := fld a 40 8
    if fld a 52 8 ≠ 0 ∨ fld a 21 19 ≠ 0 ∨ 192 ≤ core then .error 1
    else if dev = s.ownDev then
      if s.inPart p core ∧ s.scrOk p core off n then .ok (.scr core off) else .error 1
    else if !s.otherDev dev then .error 1
    else if !s.granted p dev (quadOf core) wr then .error 8
    else if s.farOk dev core off n then .ok (.far dev core off) else .error 1
  else if tag = 0xE then
    let v := s.part p
    let o := fld a 0 32
    if fld a 32 28 = 0 ∧ o + n ≤ v.winBytes then
      .ok (.glob ((v.pwbase.toNat + sidOf c x * v.winBytes + o) % 2 ^ 52))
    else .error 1
  else .error 1

/-- Decodes an access by a strand of the partition that runs on its core. -/
def State.decodeAddr (s : State) (c x : Nat) (a : Word) (n : Nat) (wr : Bool) : Except Nat Space :=
  s.decodeIn (s.partOf c) c x a n wr

/-! ### L1 (R94, R102) -/

/-- Byte `i` of a sector's data. -/
def secByte (d : BitVec 128) (i : Nat) : Byte := .ofNat 8 (d.toNat / 2 ^ (8 * i))

/-- The bytes a mask selects, one bit a byte. -/
def maskBytes (lo n : Nat) : BitVec 16 := .ofNat 16 ((2 ^ n - 1) * 2 ^ lo)

/-- The 128-bit mask of a byte mask. -/
def wide (m : BitVec 16) : BitVec 128 := .ofNat 128 ((ones 16 m.toNat).foldl (fun a i => a + 255 * 2 ^ (8 * i)) 0)

/-- A sector at home, whole. -/
def State.homeSector (s : State) (sec : Nat) : BitVec 128 := .ofNat 128 (s.loadN (16 * sec) 16)

/-- The sectors of a 128-byte line. -/
def lineSecs (line : Nat) : List Nat := (List.range 8).map (8 * line + ·)

/-- Bytes from home merged under the dirty ones; every byte of the sector is then valid (R94). -/
def Sector.merge (v : Sector) (home : BitVec 128) : Sector :=
  { v with data := (v.data &&& wide v.dirty) ||| (home &&& ~~~(wide v.dirty)), valid := 0xFFFF }

def Sector.empty (sh hm : Bool) : Sector := ⟨0, 0, 0, sh, hm⟩

/-- The L1 ways that CARVE leaves (R90). -/
def Core.ways (k : Core) : Nat := 12 - 2 * fld k.carve 0 3

/-- The L1 holds a sector of a line. -/
def Core.lineHeld (k : Core) (line : Nat) : Bool := k.l1.any fun e => e.1 / 8 == line

/-- The lines held in the set of a line: MPA bits [16:7] select it (R94). -/
def Core.setLines (k : Core) (line : Nat) : List Nat :=
  ((k.l1.map fun e => e.1 / 8).filter fun l => l % 1024 == line % 1024).eraseDups

/-- A line is absent and every way of its set is taken. -/
def Core.l1Full (k : Core) (line : Nat) : Bool := !k.lineHeld line && decide (k.ways ≤ (k.setLines line).length)

/-- The runs of dirty bytes of a sector: each start and its bytes. -/
def Sector.runs (v : Sector) : List (Nat × List Byte) :=
  (List.range 16).foldr (init := []) fun i a =>
    if v.dirty.getLsbD i then
      match a with
      | (j, bs) :: r => if j = i + 1 then (i, secByte v.data i :: bs) :: r else (i, [secByte v.data i]) :: a
      | [] => [(i, [secByte v.data i])]
    else a

/-- Writes back a sector's dirty bytes; it stays clean if every byte is valid, else it is invalidated (R94). -/
def State.writeback (s : State) (c sec : Nat) (writer : Word) : State :=
  match (s.core c).l1.find sec with
  | none => s
  | some v =>
    if v.dirty = 0 then s
    else
      let s1 := v.runs.foldl (init := s) fun a r => a.homeWrite (s.partOf c) v.hm (16 * sec + r.1) r.2 writer
      s1.onCore c fun k => { k with l1 := if v.valid = 0xFFFF then k.l1.put sec { v with dirty := 0 } else k.l1.del sec }

/-- Drops a core's clean copy of a sector. -/
def State.dropSector (s : State) (c sec : Nat) : State := s.onCore c fun k => { k with l1 := k.l1.del sec }

/-- A sector leaves the L1, its dirty bytes going home (R94). -/
def State.evict (s : State) (c sec : Nat) : State := (s.writeback c sec (byStrand c 0)).dropSector c sec

/-- A way of the line's set is made free, where it must be: which line goes, the spec leaves open (R94; log entry 102). -/
def State.makeRoom (s : State) (c line : Nat) : State :=
  let k := s.core c
  if k.l1Full line then
    let v := nth 0 (k.setLines line) (Config.pick s.free % (k.setLines line).length)
    (lineSecs v).foldl (init := { s with free := s.free + 1 }) fun a sec => a.evict c sec
  else s

/-- A cacheable store: the sector is allocated without a fetch and exactly the bytes written become dirty (R94). A sector
that becomes dirty may be evicted at any time after it: EVICTION_WRITEBACK (log entry 102). -/
def State.l1Store (s : State) (c mpa n v : Nat) (sh hm : Bool) : State :=
  let sec := mpa / 16
  let s := s.makeRoom c (mpa / 128)
  let o := ((s.core c).l1.find sec).getD (.empty sh hm)
  let m := maskBytes (mpa % 16) n
  let d : BitVec 128 := .ofNat 128 (v % 2 ^ (8 * n) * 2 ^ (8 * (mpa % 16)))
  let v1 : Sector := ⟨(o.data &&& ~~~(wide m)) ||| d, o.valid ||| m, o.dirty ||| m, sh, hm⟩
  let s1 := s.onCore c fun k => { k with l1 := k.l1.put sec v1 }
  if o.dirty = 0 then s1.plan (.evictionWriteback c sec) else s1

/-- Writes back every dirty sector of a core, steps 1 and 2 of a Publish (R109). -/
def State.writebackAll (s : State) (c : Nat) (writer : Word) : State :=
  ((s.core c).l1.map Prod.fst).foldl (init := s) fun a sec => a.writeback c sec writer

/-- A machine address as the device that owns the memory names it: without the aperture bits (R118). -/
def ownerAddr (key : Nat) : Nat := if key / 2 ^ 46 = 2 then key % 2 ^ 38 else key

/-- A Refresh by a delivered summary: clean shared sectors of its regions and instruction-cache lines of them go; with
more than 512 bits set, all clean shared sectors and the whole instruction cache (R111, R97). A sector with dirty bytes is
kept, but of its bytes only those stay valid, so that a load of another one meets home (R94, R107; log entry 24). -/
def State.invalidate (s : State) (c : Nat) (f : Summary) : State :=
  let full := decide (512 < summaryCount f)
  let met := fun (v : Sector) (sec : Nat) => v.shared && (full || f.getLsbD (regionBit (16 * sec)))
  s.onCore c fun k => { k with
    l1 := (k.l1.filter fun e => !(met e.2 e.1 && e.2.dirty == 0)).map fun e =>
      (e.1, if met e.2 e.1 then { e.2 with valid := e.2.dirty } else e.2)
    icache := if full then [] else k.icache.filter fun e => !f.getLsbD (regionBit (ownerAddr (16 * e.1))) }

/-- A Refresh at an edge target: the invalidation, and the summary united into the strand's own (R111). -/
def State.refresh (s : State) (c x : Nat) (f : Summary) : State := (s.invalidate c f).mark c x f

/-! ### Posted transactions (R99, R119, R120) -/

/-- Where an O-class transaction goes: a core's scratchpad or mailbox, a home slice, or a line of another device (R99, R117,
R119). -/
inductive Dest where
  | core (k : Nat)
  | slice (i : Nat)
  | line (l : Nat)
  deriving DecidableEq, Repr

/-- The destination of a core's transaction to a location. -/
def State.dest (s : State) (c : Nat) (hm : Bool) (key : Nat) : Dest :=
  if ownScr ≤ key then .core (keyCore key)
  else if keyDev s.ownDev key ≠ s.ownDev then .line (key / 128)
  else .slice (homeSlice ((s.part (s.partOf c)).homeQuad (hm && decide (key < 2 ^ 46)) key) key)

/-- The location an edge record is performed at: the object's, and for a mailbox or a queue of another device one that no
byte has. -/
def Edge.key : Edge → Nat
  | .signal a _ _ _ _ _ _ => a
  | .join a _ => a
  | .mail dev core hi _ => farKey dev core (2 ^ 21 - 128 * (1 + b2n hi))
  | .queue dev q _ => farKey dev 255 (128 * q)

def Posted.core : Posted → Nat
  | .store c _ _ _ _ => c
  | .amo c _ _ _ _ _ _ _ => c
  | .edge _ c _ _ => c
def Posted.key : Posted → Nat
  | .store _ _ k _ _ => k
  | .amo _ _ k _ _ _ _ _ => k
  | .edge _ _ _ e => e.key
def Posted.hm : Posted → Bool
  | .amo _ _ _ h _ _ _ _ => h
  | _ => false
def Posted.isAmo : Posted → Bool
  | .amo _ _ _ _ _ _ _ _ => true
  | _ => false
def Posted.isEdge : Posted → Bool
  | .edge _ _ _ _ => true
  | _ => false

/-- A posted transaction precedes, in the order of its core, a transaction of that core to a location: it goes to the same
destination (R99, R119), or to the same line under another home mode (R102). -/
def State.ahead (s : State) (c : Nat) (hm : Bool) (key : Nat) (e : Posted) : Bool :=
  e.core == c && (s.dest c e.hm e.key == s.dest c hm key || (decide (key < ownScr) && e.key / 128 == key / 128))

/-- The landed count of a source core at a device (R120). -/
def landedKey (dev core : Nat) : Nat := dev * 256 + core

/-- A scratchpad of this device holds `n` bytes from a location at its present size. -/
def State.inSize (s : State) (key n : Nat) : Bool :=
  decide (key < ownScr) || decide ((key - ownScr) % 2 ^ 21 + n ≤ (s.core (keyCore key)).scratchSize)

/-- The generic address of a scratchpad byte of this device (R87). -/
def State.scrAddr (s : State) (key : Nat) : Word :=
  .ofNat 64 (0xD * 2 ^ 60 + s.ownDev * 2 ^ 48 + keyCore key * 2 ^ 40 + (key - ownScr) % 2 ^ 21)

/-- A record becomes due to a strand before its next unissued instruction: what it has sent has been refused after it went on
(log entry 103). -/
def State.lateTrap (s : State) (c x : Nat) (r : BitVec 256) : State :=
  if (s.ctx c x).st = .free then s else s.onCtx c x fun k => { k with rejected := k.rejected ++ [r] }

/-- A posted access of a strand fails the check of R88 at a scratchpad that has shrunk since it was posted: no byte is
written, and its translation fault is due (R91). -/
def State.lateFault (s : State) (c x key : Nat) : State :=
  s.lateTrap c x (mkRec kTrans x 0 (syndrome 0 1 0 1) 0 (s.scrAddr key))

/-- A posted store is performed at its destination, whose landed count rises with its last part if it is another device
(R120). A scratchpad that has shrunk since takes none of it (R91). -/
def State.performStore (s : State) (c x key : Nat) (bs : List Byte) (last : Bool) : State :=
  let s1 := if s.inSize key bs.length then s.setBytes key bs else s.lateFault c x key
  let d := keyDev s.ownDev key
  if d = s.ownDev ∨ last = false then s1 else { s1 with landed := s1.landed.put (landedKey d c) (s1.landed.get 0 (landedKey d c) + 1) }

/-- A write performed where its bytes lie: at home, or at a scratchpad. -/
def State.writeAt (s : State) (p : Nat) (hm : Bool) (key : Nat) (bs : List Byte) (writer : Word) : State :=
  if key < 2 ^ 48 then s.homeWrite p hm key bs writer else s.setBytes key bs

/-- An atomic's one indivisible step at its location; an unequal CAS writes nothing (R192). -/
def State.performAmo (s : State) (c x key : Nat) (hm : Bool) (ty : Ty) (op : Nat) (b d : Word) : State :=
  match (amoNew ty op b d (s.loadN key (tyBytes ty))).1 with
  | none => if s.inSize key (tyBytes ty) then s else s.lateFault c x key
  | some n =>
    if s.inSize key (tyBytes ty) then s.writeAt (s.partOf c) hm key (toBytes (tyBytes ty) n) (byStrand c x)
    else s.lateFault c x key

/-! ### Core watchpoints (R357, R358) -/

/-- The first watchpoint of a core that an access of a context meets: the region is compared after decoding. -/
def State.watchHit (s : State) (c x : Nat) (sp : Space) (n : Nat) (wr : Bool) : Option Nat :=
  (List.range 4).find? fun w =>
    let k := s.core c
    let ctl := k.wctl.get 0 w
    let size := 2 ^ (fld ctl 8 4 + 3)
    bit ctl 0 && bit ctl (16 + x) && bit ctl (if wr then 5 else 4) &&
    match s.decodeAddr c x (k.waddr.get 0 w) 0 false, sp with
    | .ok (.glob v), .glob a => decide (a < v + size) && decide (v < a + n)
    | .ok (.scr c1 v), .scr c2 a => c1 == c2 && decide (a < v + size) && decide (v < a + n)
    | _, _ => false

/-! ### Accesses by a strand -/

/-- Checks an access of a partition and address space in the order of R186: alignment to `align`, decoding, translation;
`use` is 0 load, 1 store or atomic; `acc` the ACC of the syndrome. -/
def State.placeIn (s : State) (p as c x : Nat) (a : Word) (n align use acc : Nat) : State × Except TrapE Place :=
  if a.toNat % align ≠ 0 then (s, .error (kAlign, 0, a))
  else match s.decodeIn p c x a n (use == 1) with
    | .error cause => (s, .error (transFault 0 acc 0 cause a))
    | .ok (.scr core off) => (s, .ok ⟨scrKey core off, none⟩)
    | .ok (.far dev core off) => (s, .ok ⟨farKey dev core off, none⟩)
    | .ok (.glob va) =>
      match s.translate c p as va use acc with
      | (s1, .error (k, i, _)) => (s1, .error (k, i, a))
      | (s1, .ok t) => (s1, .ok ⟨s1.mpaKey (t.mpa + va % t.size), some t⟩)

/-- Checks an access by a strand. -/
def State.place (s : State) (c x : Nat) (a : Word) (n align use acc : Nat) : State × Except TrapE Place :=
  s.placeIn (s.partOf c) (s.ctx c x).as c x a n align use acc

/-- Global memory reached through L1. -/
def Place.cached (p : Place) : Bool := p.tlb.elim false fun t => !t.uc
/-- A page of the shared class. -/
def Place.shared (p : Place) : Bool := p.tlb.elim false fun t => t.sh == 2
/-- A quadrant-local page. -/
def Place.hm (p : Place) : Bool := p.tlb.elim false (·.hm)
/-- The region a write there marks in a summary: none for a scratchpad; through an aperture, as the owner hashes it
(R110, R118). -/
def Place.region (p : Place) : Summary := if p.key < 2 ^ 48 then regionOf (ownerAddr p.key) else 0

/-- A place on another core's scratchpad or another device: its stores are posted (R190). -/
def State.isPosted (s : State) (c : Nat) (p : Place) : Bool :=
  if ownScr ≤ p.key then keyCore p.key != c else keyDev s.ownDev p.key != s.ownDev

/-- Before an uncached access or an atomic: the core's dirty bytes of the sector go home and its clean copy goes
(R102, R192). -/
def State.clearSector (s : State) (c x key : Nat) : State :=
  if key < 2 ^ 48 then (s.writeback c (key / 16) (byStrand c x)).dropSector c (key / 16) else s

end Sys2Proof.Machine
end

