-- ==== Sys2Proof/Machine/Event.lean ====
section
/-! DEFINITION. The event ring (R392, R393). -/

namespace Sys2Proof.Machine

/-- The machine address of a host physical address (R385). -/
def hostKey (a : Nat) : Nat := 2 ^ 46 + a % 2 ^ 46

/-- Sources of events (R392). -/
def srcCore (c : Nat) : Nat := c
def srcSlice (i : Nat) : Nat := 0x100 + i
def srcPort (k : Nat) : Nat := 0x300 + k
def srcThermal : Nat := 0x400
def srcFirmware : Nat := 0x500

/-- An event record (R392). -/
def mkEvent (data : BitVec 128) (time src kind : Nat) (seq : BitVec 32) : Nat :=
  seq.toNat + kind % 2 ^ 16 * 2 ^ 32 + src % 2 ^ 16 * 2 ^ 48 + time % 2 ^ 64 * 2 ^ 64 + data.toNat * 2 ^ 128

/-- A source makes an event: its record enters the ring while there is room, EVPROD advances, and the event vector is
raised; without room the record is lost and its number is used (R392). -/
def State.event (s : State) (src kind : Nat) (data : BitVec 128) : State :=
  let seq := s.dev.evseq.get 0 src
  let s1 := s.onDev fun d => { d with evseq := d.evseq.put src (seq + 1) }
  let n := 2 ^ fld s.dev.evctl 0 5
  if !bit s.dev.evctl 31 || decide ((s.dev.evprod - s.dev.evcons).toNat = n) then s1
  else
    let a := hostKey (fld s.dev.evbase 12 34 * 4096 + 32 * (s.dev.evprod.toNat % n))
    ((s1.setBytes a (toBytes 32 (mkEvent data s.mesh src kind seq))).onDev fun d => { d with evprod := d.evprod + 1 }).plan
      (.msixEvent (fld s.dev.evctl 16 8))

end Sys2Proof.Machine
end

