-- ==== Sys2Proof/Machine/Operands.lean ====
section
/-! DEFINITION. Operands (R46-R53), the guard (R140), the scoreboard (R147) and the frame every instruction issues in
(R143): its checks in order, its sources, its own effect, and how it completes. -/

namespace Sys2Proof.Machine

/-- A destination: its operand specifier and its result's latency in turns, none for a variable one (R145). -/
abbrev Dst := Opnd × Option Nat

/-- Which contexts may issue a form (R141, R207). -/
inductive Gate where
  | any | sup | user
  deriving DecidableEq, Repr

/-- Where a completed instruction leaves the pc. -/
inductive Nx where
  | fall
  | jump (pc : Word)
  /-- As a continuation that resumes in place: the queue registers unbound, the shape registers zero (R35). -/
  | resume (pc : Word)
  deriving DecidableEq, Repr

/-- How an instruction's own part ends: it completes with a value for each destination; it traps with a record's KIND,
INFO and ARG; it waits and issues again at its next turn (R20); it parks; or it has ended its strand's path. -/
inductive Body where
  | done (s : State) (vals : List Word) (nx : Nx)
  | trap (s : State) (kind : Nat) (info arg : Word)
  | wait (s : State)
  | park (s : State) (w : Wake)
  | gone (s : State)

/-- The checking scoreboard is on: always in context 0 (R147). -/
def Ctx.checked (x : Nat) (k : Ctx) : Bool := x == 0 || k.chk

/-- A source operand the context may read (R46, R48, R52). -/
def Ctx.readable (x : Nat) (k : Ctx) (o : Opnd) : Bool :=
  let n := o.toNat
  if n < 0x40 then decide (n < k.winSize x)
  else if n < 0x4A then true
  else if n < 0x4C then false
  else if n < 0x50 then decide ((k.binding (n - 0x4C)).2 = 1)
  else decide (n < 0x57) || (decide (0x60 ≤ n) && decide (n < 0x68))

/-- A destination operand the context may write (R46, R48, R52). -/
def Ctx.writable (x : Nat) (k : Ctx) (o : Opnd) : Bool :=
  let n := o.toNat
  if n < 0x40 then decide (n < k.winSize x)
  else if n < 0x48 then true
  else if 0x4C ≤ n ∧ n < 0x50 then decide ((k.binding (n - 0x4C)).2 = 2)
  else n == 0x56 || (decide (0x61 ≤ n) && decide (n < 0x68))

/-- A variable-latency result to the register is outstanding, so its reader interlocks; a read of w0 or w1 waits for
one to any g or h register (R51, R146). -/
def Ctx.varPending (k : Ctx) (o : Opnd) : Bool :=
  k.flight.any fun f => f.ready.isNone &&
    ((f.o == o && o != 0#7) || (o == 0x56#7 && f.unit) || ((o == 0x48#7 || o == 0x49#7) && Opnd.shifts f.o))

/-- A fixed-latency result to the register has not landed (R147, R51). -/
def Ctx.fixPending (t : Nat) (k : Ctx) (o : Opnd) : Bool :=
  (k.flight.any fun f => f.o == o && o != 0#7 && f.ready.elim false fun r => decide (t < r)) ||
  (o == 0x48#7 && k.wPending t 0) || (o == 0x49#7 && k.wPending t 1)

/-- A write to a g or h register waits while a variable-latency result to one is outstanding (R51), and a write to any other
register for one to that register, so that both take effect in program order (R53, R148; log entry 94). A write to ff waits
for the flags of a special function in service too. -/
def Ctx.dstPending (k : Ctx) (o : Opnd) : Bool :=
  k.flight.any fun f => f.ready.isNone && ((Opnd.shifts o && Opnd.shifts f.o) || f.o == o || (o == 0x56#7 && f.unit))

/-- A variable-latency result to ff is outstanding: an instruction that raises flags there waits for it (R146; log
entry 94). -/
def Ctx.ffPending (k : Ctx) : Bool := k.flight.any fun f => f.ready.isNone && f.o == 0x56#7

/-- The FIFO behind a queue source holds an entry for each of its reads (R53). -/
def State.canPop (s : State) (c x : Nat) (os : List Opnd) (o : Opnd) : Bool := (s.core c).canPop x os o

/-- The FIFO behind a queue destination has room (R53). -/
def State.canPush (s : State) (c x : Nat) (o : Opnd) : Bool := (s.core c).canPush x o

/-- What a register holds, as an instruction that issues now reads it; `before` are the sources read ahead of it, which pop
first (R46, R53). -/
def State.regOp (s : State) (c x : Nat) (before : List Opnd) (o : Opnd) : Word :=
  let n := o.toNat
  let k := s.ctx c x
  let t := (s.core c).turn
  if n = 0 then 0
  else if n < 0x40 then (s.core c).entry (k.winEntry x + n)
  else if n < 0x48 then k.h.get 0 (n - 0x40)
  else if n < 0x4A then k.wRead t (n - 0x48)
  else if n < 0x50 then nth 0 ((s.core c).fifoOf x (n - 0x4C)) (uses before o)
  else match n with
    | 0x50 => k.fb
    | 0x51 => .ofNat 64 (sidOf c x)
    | 0x52 => .ofNat 64 (s.partOf c)
    | 0x53 => .ofNat 64 (s.classOf c)
    | 0x54 => k.jc
    | 0x55 => .ofNat 64 (s.core c).cycle
    | 0x56 => k.ff
    | 0x60 => 1
    | _ => .ofNat 64 (fld k.c (n - 0x60) 1)

/-- The value of a source: an instruction that has issued keeps what it read then, but one that waited for its queue
registers takes their entries as it completes (R53, R147). -/
def State.readOp (s : State) (c x : Nat) (before : List Opnd) (o : Opnd) : Word :=
  let k := s.ctx c x
  if k.going && !(k.woken && Opnd.isQueue o) then nth 0 k.vals before.length else s.regOp c x before o

/-- The values of the sources, in order. -/
def State.readOps (s : State) (c x : Nat) : List Opnd → List Opnd → List Word
  | _, [] => []
  | before, o :: os => s.readOp c x before o :: s.readOps c x (before ++ [o]) os

/-- The pops of a completed instruction through the queue registers of a context (R53). -/
def State.popAs (s : State) (v : Ctx) (c : Nat) (os : List Opnd) : State :=
  os.foldl (init := s) fun a o =>
    if Opnd.isQueue o then
      let f := (v.binding (o.toNat - 0x4C)).1
      (a.onCore c fun k => { k with fifos := k.fifos.put f ((k.fifos.get [] f).drop 1) }).fifoMoved c
    else a

/-- The pops of a completed instruction (R53). -/
def State.popAll (s : State) (c x : Nat) (os : List Opnd) : State := s.popAs (s.ctx c x) c os

/-- A g or h result enters the last-result file, to land at turn `r` (R50). -/
def Ctx.shiftW (t r : Nat) (v : Word) (k : Ctx) : Ctx :=
  if k.wpend = [] ∧ r ≤ t + 1 then { k with w1 := k.w0, w0 := v } else { k with wpend := (v, r) :: k.wpend }

/-- The special-function unit serves an instruction of a context that has issued (R175). -/
def State.sfuServes (s : State) (c x : Nat) : Bool := (s.core c).sfu.elim false fun q => q.ctx == x && q.held.isNone

/-- A result goes to its destination: a fixed one lands after its latency, and discards an older fixed one to the register
that would land later (R148); a variable one lands by RESULT_LANDS (R146), that of a special function once its service has
ended; a queue result is pushed (R52). -/
def State.putResult (s : State) (c x : Nat) (d : Dst) (v : Word) : State :=
  let (o, lat) := d
  let t := (s.core c).turn
  let n := o.toNat
  match lat with
  | none =>
    let u := s.sfuServes c x && !(s.ctx c x).flight.any (·.unit)
    let s1 := s.onCtx c x fun k => { k with flight := k.flight ++ [⟨o, v, none, u, (k.binding (n - 0x4C)).1⟩] }
    if u then s1 else s1.plan (.resultLands c x)
  | some l =>
    if Opnd.isQueue o then s.pushQ c x (n - 0x4C) v
    else
      let s1 := if Opnd.shifts o then s.onCtx c x fun k => k.shiftW t (t + l) v else s
      if n = 0 then s1
      else if l ≤ 1 then (s1.onCtx c x fun k => { k with
        flight := k.flight.filter fun f => f.o != o || f.ready.isNone }).putReg c x o v
      else s1.onCtx c x fun k => { k with flight := k.flight ++ [⟨o, v, some (t + l), false, 0⟩] }

/-- The results of a completed instruction, DST first (R47). -/
def State.putResults (s : State) (c x : Nat) : List Dst → List Word → State
  | d :: ds, v :: vs => (s.putResult c x d v).putResults c x ds vs
  | _, _ => s

/-- The end of an instruction's turn: the pc goes on, the stall count is set (R144), and the core counts it. -/
def State.advance (s : State) (c x : Nat) (h : Hdr) (pc : Word) : State :=
  (s.onCtx c x fun k => { k with pc := pc, stall := h.wait.toNat, grant := none, woken := false }).onCore c fun k =>
    { k with issued := k.issued + 1 }

/-- A guard register with a result in flight: an interlock for a variable one, a short-stall trap with checking on for
a fixed one (R140). -/
def guardOpnd (h : Hdr) : Opnd := .ofNat 7 (0x60 + h.gc.toNat)

/-- The guard holds (R140). -/
def State.guardHolds (s : State) (c x : Nat) (h : Hdr) : Bool :=
  ((h.gc == 0#3) || (s.ctx c x).c.getLsbD h.gc.toNat) != h.gn

/-- The resume index returns to 0, with the partial state beside it (R60, R232). -/
def Ctx.fromStart (k : Ctx) : Ctx := { k with ri := 0, status := 0, total := 0 }

/-- The form's gate refuses the context (R141, R207). -/
def Gate.refuses (g : Gate) (x : Nat) : Bool :=
  match g with
  | .any => false
  | .sup => x != 0
  | .user => x == 0

/-- The end of an instruction whose own part is done: the pops, the results, then the pc (R47, R53). -/
def State.retire (s : State) (c x : Nat) (h : Hdr) (len : Nat) (srcs : List Opnd) (dsts : List Dst) (vals : List Word)
    (nx : Nx) : State :=
  let t := (s.popAll c x srcs).putResults c x dsts vals
  match nx with
  | .fall => t.advance c x h ((s.ctx c x).pc + .ofNat 64 len)
  | .jump a => t.advance c x h a
  | .resume a => (t.advance c x h a).onCtx c x fun k => { k with q := [], shapes := [] }

/-- An instruction's own part, once every earlier test has passed (step 8 of R143); `v` is the context as it was. -/
def State.finish (v : Ctx) (c x : Nat) (h : Hdr) (len : Nat) (srcs : List Opnd) (dsts : List Dst) (b : Body) : State :=
  match b with
  | .done s1 vals nx => s1.retire c x h len srcs dsts vals nx
  | .trap s1 kind info arg => s1.takeTrap c x kind info arg
  | .wait s1 => s1
  | .park s1 w => s1.parkCtx c x w
  | .gone s1 => (s1.popAs v c srcs).onCore c fun k => { k with issued := k.issued + 1 }

/-- An instruction issues: the tests of R143 from the context-0-only forms on, in order; then its sources are read, and
its own part runs on their values. When several sources are read early, the short-stall record names the first of them in
the order in which they are read (R147; log entry 95). One that has issued before and goes on passes no test again; woken at
its queue registers, it parks again unless they can serve it (R152). One that is guarded off asks a shared unit for nothing
any more (R175), and has completed, so that none resumes from its index (R60). -/
def State.issue (s : State) (g : Gate) (h : Hdr) (len : Nat) (srcs : List Opnd) (dsts : List Dst)
    (body : List Word → State → Body) : State :=
  let c := s.cur
  let x := s.actor
  let k := s.ctx c x
  let t := (s.core c).turn
  let serve := srcs.all (s.canPop c x srcs) && dsts.all fun d => s.canPush c x d.1
  let go := State.finish k c x h len srcs dsts (body (s.readOps c x [] srcs) s)
  let park := s.parkCtx c x (.fifo srcs (dsts.map Prod.fst))
  if k.going then if k.woken && !serve then park else go
  else if g.refuses x then s.takeTrap c x kIllegal 0 0
  else if !(srcs.all (k.readable x) && dsts.all fun d => k.writable x d.1) then s.takeTrap c x kOperand 0 0
  else if k.varPending (guardOpnd h) then s
  else if k.checked x && k.fixPending t (guardOpnd h) then
    s.takeTrap c x kShort (.ofNat 64 (guardOpnd h).toNat) 0
  else if !s.guardHolds c x h then ((s.onCore c (·.unask x)).onCtx c x Ctx.fromStart).advance c x h (k.pc + .ofNat 64 len)
  else if srcs.any k.varPending || dsts.any (fun d => k.dstPending d.1) then s
  else match if k.checked x then srcs.find? (k.fixPending t) else none with
    | some o => s.takeTrap c x kShort (.ofNat 64 o.toNat) 0
    | none => if serve then go else park

/-- An instruction that only computes a value from its sources: one destination, no other effect. A source that is a queue
register is popped as it completes, and the result keeps the form's own latency (R145; log entry 96). -/
def compute (h : Hdr) (len : Nat) (srcs : List Opnd) (d : Opnd) (lat : Nat) (f : List Word → Word) (s : State) : Res :=
  .next (s.issue .any h len srcs [(d, some lat)] fun vs s => .done s [f vs] .fall)

/-- The first, second, third and fourth source value. -/
def v0 (vs : List Word) : Word := nth 0 vs 0
def v1 (vs : List Word) : Word := nth 0 vs 1
def v2 (vs : List Word) : Word := nth 0 vs 2
def v3 (vs : List Word) : Word := nth 0 vs 3
def v4 (vs : List Word) : Word := nth 0 vs 4

/-- A trap an access raised, as the end of an instruction. -/
def Body.ofTrap (s : State) (e : TrapE) : Body := .trap s e.1 e.2.1 e.2.2

/-- An illegal-operand trap, as the end of an instruction. -/
def Body.operand (s : State) : Body := .trap s kOperand 0 0

end Sys2Proof.Machine
end

