-- ==== Sys2Proof/Machine/Integer.lean ====
section
/-! DEFINITION. Integer, packed, move and condition instructions: majors 0x01 to 0x06 (R150-R164). -/

namespace Sys2Proof.Machine

/-- The IARITH operations on exact values (R154); DIV and REM by zero give 0 and the dividend (R72). -/
def iarith (op : Nat) (w : Nat) (a b : Int) : Int :=
  match op with
  | 0 => a + b
  | 1 => a - b
  | 2 => a * b
  | 3 => (a * b) / ((2 ^ w : Nat) : Int)
  | 4 => if b = 0 then 0 else Int.tdiv a b
  | 5 => if b = 0 then a else a - Int.tdiv a b * b
  | 6 => if a ≤ b then a else b
  | _ => if a ≥ b then a else b

/-- IARITH on two register values (R154). -/
def iarithW (op : Nat) (ty : Ty) (a b : Word) : Word :=
  tyExtend ty (low (tyBits ty) (iarith op (tyBits ty) (tyVal ty a.toNat) (tyVal ty b.toNat)))

def execAdd (h : Hdr) (ty : Ty) (d a b : Opnd) (s : State) : Res := compute h 8 [a, b] d 1 (fun v => iarithW 0 ty (v0 v) (v1 v)) s
def execSub (h : Hdr) (ty : Ty) (d a b : Opnd) (s : State) : Res := compute h 8 [a, b] d 1 (fun v => iarithW 1 ty (v0 v) (v1 v)) s
def execMul (h : Hdr) (ty : Ty) (d a b : Opnd) (s : State) : Res := compute h 8 [a, b] d 2 (fun v => iarithW 2 ty (v0 v) (v1 v)) s
def execMulh (h : Hdr) (ty : Ty) (d a b : Opnd) (s : State) : Res := compute h 8 [a, b] d 2 (fun v => iarithW 3 ty (v0 v) (v1 v)) s
def execDiv (h : Hdr) (ty : Ty) (d a b : Opnd) (s : State) : Res := compute h 8 [a, b] d 4 (fun v => iarithW 4 ty (v0 v) (v1 v)) s
def execRem (h : Hdr) (ty : Ty) (d a b : Opnd) (s : State) : Res := compute h 8 [a, b] d 4 (fun v => iarithW 5 ty (v0 v) (v1 v)) s
def execMin (h : Hdr) (ty : Ty) (d a b : Opnd) (s : State) : Res := compute h 8 [a, b] d 1 (fun v => iarithW 6 ty (v0 v) (v1 v)) s
def execMax (h : Hdr) (ty : Ty) (d a b : Opnd) (s : State) : Res := compute h 8 [a, b] d 1 (fun v => iarithW 7 ty (v0 v) (v1 v)) s

/-- Shifts of a w-bit pattern by an unmasked amount (R73). -/
def shlN (w a n : Nat) : Nat := if w ≤ n then 0 else a * 2 ^ n % 2 ^ w
def shrN (w a n : Nat) : Nat := if w ≤ n then 0 else a % 2 ^ w / 2 ^ n
def shraN (w a n : Nat) : Nat := low w (sgn w a / ((2 ^ min n (w - 1) : Nat) : Int))
/-- Rotation toward bit 0 (R155). -/
def rotN (w a n : Nat) : Nat := a % 2 ^ w / 2 ^ (n % w) + a % 2 ^ w * 2 ^ (w - n % w) % 2 ^ w
/-- The number of 0 bits above the highest 1. -/
def clzN (w a : Nat) : Nat := if a % 2 ^ w = 0 then w else w - 1 - Nat.log2 (a % 2 ^ w)
/-- The number of 0 bits below the lowest 1. -/
def ctzN (w a : Nat) : Nat := ((List.range w).find? fun i => a.testBit i).getD w

/-- The width ILOGIC works at (R155). -/
def logicBits (ty : Ty) : Nat := if ty = .i64 then 64 else 32

/-- ILOGIC on two register values: the low w bits, sign-extended (R155). -/
def ilogicW (f : Nat → Nat → Nat → Nat) (ty : Ty) (a b : Word) : Word :=
  let w := logicBits ty
  sext w (f w (a.toNat % 2 ^ w) b.toNat)

def execAnd (h : Hdr) (ty : Ty) (d a b : Opnd) (s : State) : Res := compute h 8 [a, b] d 1 (fun v => ilogicW (fun _ x y => x &&& y) ty (v0 v) (v1 v)) s
def execOr (h : Hdr) (ty : Ty) (d a b : Opnd) (s : State) : Res := compute h 8 [a, b] d 1 (fun v => ilogicW (fun _ x y => x ||| y) ty (v0 v) (v1 v)) s
def execXor (h : Hdr) (ty : Ty) (d a b : Opnd) (s : State) : Res := compute h 8 [a, b] d 1 (fun v => ilogicW (fun _ x y => x ^^^ y) ty (v0 v) (v1 v)) s
def execAndn (h : Hdr) (ty : Ty) (d a b : Opnd) (s : State) : Res :=
  compute h 8 [a, b] d 1 (fun v => ilogicW (fun w x y => x &&& (2 ^ w - 1 - y % 2 ^ w)) ty (v0 v) (v1 v)) s
def execShl (h : Hdr) (ty : Ty) (d a b : Opnd) (s : State) : Res := compute h 8 [a, b] d 1 (fun v => ilogicW (fun w x y => shlN w x (y % 256)) ty (v0 v) (v1 v)) s
def execShr (h : Hdr) (ty : Ty) (d a b : Opnd) (s : State) : Res := compute h 8 [a, b] d 1 (fun v => ilogicW (fun w x y => shrN w x (y % 256)) ty (v0 v) (v1 v)) s
def execShra (h : Hdr) (ty : Ty) (d a b : Opnd) (s : State) : Res := compute h 8 [a, b] d 1 (fun v => ilogicW (fun w x y => shraN w x (y % 256)) ty (v0 v) (v1 v)) s
def execRot (h : Hdr) (ty : Ty) (d a b : Opnd) (s : State) : Res := compute h 8 [a, b] d 1 (fun v => ilogicW (fun w x y => rotN w x (y % 256)) ty (v0 v) (v1 v)) s
def execClz (h : Hdr) (ty : Ty) (d a : Opnd) (s : State) : Res := compute h 8 [a] d 1 (fun v => ilogicW (fun w x _ => clzN w x) ty (v0 v) 0) s
def execCtz (h : Hdr) (ty : Ty) (d a : Opnd) (s : State) : Res := compute h 8 [a] d 1 (fun v => ilogicW (fun w x _ => ctzN w x) ty (v0 v) 0) s
def execPopc (h : Hdr) (ty : Ty) (d a : Opnd) (s : State) : Res := compute h 8 [a] d 1 (fun v => ilogicW (fun w x _ => popc w x) ty (v0 v) 0) s

def execAddi (h : Hdr) (d a : Opnd) (i : BitVec 20) (s : State) : Res := compute h 8 [a] d 1 (fun v => v0 v + i.signExtend 64) s
def execAndi (h : Hdr) (d a : Opnd) (i : BitVec 20) (s : State) : Res := compute h 8 [a] d 1 (fun v => v0 v &&& i.signExtend 64) s
def execOri (h : Hdr) (d a : Opnd) (i : BitVec 20) (s : State) : Res := compute h 8 [a] d 1 (fun v => v0 v ||| i.signExtend 64) s
def execXori (h : Hdr) (d a : Opnd) (i : BitVec 20) (s : State) : Res := compute h 8 [a] d 1 (fun v => v0 v ^^^ i.signExtend 64) s
def execShli (h : Hdr) (d a : Opnd) (n : BitVec 8) (s : State) : Res := compute h 8 [a] d 1 (fun v => .ofNat 64 (shlN 64 (v0 v).toNat n.toNat)) s
def execShri (h : Hdr) (d a : Opnd) (n : BitVec 8) (s : State) : Res := compute h 8 [a] d 1 (fun v => .ofNat 64 (shrN 64 (v0 v).toNat n.toNat)) s
def execShrai (h : Hdr) (d a : Opnd) (n : BitVec 8) (s : State) : Res := compute h 8 [a] d 1 (fun v => .ofNat 64 (shraN 64 (v0 v).toNat n.toNat)) s

def execMov (h : Hdr) (d a : Opnd) (s : State) : Res := compute h 8 [a] d 1 (fun v => v0 v) s
def execLi (h : Hdr) (d : Opnd) (i : BitVec 52) (s : State) : Res := compute h 12 [] d 1 (fun _ => i.signExtend 64) s
/-- ADDPC adds to the address of the instruction itself (R159). -/
def execAddpc (h : Hdr) (d : Opnd) (i : BitVec 52) (s : State) : Res :=
  compute h 12 [] d 1 (fun _ => s.me.pc + i.signExtend 64 * 4) s
def execSel (h : Hdr) (d a b c : Opnd) (s : State) : Res :=
  compute h 8 [a, b, c] d 1 (fun v => if v2 v ≠ 0 then v0 v else v1 v) s

/-- The field EXT takes (R161). -/
def extField (a : Word) (pos len : Nat) (sg : Bool) : Word :=
  let f := a.toNat / 2 ^ pos % 2 ^ len
  if sg then sext len f else .ofNat 64 f

/-- INS: bits of the inserted value past bit 63 are dropped (R161). -/
def insField (a b : Word) (pos len : Nat) : Word :=
  let m : Word := .ofNat 64 ((2 ^ len - 1) * 2 ^ pos)
  (a &&& ~~~m) ||| ((b <<< pos) &&& m)

def execExt (h : Hdr) (d a : Opnd) (pos lenm1 : BitVec 6) (sg : Bool) (s : State) : Res :=
  compute h 8 [a] d 1 (fun v => extField (v0 v) pos.toNat (lenm1.toNat + 1) sg) s
def execIns (h : Hdr) (d a b : Opnd) (pos lenm1 : BitVec 6) (s : State) : Res :=
  compute h 8 [a, b] d 1 (fun v => insField (v0 v) (v1 v) pos.toNat (lenm1.toNat + 1)) s

/-- The relations of CMP and CMPI on w-bit patterns (R162). -/
def cmpRel (rel : Nat) (ty : Ty) (x y : Nat) : Bool :=
  let a := tyVal ty x
  let b := tyVal ty y
  match rel with
  | 0 => a == b
  | 1 => a != b
  | 2 => decide (a < b)
  | 3 => decide (a ≥ b)
  | 4 => decide (a ≤ b)
  | 5 => decide (a > b)
  | 6 => x &&& y == 0
  | _ => x &&& y != 0

/-- CMP on two register values at a type's width (R162). -/
def cmpW (rel : BitVec 3) (ty : Ty) (a b : Word) : Word :=
  let w := tyBits ty
  .ofNat 64 (b2n (cmpRel rel.toNat ty (a.toNat % 2 ^ w) (b.toNat % 2 ^ w)))

def execCmp (h : Hdr) (d a b : Opnd) (rel : BitVec 3) (ty : Ty) (s : State) : Res :=
  compute h 8 [a, b] d 1 (fun v => cmpW rel ty (v0 v) (v1 v)) s
def execCmpi (h : Hdr) (d a : Opnd) (rel : BitVec 3) (ty : Ty) (i : BitVec 14) (s : State) : Res :=
  compute h 8 [a] d 1 (fun v => cmpW rel ty (v0 v) (i.signExtend 64)) s

/-- CLOG looks two truth values up in its table (R163). -/
def clogW (tbl : BitVec 4) (a b : Word) : Word :=
  .ofNat 64 (b2n (tbl.getLsbD (2 * b2n (decide (a ≠ 0)) + b2n (decide (b ≠ 0)))))

def execClog (h : Hdr) (d a b : Opnd) (tbl : BitVec 4) (s : State) : Res :=
  compute h 8 [a, b] d 1 (fun v => clogW tbl (v0 v) (v1 v)) s

/-- Lane by lane over a register (R164). -/
def lanes (w : Nat) (f : Nat → Nat → Nat) (a b : Word) : Word :=
  .ofNat 64 ((List.range (64 / w)).foldl (init := 0) fun r k =>
    r + f (a.toNat / 2 ^ (k * w) % 2 ^ w) (b.toNat / 2 ^ (k * w) % 2 ^ w) % 2 ^ w * 2 ^ (k * w))

/-- A lane's shift amount: the whole lane when 8 bits wide, else its low 8 bits (R164). -/
def laneAmt (y : Nat) : Nat := y % 256

/-- A packed operation of a lane type (R164). -/
def packedW (f : Ty → Nat → Nat → Nat) (ty : Ty) (a b : Word) : Word := lanes (tyBits ty) (f ty) a b

def execPadd (h : Hdr) (ty : Ty) (d a b : Opnd) (s : State) : Res := compute h 8 [a, b] d 1 (fun v => packedW (fun _ x y => x + y) ty (v0 v) (v1 v)) s
def execPsub (h : Hdr) (ty : Ty) (d a b : Opnd) (s : State) : Res :=
  compute h 8 [a, b] d 1 (fun v => packedW (fun t x y => low (tyBits t) ((x : Int) - y)) ty (v0 v) (v1 v)) s
def execPadds (h : Hdr) (ty : Ty) (d a b : Opnd) (s : State) : Res :=
  compute h 8 [a, b] d 1 (fun v => packedW (fun t x y => low (tyBits t) (tyClamp t (tyVal t x + tyVal t y))) ty (v0 v) (v1 v)) s
def execPsubs (h : Hdr) (ty : Ty) (d a b : Opnd) (s : State) : Res :=
  compute h 8 [a, b] d 1 (fun v => packedW (fun t x y => low (tyBits t) (tyClamp t (tyVal t x - tyVal t y))) ty (v0 v) (v1 v)) s
def execPmul (h : Hdr) (ty : Ty) (d a b : Opnd) (s : State) : Res := compute h 8 [a, b] d 2 (fun v => packedW (fun _ x y => x * y) ty (v0 v) (v1 v)) s
def execPmin (h : Hdr) (ty : Ty) (d a b : Opnd) (s : State) : Res :=
  compute h 8 [a, b] d 1 (fun v => packedW (fun t x y => if tyVal t x ≤ tyVal t y then x else y) ty (v0 v) (v1 v)) s
def execPmax (h : Hdr) (ty : Ty) (d a b : Opnd) (s : State) : Res :=
  compute h 8 [a, b] d 1 (fun v => packedW (fun t x y => if tyVal t x ≥ tyVal t y then x else y) ty (v0 v) (v1 v)) s
def execPshl (h : Hdr) (ty : Ty) (d a b : Opnd) (s : State) : Res :=
  compute h 8 [a, b] d 1 (fun v => packedW (fun t x y => shlN (tyBits t) x (laneAmt y)) ty (v0 v) (v1 v)) s
def execPshr (h : Hdr) (ty : Ty) (d a b : Opnd) (s : State) : Res :=
  compute h 8 [a, b] d 1 (fun v => packedW (fun t x y => shrN (tyBits t) x (laneAmt y)) ty (v0 v) (v1 v)) s
def execPshra (h : Hdr) (ty : Ty) (d a b : Opnd) (s : State) : Res :=
  compute h 8 [a, b] d 1 (fun v => packedW (fun t x y => shraN (tyBits t) x (laneAmt y)) ty (v0 v) (v1 v)) s

end Sys2Proof.Machine
end

