-- ==== Sys2Proof/Machine/Convert.lean ====
section
/-! DEFINITION. Conversions between scalar types and narrow formats (R74-R77), shared by scalar, tensor and copy
instructions. -/

namespace Sys2Proof.Machine

/-- The value of an m8 code (R64). -/
def m8Val (v : Nat) : Int := if v.testBit 7 then -((v % 128 : Nat) : Int) else ((v % 128 : Nat) : Int)

/-- The m8 code of a value in its range; zero is 0x00 (R64). -/
def m8Code (v : Int) : Nat := if v < 0 then 128 + v.natAbs % 128 else v.natAbs % 128

/-- The integer value of a code of an integer type or m8. -/
def intVal (t : Ty) (v : Nat) : Int := if t = .m8 then m8Val v else tyVal t v

/-- Saturation of an integer to an integer type or m8: the w-bit code, and whether it was clamped (R64, R74). -/
def intSat (t : Ty) (v : Int) : Nat × Bool :=
  if t = .m8 then
    let c := if v < -127 then -127 else if 127 < v then 127 else v
    (m8Code c, c != v)
  else
    let c := tyClamp t v
    (low (tyBits t) c, c != v)

/-- The value of a code of any scalar type. -/
def tyValue (t : Ty) (v : Nat) : FVal :=
  if tyFloat t then (fmtOf t).value (v % 2 ^ tyBits t)
  else
    let i := intVal t v
    .fin (decide (i < 0)) i.natAbs 0

/-- A float value as an integer type or m8: the code, the flags, and 1 when it saturated (R74). -/
def valueToInt (t : Ty) (rm : Nat) (v : FVal) : Nat × Nat × Nat :=
  match v with
  | .nan _ => (0, fNV, 0)
  | .inf neg => ((intSat t (if neg then -(2 ^ 70 : Nat) else (2 ^ 70 : Nat))).1, fNV, 1)
  | .fin _ _ _ =>
    let (i, changed) := v.toInt rm
    let (c, sat) := intSat t i
    (c, if sat then fNV else if changed then fNX else 0, b2n sat)

/-- A value into a scalar type, from a float or narrow source (R74, R168). -/
def valueTo (t : Ty) (rm : Nat) (v : FVal) : Nat × Nat × Nat :=
  if tyFloat t then
    let r := (fmtOf t).ofVal rm v
    (r.1, r.2, 0)
  else valueToInt t rm v

/-- Conversion between scalar types: the w-bit code, the flags, and 1 when an integer destination saturated (R74). -/
def convert (dst src : Ty) (rm : Nat) (v : Nat) : Nat × Nat × Nat :=
  if !tyFloat src && !tyFloat dst then
    let r := intSat dst (intVal src v)
    (r.1, 0, b2n r.2)
  else valueTo dst rm (tyValue src v)

/-- A narrow format: its descriptor passes R75 with ETY = 0xF. -/
def narrowOk (d : Word) : Bool :=
  decide (fld d 0 4 = 15) && decide (fld d 4 4 = 0) && decide (fld d 16 8 = 0) && decide (fld d 40 24 = 0) &&
  decide (1 ≤ fld d 12 3) && decide (fld d 15 1 + fld d 12 3 + fld d 9 3 ≤ 8)

/-- The format a narrow descriptor names (R76). -/
def narrowFmt (d : Word) : Fmt := ⟨bit d 15, fld d 12 3, fld d 9 3, sgn 16 (fld d 24 16), bit d 8⟩

/-- The bits of a narrow code. -/
def narrowBits (d : Word) : Nat := fld d 15 1 + fld d 12 3 + fld d 9 3

/-- A descriptor passes R75; one of ETY 0x0 to 0xC is held to all its reserved bits, [7:4] and [63:40] too (log entry 129). -/
def descOk (d : Word) : Bool :=
  narrowOk d || (decide (fld d 0 4 ≤ 12) && decide (fld d 4 4 = 0) && decide (fld d 8 56 = 0))

end Sys2Proof.Machine
end

