-- ==== Sys2Proof/Machine/Flags.lean ====
section
/-! DEFINITION. The flags register ff (R57, R69, R166). -/

namespace Sys2Proof.Machine

/-- The trap enables of a flags register, in the order of the flags (R57). -/
def tenOf (ff : Word) : Nat := fld ff 16 5

/-- Sets the flags an instruction raises (R57). -/
def State.raise (s : State) (c x : Nat) (fl : Nat) : State := s.onCtx c x fun k => { k with ff := k.ff ||| .ofNat 64 (fl % 32) }

/-- The end of a scalar float instruction: its flags are set; when one is enabled the strand traps with the enabled ones
in INFO and no result, else the result is delivered (R166). Where the destination is ff itself, the flags are set first
and the write of R57 follows (log entry 99). -/
def Body.float (c x : Nat) (r : Word × Nat) (s : State) : Body :=
  let on := r.2 &&& tenOf (s.ctx c x).ff
  if on ≠ 0 then .trap (s.raise c x r.2) kArith (.ofNat 64 on) 0 else .done (s.raise c x r.2) [r.1] .fall

/-- A scalar float instruction: one destination, a value and its flags. It waits for a result to ff that is still to land. -/
def floatOp (h : Hdr) (srcs : List Opnd) (d : Opnd) (lat : Option Nat) (f : List Word → Word × Nat) (s : State) : Res :=
  .next (s.issue .any h 8 srcs [(d, lat)] fun vs s =>
    if s.me.ffPending then .wait s else Body.float s.cur s.actor (f vs) s)

/-! ### The special-function unit (R175, R176) -/

/-- The context that a request is served for: requests are numbered by their contexts, and that of sequencer `q` is 16 + `q`,
which its script makes for its owner. -/
def Core.sfuCtx (k : Core) (n : Nat) : Nat := if n < 16 then n else (k.seqrs.find (n - 16)).elim 0 (·.ctx)

/-- A request that the unit may take: its context may issue (R20), or its script runs. -/
def Core.sfuLive (k : Core) (n : Nat) : Bool :=
  if n < 16 then decide ((k.ctx n).st = .ready) && !(k.ctx n).gated && (!(k.frozen && n != 0) || (k.ctx n).going)
  else (k.seqrs.find (n - 16)).elim false (!·.stopped)

/-- A context asks the unit, itself or by a script. -/
def Core.sfuAsks (k : Core) (x : Nat) : Bool := k.sfuWait.any fun n => k.sfuCtx n == x && k.sfuLive n

/-- The unit is idle and the turn of a request has come: round-robin by context, starting after the one last served, and among
those of one context the one that has waited longest. -/
def Core.sfuTurn (k : Core) (n : Nat) : Bool :=
  k.sfu.isNone && nextAfter k.lastSfu (fun y => y == k.sfuCtx n || k.sfuAsks y) == some (k.sfuCtx n) &&
    (k.sfuWait.find? fun m => k.sfuCtx m == k.sfuCtx n && (m == n || k.sfuLive m)).elim true (· == n)

/-- The unit takes a request. -/
def Core.sfuTake (k : Core) (n : Nat) (q : Option Sfu) : Core :=
  { k with sfu := q, sfuWait := k.sfuWait.filter (· != n), lastSfu := k.sfuCtx n }

/-- A request waits at the unit. -/
def Core.sfuAsk (k : Core) (x : Nat) : Core := if k.sfuWait.contains x then k else { k with sfuWait := k.sfuWait ++ [x] }

/-- The service time of a scalar request in core cycles: the functions are numbered as the minors (R175). -/
def sfuTime (ty : Ty) (fn : Nat) : Nat :=
  if fn < 2 then (if ty = .f64 then 40 else 12) else if fn < 4 then (if ty = .f64 then 36 else 12)
  else if fn < 6 then 16 else 20

/-- A scalar special function (R175, R176). It issues when the unit accepts it, and its flags come with the end of its
service. While a trap is enabled it stays at its instruction until then, since the trap is precise (log entry 100). -/
def sfuBody (time : Nat) (r : Word × Nat) (s : State) : Body :=
  let c := s.cur
  let x := s.actor
  match s.me.sfuOut with
  | some r => Body.float c x r (s.onMe fun k => { k with sfuOut := none, busy := false })
  | none =>
    if s.me.ffPending || s.me.busy then .wait s
    else if !(s.core c).sfuTurn x then .wait (s.onCore c (·.sfuAsk x))
    else
      let upto := (s.core c).cycle + time
      if tenOf s.me.ff = 0 then .done (s.onCore c (·.sfuTake x (some ⟨x, upto, r.2, none⟩))) [r.1] .fall
      else .wait ((s.onCore c (·.sfuTake x (some ⟨x, upto, r.2, some r.1⟩))).onMe fun k => { k with busy := true })

/-- The unit delivers the request in service (R175, R176): to an instruction that has issued its flags, and its result may
land; to one that waits, its result and flags, or its trap. -/
def State.sfuDeliver (s : State) (c : Nat) (q : Sfu) : State :=
  match q.held with
  | none => (s.sfuLand c q.ctx).plan (.resultLands c q.ctx)
  | some v =>
    let s1 := s.onCore c fun k => { k with sfu := none }
    let on := q.flags &&& tenOf (s.ctx c q.ctx).ff
    if on ≠ 0 then (s1.raise c q.ctx q.flags).takeTrap c q.ctx kArith (.ofNat 64 on) 0
    else s1.onCtx c q.ctx fun k => { k with sfuOut := some (v, q.flags) }

/-- The service in progress ends when its time has come. -/
def State.sfuEnd (s : State) (c : Nat) : State :=
  match (s.core c).sfu with
  | some q => if q.upto ≤ (s.core c).cycle then s.sfuDeliver c q else s
  | none => s

/-- A save lets the request of a context that is in service end, and withdraws one that still waits (R61, R176). -/
def State.sfuSettle (s : State) (c x : Nat) : State :=
  let s1 := s.onCore c (·.unask x)
  match (s1.core c).sfu with
  | some q => if q.ctx = x then s1.sfuDeliver c q else s1
  | none => s1

end Sys2Proof.Machine
end

