-- ==== Sys2Proof/Machine/Sfu.lean ====
section
/-! DEFINITION. The special functions, correctly rounded (R174). Division and roots are exact integer arithmetic. The
others enclose the value between two fixed-point numbers and refine until both round alike: their values at the operands
that are not listed in R174 are irrational, so a finer enclosure always decides. -/

namespace Sys2Proof.Machine

/-- The fixed-point sum of `1 / (k × 2^k)`, which is ln 2. -/
def ln2Sum (p : Nat) : Nat → Nat → Nat
  | 0, _ => 0
  | n + 1, k => 2 ^ p / (k * 2 ^ k) + ln2Sum p n (k + 1)
def fxLn2 (p : Nat) : Nat := ln2Sum p (p + 2) 1

/-- The alternating sum of `term / (2k+1)`, the terms shrinking by `d`: an arctangent of a reciprocal. -/
def atanSum (d : Nat) : Nat → Int → Nat → Int
  | 0, _, _ => 0
  | n + 1, t, k => t / ((2 * k + 1 : Nat) : Int) - atanSum d n (t / (d : Int)) (k + 1)
/-- π by Machin's formula. -/
def fxPi (p : Nat) : Nat :=
  (16 * atanSum 25 (p / 4 + 4) ((2 ^ p / 5 : Nat) : Int) 0 - 4 * atanSum (239 * 239) (p / 15 + 4) ((2 ^ p / 239 : Nat) : Int) 0).toNat

/-- The exponential series from the term of index `k`. -/
def expSum (p y : Nat) : Nat → Nat → Nat → Nat
  | 0, _, _ => 0
  | n + 1, t, k => t + expSum p y n (t * y / 2 ^ p / (k + 1)) (k + 1)
/-- exp of a fixed-point number below 1. -/
def fxExp (p y : Nat) : Nat := expSum p y (p / 2 + 8) (2 ^ p) 0

/-- The sum of `z^(2k+1) / (2k+1)`, `zz` being the square of `z`. -/
def atanhSum (p zz : Nat) : Nat → Nat → Nat → Nat
  | 0, _, _ => 0
  | n + 1, t, k => t / (2 * k + 1) + atanhSum p zz n (t * zz / 2 ^ p) (k + 1)

/-- The sine series: terms alternate and shrink by `y² / ((k+1)(k+2))`. -/
def sinSum (p yy : Nat) : Nat → Nat → Nat → Int
  | 0, _, _ => 0
  | n + 1, t, k => (t : Int) - sinSum p yy n (t * yy / 2 ^ p / ((k + 1) * (k + 2))) (k + 2)

/-- The error bound of an enclosure, in units of the last place: each partial result is off by a few. -/
def fxErr (p : Nat) : Nat := 16 * p + 4096

/-- A dyadic rational `m × 2^e` as a fixed-point number, rounded down. -/
def fxOf (p m : Nat) (e : Int) : Nat :=
  let k := e + p
  if 0 ≤ k then m * 2 ^ k.toNat else m / 2 ^ (-k).toNat

/-- An enclosure: the sign, the two ends as integers, and the exponent. -/
abbrev Encl := Bool × Nat × Nat × Int

/-- Rounds an enclosure, if both ends agree. -/
def Fmt.decideEncl (f : Fmt) (rm : Nat) (v : Encl) : Option (Nat × Nat) :=
  let (neg, lo, hi, e) := v
  let a := f.round false rm neg lo e true
  if lo ≠ 0 ∧ a = f.round false rm neg (hi - 1) e true then some a else none

/-- Refines an enclosure, doubling its precision, until it decides. -/
def Fmt.ziv (f : Fmt) (rm : Nat) (g : Nat → Encl) : Nat → Nat → Nat × Nat
  | 0, p => let (neg, lo, _, e) := g p; f.round false rm neg lo e true
  | n + 1, p =>
    match f.decideEncl rm (g p) with
    | some r => r
    | none => f.ziv rm g n (2 * p)

/-- An enclosure about a positive approximation. -/
def around (neg : Bool) (p v : Nat) (e : Int) : Encl := (neg, v - fxErr p, v + fxErr p + 1, e)

/-- An enclosure about a signed approximation: undecided while it may be zero. -/
def aroundInt (p : Nat) (v : Int) : Encl :=
  if v.natAbs ≤ fxErr p then (false, 0, 1, -(p : Int)) else around (decide (v < 0)) p v.natAbs (-(p : Int))

/-- 2 to a power that is not an integer: `n` is its floor and `m × 2^e` the rest. -/
def exp2Encl (n : Int) (m : Nat) (e : Int) (p : Nat) : Encl :=
  around false p (fxExp p (fxOf p m e * fxLn2 p / 2 ^ p)) (n - p)

/-- The base-2 logarithm of `m × 2^e`. -/
def log2Encl (m : Nat) (e : Int) (p : Nat) : Encl :=
  let l := Nat.log2 m
  let t := fxOf p m (-(l : Int))
  let z := (t - 2 ^ p) * 2 ^ p / (t + 2 ^ p)
  let ln := 2 * atanhSum p (z * z / 2 ^ p) (p / 3 + 8) z 0
  aroundInt p ((e + l) * ((2 ^ p : Nat) : Int) + ((ln * 2 ^ p / fxLn2 p : Nat) : Int))

/-- sin(π r) for `r = a / 2^b` in (0, 1). -/
def sinEncl (neg : Bool) (a b p : Nat) : Encl :=
  let r := if 2 * a > 2 ^ b then 2 ^ b - a else a
  let y := fxPi p * r / 2 ^ b
  around neg p (sinSum p (y * y / 2 ^ p) (p / 4 + 16) y 1).toNat (-(p : Int))

/-- tanh of `m × 2^e`, below 64. -/
def tanhEncl (neg : Bool) (m : Nat) (e : Int) (p : Nat) : Encl :=
  let y := 2 * fxOf p m e
  let n := y / fxLn2 p
  let x := 2 ^ n * fxExp p (y % fxLn2 p)
  around neg p ((x - 2 ^ p) * 2 ^ p / (x + 2 ^ p)) (-(p : Int))

/-- The nine functions of R174, by their operation code. -/
def Fmt.exp2V (f : Fmt) (rm : Nat) : FVal → Nat × Nat
  | .nan s => (f.nanCode, if s then fNV else 0)
  | .inf neg => (if neg then f.zeroCode false else f.infCode false, 0)
  | .fin neg m e =>
    let p := max 0 (-e)
    let v : Int := scaled neg m e (-p)
    let n := v / ((2 ^ p.toNat : Nat) : Int)
    let r := (v % ((2 ^ p.toNat : Nat) : Int)).toNat
    if n < -4000 then f.round false rm false 1 (-4000) true
    else if 4000 < n then f.round false rm false 1 4000 true
    else if r = 0 then f.round false rm false 1 n false
    else f.ziv rm (exp2Encl n r (-p)) 7 64

def Fmt.log2V (f : Fmt) (rm : Nat) : FVal → Nat × Nat
  | .nan s => (f.nanCode, if s then fNV else 0)
  | .inf neg => if neg then (f.nanCode, fNV) else (f.infCode false, 0)
  | .fin neg m e =>
    if m = 0 then (f.infCode true, fDZ)
    else if neg then (f.nanCode, fNV)
    else
      let l := Nat.log2 m
      let v := e + l
      if m = 2 ^ l then f.round false rm (decide (v < 0)) v.natAbs 0 false else f.ziv rm (log2Encl m e) 7 64

/-- The sine of π times a finite value moved on by `half / 2`; `zneg` is the sign of an exact zero. -/
def Fmt.sinPi (f : Fmt) (rm : Nat) (neg : Bool) (m : Nat) (e : Int) (half : Nat) (zneg : Bool) : Nat × Nat :=
  let b := (max 1 (-e)).toNat
  let v : Int := scaled neg m e (-(b : Int)) + ((half * 2 ^ (b - 1) : Nat) : Int)
  let r := (v % ((2 ^ (b + 1) : Nat) : Int)).toNat
  let a := r % 2 ^ b
  let minus := decide (2 ^ b ≤ r)
  if a = 0 then (f.zeroCode zneg, 0)
  else if 2 * a = 2 ^ b then f.round false rm minus 1 0 false
  else f.ziv rm (sinEncl minus a b) 7 64

def Fmt.sinV (f : Fmt) (rm : Nat) : FVal → Nat × Nat
  | .nan s => (f.nanCode, if s then fNV else 0)
  | .inf _ => (f.nanCode, fNV)
  | .fin neg m e => f.sinPi rm neg m e 0 neg

def Fmt.cosV (f : Fmt) (rm : Nat) : FVal → Nat × Nat
  | .nan s => (f.nanCode, if s then fNV else 0)
  | .inf _ => (f.nanCode, fNV)
  | .fin neg m e => f.sinPi rm neg m e 1 false

def Fmt.tanhV (f : Fmt) (rm : Nat) : FVal → Nat × Nat
  | .nan s => (f.nanCode, if s then fNV else 0)
  | .inf neg => f.round false rm neg 1 0 false
  | .fin neg m e =>
    if m = 0 then (f.zeroCode neg, 0)
    else if 6 ≤ topExp m e then f.round false rm neg (2 ^ 64 - 1) (-64) true
    else f.ziv rm (tanhEncl neg m e) 7 64

/-- Reciprocal square root, correctly rounded. -/
def Fmt.rsqV (f : Fmt) (rm : Nat) : FVal → Nat × Nat
  | .nan s => (f.nanCode, if s then fNV else 0)
  | .inf neg => if neg then (f.nanCode, fNV) else (f.zeroCode false, 0)
  | .fin neg m e =>
    if m = 0 then (f.infCode neg, fDZ)
    else if neg then (f.nanCode, fNV)
    else
      let m1 := if e % 2 = 0 then m else 2 * m
      let k := 2 * f.mw + 8 + Nat.log2 m1
      let q := 2 ^ (2 * k) / m1
      let r := isqrt q
      f.round false rm false r (-(e / 2) - k) (r * r * m1 != 2 ^ (2 * k))

/-- A special function by its number (R174, R240): 0 FDIV, 1 FSQRT, 2 FRCP, 3 FRSQ, 4 FEXP2, 5 FLOG2, 6 FSIN, 7 FCOS,
8 FTANH. -/
def Fmt.sfu (f : Fmt) (fn rm : Nat) (a b : Nat) : Nat × Nat :=
  match fn with
  | 0 => f.div rm a b
  | 1 => f.sqrt rm a
  | 2 => f.divV rm (.fin false 1 0) (f.value a)
  | 3 => f.rsqV rm (f.value a)
  | 4 => f.exp2V rm (f.value a)
  | 5 => f.log2V rm (f.value a)
  | 6 => f.sinV rm (f.value a)
  | 7 => f.cosV rm (f.value a)
  | _ => f.tanhV rm (f.value a)

end Sys2Proof.Machine
end

