-- ==== Sys2Proof/Machine/Float.lean ====
section
/-! DEFINITION. Conversions and float arithmetic: majors 0x07 to 0x0A (R165-R176). -/

namespace Sys2Proof.Machine

/-- CVT (R167). -/
def execCvt (h : Hdr) (ty : Ty) (d a : Opnd) (rm : BitVec 2) (src : Ty) (s : State) : Res :=
  floatOp h [a] d (some 2) (fun v => let r := convert ty src rm.toNat (v0 v).toNat; (tyExtend ty r.1, r.2.1)) s

/-- CVTN's two directions (R168). -/
def cvtn (ty : Ty) (rm : Nat) (dir : Bool) (a d : Word) : Word × Nat :=
  if dir then
    let r := valueTo ty rm ((narrowFmt d).value (a.toNat % 2 ^ narrowBits d))
    (tyExtend ty r.1, r.2.1)
  else
    let r := (narrowFmt d).toNarrow (tyValue ty a.toNat)
    (.ofNat 64 r.1, r.2.1)

/-- CVTN (R168): a descriptor that fails traps at step 8. -/
def execCvtn (h : Hdr) (ty : Ty) (d a b : Opnd) (rm : BitVec 2) (dir : Bool) (s : State) : Res :=
  .next (s.issue .any h 8 [a, b] [(d, some 2)] fun vs s =>
    if narrowOk (v1 vs) = false then .operand s
    else if s.me.ffPending then .wait s
    else Body.float s.cur s.actor (cvtn ty rm.toNat dir (v0 vs) (v1 vs)) s)

/-- The latency of float arithmetic (R145). -/
def farithLat (ty : Ty) : Option Nat := some (if ty = .f64 then 3 else 2)

/-- A float result with its flags. -/
def fres (ty : Ty) (r : Nat × Nat) : Word × Nat := (zext (tyBits ty) r.1, r.2)

/-- The low w bits of a source. -/
def fsrc (ty : Ty) (a : Word) : Nat := a.toNat % 2 ^ tyBits ty

def execFadd (h : Hdr) (ty : Ty) (d a b : Opnd) (rm : BitVec 2) (s : State) : Res :=
  floatOp h [a, b] d (farithLat ty) (fun v => fres ty ((fmtOf ty).add rm.toNat (fsrc ty (v0 v)) (fsrc ty (v1 v)))) s
def execFsub (h : Hdr) (ty : Ty) (d a b : Opnd) (rm : BitVec 2) (s : State) : Res :=
  floatOp h [a, b] d (farithLat ty) (fun v => fres ty ((fmtOf ty).sub rm.toNat (fsrc ty (v0 v)) (fsrc ty (v1 v)))) s
def execFmul (h : Hdr) (ty : Ty) (d a b : Opnd) (rm : BitVec 2) (s : State) : Res :=
  floatOp h [a, b] d (farithLat ty) (fun v => fres ty ((fmtOf ty).mul rm.toNat (fsrc ty (v0 v)) (fsrc ty (v1 v)))) s
def execFma (h : Hdr) (ty : Ty) (d a b c : Opnd) (rm : BitVec 2) (s : State) : Res :=
  floatOp h [a, b, c] d (farithLat ty)
    (fun v => fres ty ((fmtOf ty).fma rm.toNat (fsrc ty (v0 v)) (fsrc ty (v1 v)) (fsrc ty (v2 v)))) s
def execFmin (h : Hdr) (ty : Ty) (d a b : Opnd) (s : State) : Res :=
  floatOp h [a, b] d (some 1) (fun v => fres ty ((fmtOf ty).minMax false (fsrc ty (v0 v)) (fsrc ty (v1 v)))) s
def execFmax (h : Hdr) (ty : Ty) (d a b : Opnd) (s : State) : Res :=
  floatOp h [a, b] d (some 1) (fun v => fres ty ((fmtOf ty).minMax true (fsrc ty (v0 v)) (fsrc ty (v1 v)))) s

/-- FSGN: the sign bit as SOP selects (R171). -/
def fsgn (ty : Ty) (sop : Nat) (a b : Word) : Word :=
  let w := tyBits ty
  let sa := a.getLsbD (w - 1)
  let sb := b.getLsbD (w - 1)
  let sg := match sop with
    | 0 => sb
    | 1 => !sb
    | _ => sa != sb
  .ofNat 64 (a.toNat % 2 ^ (w - 1) + b2n sg * 2 ^ (w - 1))
def execFsgn (h : Hdr) (ty : Ty) (d a b : Opnd) (sop : BitVec 2) (s : State) : Res :=
  compute h 8 [a, b] d 1 (fun v => fsgn ty sop.toNat (v0 v) (v1 v)) s

/-- The relation of FCMP, and its NV (R172). -/
def fcmp (f : Fmt) (rel : Nat) (q : Bool) (a b : Nat) : Bool × Nat :=
  let x := f.value a
  let y := f.value b
  let un := x.isNan || y.isNan
  let sig := x.snan || y.snan
  let r := match rel with
    | 0 => x.eq y
    | 1 => !x.eq y
    | 2 => !un && x.lt y
    | 3 => !un && !y.lt x
    | 4 => !un && y.lt x
    | 5 => !un && !x.lt y
    | 6 => un
    | _ => !un
  (r, if sig || (un && !q && decide (2 ≤ rel) && decide (rel ≤ 5)) then fNV else 0)
def execFcmp (h : Hdr) (ty : Ty) (d a b : Opnd) (rel : BitVec 3) (q : Bool) (s : State) : Res :=
  floatOp h [a, b] d (some 1)
    (fun v => let r := fcmp (fmtOf ty) rel.toNat q (fsrc ty (v0 v)) (fsrc ty (v1 v)); (.ofNat 64 (b2n r.1), r.2)) s

/-- The class of a code, as a bit number (R173). -/
def fclass (f : Fmt) (a : Nat) : Nat :=
  match f.value a with
  | .nan s => if s then 8 else 9
  | .inf n => if n then 0 else 7
  | .fin n m _ =>
    if m = 0 then if n then 3 else 4
    else if m < 2 ^ f.mw then if n then 2 else 5
    else if n then 1 else 6
def execFclass (h : Hdr) (ty : Ty) (d a : Opnd) (s : State) : Res :=
  compute h 8 [a] d 1 (fun v => .ofNat 64 (2 ^ fclass (fmtOf ty) (fsrc ty (v0 v)))) s

/-- An FSFU form: its result is of variable latency (R174, R175). -/
def fsfu (h : Hdr) (ty : Ty) (fn : Nat) (d : Opnd) (srcs : List Opnd) (rm : BitVec 2) (s : State) : Res :=
  .next (s.issue .any h 8 srcs [(d, none)] fun v s =>
    sfuBody (sfuTime ty fn) (fres ty ((fmtOf ty).sfu fn rm.toNat (fsrc ty (v0 v)) (fsrc ty (v1 v)))) s)

def execFdiv (h : Hdr) (ty : Ty) (d a b : Opnd) (rm : BitVec 2) (s : State) : Res := fsfu h ty 0 d [a, b] rm s
def execFsqrt (h : Hdr) (ty : Ty) (d a : Opnd) (rm : BitVec 2) (s : State) : Res := fsfu h ty 1 d [a] rm s
def execFrcp (h : Hdr) (ty : Ty) (d a : Opnd) (rm : BitVec 2) (s : State) : Res := fsfu h ty 2 d [a] rm s
def execFrsq (h : Hdr) (ty : Ty) (d a : Opnd) (rm : BitVec 2) (s : State) : Res := fsfu h ty 3 d [a] rm s
def execFexp2 (h : Hdr) (ty : Ty) (d a : Opnd) (rm : BitVec 2) (s : State) : Res := fsfu h ty 4 d [a] rm s
def execFlog2 (h : Hdr) (ty : Ty) (d a : Opnd) (rm : BitVec 2) (s : State) : Res := fsfu h ty 5 d [a] rm s
def execFsin (h : Hdr) (ty : Ty) (d a : Opnd) (rm : BitVec 2) (s : State) : Res := fsfu h ty 6 d [a] rm s
def execFcos (h : Hdr) (ty : Ty) (d a : Opnd) (rm : BitVec 2) (s : State) : Res := fsfu h ty 7 d [a] rm s
def execFtanh (h : Hdr) (ty : Ty) (d a : Opnd) (rm : BitVec 2) (s : State) : Res := fsfu h ty 8 d [a] rm s

end Sys2Proof.Machine
end

