-- ==== Sys2Proof/Machine/Sync.lean ====
section
/-! DEFINITION. Sync objects (R44): signals with their wait lists (R200-R203) and join cells (R33, R212-R214). -/

namespace Sys2Proof.Machine

/-- A sync object's fields (R44). -/
structure SyncObj where
  value : Word
  link  : Word
  home  : Nat
  kind  : Nat
  cont  : Bool
  full  : Bool
  summ  : Summary
  deriving DecidableEq, Repr

/-- Reads a sync object at its home. -/
def State.obj (s : State) (a : Nat) : SyncObj where
  value := .ofNat 64 (s.loadN a 8)
  link := .ofNat 64 (s.loadN (a + 8) 8)
  home := s.loadN (a + 16) 1
  kind := s.loadN (a + 17) 1 % 4
  cont := s.loadN (a + 18) 1 % 2 == 1
  full := s.loadN (a + 18) 1 / 2 % 2 == 1
  summ := .ofNat 1024 (s.loadN (a + 128) 128)

/-- Writes a sync object at its home, as one indivisible write; reserved bits are zero. -/
def State.setObj (s : State) (p : Nat) (hm : Bool) (a : Nat) (o : SyncObj) (writer : Word) : State :=
  let low := toBytes 8 o.value.toNat ++ toBytes 8 o.link.toNat ++ [.ofNat 8 o.home, .ofNat 8 o.kind,
    .ofNat 8 (b2n o.cont + 2 * b2n o.full)]
  let s1 := (s.setBytes a low).setBytes (a + 128) (toBytes 128 o.summ.toNat)
  if a < 2 ^ 47 then s1.homeWatch ((s.part p).homeQuad (hm && decide (a < 2 ^ 46)) a) a 256 writer else s1

/-- The summary gains a delivered one, and FULL follows (R112). -/
def SyncObj.unite (o : SyncObj) (f : Summary) : SyncObj :=
  let g := o.summ ||| f
  { o with summ := g, full := decide (512 < summaryCount g) }

/-- A signal's condition: REL 0 ge, 1 lt, 2 eq, 3 ne, on signed values (R200). -/
def relHolds (rel : Nat) (v t : Word) : Bool :=
  match rel with
  | 0 => decide (t.toInt ≤ v.toInt)
  | 1 => decide (v.toInt < t.toInt)
  | 2 => v == t
  | _ => v != t

/-- The name of a waiter on a wait list: a strand number, of a heartwood image for a swapped-out partition; or 2^20 and
a hardware slot. -/
def waiterSlot (i : Nat) : Nat := 2 ^ 20 + i

/-- A waiter's condition holds on a value. -/
def State.waiterHolds (s : State) (w : Nat) (v : Word) : Bool :=
  if w < 2 ^ 20 then
    match (s.ctx (w / 16) (w % 16)).wake with
    | .signal _ _ rel t => relHolds rel.toNat v t
    | _ => false
  else match (s.dev.hslots.find (w - 2 ^ 20)).bind (·.wcond) with
    | some (_, _, rel, t) => relHolds rel v t
    | none => false

/-- A waiter is woken with a summary: a strand by a wake event, a slot by going past its WAIT (R202, R372). -/
def State.wakeWaiter (s : State) (w : Nat) (f : Summary) : State :=
  if w < 2 ^ 20 then s.planWake (w / 16) (w % 16) 0 (some f)
  else match s.dev.hslots.find (w - 2 ^ 20) with
    | none => s
    | some h =>
      let h1 : HSlot := { h with wcond := none, woken := true, summ := h.summ ||| f }
      (s.onDev fun d => { d with hslots := d.hslots.put (w - 2 ^ 20) h1 }).plan (.waitPacket (w - 2 ^ 20))

/-- The waiters of an object, in order. -/
def State.waitersOf (s : State) (a : Nat) : List Nat := (s.waits.filter (·.1 == a)).map Prod.snd

/-- CONT and LINK of a signal follow its wait list (R44). -/
def State.relist (s : State) (p : Nat) (hm : Bool) (a : Nat) (writer : Word) : State :=
  let o := s.obj a
  if o.kind ≠ 1 then s else
  let any := !(s.waitersOf a).isEmpty
  let link : Word := if any then Config.linkCode a 0 ||| 1 else 0
  if o.cont = any ∧ o.link = link then s else s.setObj p hm a { o with cont := any, link := link } writer

/-- Takes a waiter off its list (R202, R351, R352); `hm` is the home mode of the object's page. -/
def State.unwait (s : State) (p : Nat) (hm : Bool) (w : Nat) : State :=
  match s.waits.find? (·.2 == w) with
  | none => s
  | some (a, _) => ({ s with waits := s.waits.filter (·.2 != w) }).relist p hm a 0

/-- The lower median of a list of times. -/
def lowMedian (ts : List Nat) : Nat :=
  let k := (ts.length - 1) / 2
  (ts.find? fun t => decide ((ts.filter (· < t)).length ≤ k) && decide (k < (ts.filter (· ≤ t)).length)).getD 0

/-- The pacing signal's home address, as the paced partition's address space 0 maps PACESIG; none while pacing is off
(R399). -/
def State.paceKey (s : State) : Option Nat :=
  if !bit s.dev.pacectl 31 then none
  else match s.walkBoth (fld s.dev.pacectl 28 2) 0 s.dev.pacesig.toNat with
    | .error _ => none
    | .ok t => some (s.mpaKey (t.mpa + s.dev.pacesig.toNat % t.size))

/-- A SIGADD has been performed at a signal: at the pacing signal of which this device is the home it is an arrival. With
NM1 + 1 of them the collective is complete, and its home device gives this device its lead, of the first of its arrivals
(R399; log entry 121). -/
def State.arrive (s : State) (a : Nat) : State :=
  if s.paceKey ≠ some a ∨ keyDev s.ownDev a ≠ s.ownDev then s
  else
    let ts := s.dev.arrivals ++ [(s.ownDev, s.mesh)]
    if ts.length ≤ fld s.dev.pacectl 24 4 then s.onDev fun d => { d with arrivals := ts }
    else
      let m := lowMedian (ts.map Prod.snd)
      let own := ((ts.find? (·.1 == s.ownDev)).map Prod.snd).getD 0
      (s.onDev fun d => { d with arrivals := [], lastColl := some s.mesh }).plan
        (.collectiveComplete ((m : Int) - own) (max 1 (s.mesh - s.dev.lastColl.getD s.mesh)))

/-- An update of a signal at its home: `set` for SIGSET, else SIGADD; `init` creates it. None when it is rejected (R201). -/
def State.signalAt (s : State) (p core : Nat) (hm : Bool) (a : Nat) (set init : Bool) (v : Word) (f : Summary)
    (writer : Word) : Option State :=
  let o := s.obj a
  let o1 := if init then { o with kind := 1, home := core, summ := 0, full := false } else o
  if o1.kind ≠ 1 then none else
  let o2 := { o1 with value := if set then v else o1.value + v }.unite f
  let s1 := s.setObj p hm a o2 writer
  let woken := (s1.waitersOf a).filter fun w => s1.waiterHolds w o2.value
  let s2 := { s1 with waits := s1.waits.filter fun e => !(e.1 == a && woken.contains e.2) }
  let s3 := (woken.foldl (init := s2) fun t w => t.wakeWaiter w o2.summ).relist p hm a writer
  some (if set then s3 else s3.arrive a)

/-- The link of a join cell that a parked strand waits on: a non-zero record of the context, odd so that no frame
address equals it (R44). -/
def parkLink (c x : Nat) : Word := (Config.linkCode (sidOf c x) 1 <<< 13) ||| .ofNat 64 (sidOf c x * 2 + 1)

/-- The strand whose record a link is, if it is one. -/
def linkStrand (l : Word) : Option Nat := if bit l 0 then some (fld l 1 12) else none

/-- A place checked as a sync object's: tag 0x0 or 0xE, a multiple of 256, writable (R200). A failure is the trap of R186
or of R88, for the forms of R207 too (log entry 131). -/
def State.objPlace (s : State) (c x : Nat) (a : Word) : State × Except TrapE Place :=
  if a.toNat % 256 ≠ 0 then (s, .error (kAlign, 0, a))
  else if fld a 60 4 ≠ 0 ∧ fld a 60 4 ≠ 0xE then (s, .error (transFault 0 1 0 1 a))
  else s.place c x a 256 256 1 1

/-- The sectors of a sync object. -/
def objSecs (key : Nat) : List Nat := (List.range 16).map (key / 16 + ·)

/-- Another device holds the memory of a place. -/
def State.isForeign (s : State) (p : Place) : Bool := keyDev s.ownDev p.key != s.ownDev

end Sys2Proof.Machine
end

