-- ==== Sys2Proof/Machine/Queue.lean ====
section
/-! DEFINITION. The hardware queues of the base dies (R100, R101, R219, R220, R380) and the mailboxes (R195-R197). -/

namespace Sys2Proof.Machine

/-- The queue a handle names. -/
def handleQ (h : Word) : Nat := h.toNat % 2 ^ 14

/-- A handle names a queue defined for a partition (R101, R380). -/
def State.queueOk (s : State) (p : Nat) (h : Word) : Bool :=
  let q := s.hwq (handleQ h)
  decide (h.toNat < 2 ^ 14) && q.v && q.pmask.getLsbD p

/-- The queue has no room (R380). -/
def HwQ.isFull (q : HwQ) : Bool := decide (2 ^ q.log2n ≤ q.count + q.rsvd)

/-- The slot of the ring that a counter names. -/
def HwQ.slotAt (q : HwQ) (n : BitVec 32) : Nat := q.rbase.toNat + 256 * (n.toNat % 2 ^ q.log2n)

/-- Pushes an entry's 256 bytes, which a home watchpoint of the ring's stack tests (R358); a waiting pop request is then
assigned one (R101, R220). -/
def State.qPushBytes (s : State) (q : Nat) (bs : List Byte) (lin : Nat) (writer : Word) : State :=
  let d := s.hwq q
  let a := d.slotAt d.tail
  let s1 := ((s.setBytes a (padTo 256 bs)).homeWatch (a / 2 ^ 36 % 4) a 256 writer).onHwq q fun d =>
    { d with count := d.count + 1, tail := d.tail + 1, lin := d.lin ++ [lin] }
  if d.pops.isEmpty then s1 else s1.plan (.queuePopAssign q)

/-- A value entry (R380). -/
def valueEntry (m : Msg) : List Byte :=
  toBytes 8 m.payload.toNat ++ toBytes 8 (b2n m.summ.isSome) ++ List.replicate 112 0#8 ++
  toBytes 128 (m.summ.getD 0).toNat

/-- A spawn record's entry (R380). -/
def childEntry (r : Child) : List Byte :=
  toBytes 8 r.pc.toNat ++ toBytes 8 r.ttype.toNat ++ toBytes 8 r.g1.toNat ++ toBytes 8 r.g2.toNat ++
  toBytes 8 r.g3.toNat ++ toBytes 8 r.g4.toNat ++ toBytes 8 r.jc.toNat ++ List.replicate 72 0#8 ++
  toBytes 128 r.summ.toNat

/-- Pushes a value. -/
def State.qPush (s : State) (q : Nat) (m : Msg) (writer : Word) : State := s.qPushBytes q (valueEntry m) 0 writer

/-- The oldest value of a queue. -/
def State.qFront (s : State) (q : Nat) : Msg :=
  let d := s.hwq q
  let a := d.slotAt d.head
  ⟨.ofNat 64 (s.loadN a 8), if s.loadN (a + 8) 1 % 2 = 1 then some (.ofNat 1024 (s.loadN (a + 128) 128)) else none⟩

/-- The oldest spawn record of a queue. -/
def State.qChild (s : State) (q : Nat) : Child :=
  let d := s.hwq q
  let a := d.slotAt d.head
  let w := fun i => (.ofNat 64 (s.loadN (a + 8 * i) 8) : Word)
  { pc := w 0, ttype := (w 1).setWidth 6, g1 := w 2, g2 := w 3, g3 := w 4, g4 := w 5, jc := w 6
    summ := .ofNat 1024 (s.loadN (a + 128) 128), launch := d.lin.headD 0 }

/-- Removes the oldest entry. -/
def State.qDrop (s : State) (q : Nat) : State :=
  s.onHwq q fun d => { d with count := d.count - 1, head := d.head + 1, lin := d.lin.drop 1 }

/-- A value can be popped at once: an entry is held and no earlier request waits (R220). -/
def HwQ.canPop (q : HwQ) : Bool := decide (0 < q.count) && q.pops.isEmpty

/-- A waiting pop request is assigned the oldest entry (R220): QUEUE_POP_ASSIGN. -/
def State.assignPop (s : State) (q : Nat) : State :=
  let d := s.hwq q
  match d.pops with
  | [] => s
  | (c, x) :: r =>
    if d.count = 0 then s
    else
      let m := s.qFront q
      ((s.onHwq q fun d => { d with pops := r }).qDrop q).planWake c x m.payload m.summ

/-- Withdraws a context's pop request (R220, R351). -/
def State.unpop (s : State) (c x : Nat) : State :=
  match (s.ctx c x).wake with
  | .qpop q => s.onHwq q fun d => { d with pops := d.pops.filter (· != (c, x)) }
  | _ => s

/-! ### Mailboxes -/

/-- The mailbox of a priority. -/
def Core.mail (k : Core) (hi : Bool) : List Msg := if hi then k.mail1 else k.mail0

/-- The mailbox of a priority replaced. -/
def Core.setMail (k : Core) (hi : Bool) (l : List Msg) : Core := if hi then { k with mail1 := l } else { k with mail0 := l }

/-- The strand parked earliest on a priority (R197). -/
def Core.receiver (k : Core) (hi : Bool) : Option Nat :=
  let ok := fun x => decide ((k.ctx x).st = .parked) &&
    (match (k.ctx x).wake with | .mail none => true | .mail (some b) => b == hi | _ => false)
  (List.range 16).foldl (init := none) fun a x =>
    if ok x then match a with
      | none => some x
      | some y => if (k.ctx x).parkSeq < (k.ctx y).parkSeq then some x else a
    else a

/-- The spill ring of a priority (R363). -/
def Core.spill (k : Core) (hi : Bool) : List Msg := if hi then k.spill1 else k.spill0
def Core.setSpill (k : Core) (hi : Bool) (l : List Msg) : Core := if hi then { k with spill1 := l } else { k with spill0 := l }

/-- The place in a spill ring of its oldest entry. -/
def Core.ring (k : Core) (hi : Bool) : Nat := if hi then k.ring1 else k.ring0
def Core.setRing (k : Core) (hi : Bool) (n : Nat) : Core := if hi then { k with ring1 := n % 1024 } else { k with ring0 := n % 1024 }

/-- Spilled entries return to a mailbox in ring order as room appears (R363). -/
def Core.refill (k : Core) (hi : Bool) : Core :=
  let n := min (64 - (k.mail hi).length) (k.spill hi).length
  ((k.setMail hi (k.mail hi ++ (k.spill hi).take n)).setSpill hi ((k.spill hi).drop n)).setRing hi (k.ring hi + n)

/-- Where a core's part of its partition's spill area begins (R363). -/
def State.spillBase (s : State) (p c : Nat) : Nat :=
  (s.part p).spillbase.toNat + 2 ^ 21 * (s.coresOf p).findIdx (· == c % 256)

/-- The 144 bytes of a spilled entry: payload, EF and summary (R363). -/
def spillEntry (m : Msg) : List Byte :=
  toBytes 8 m.payload.toNat ++ toBytes 8 (b2n m.summ.isSome) ++ toBytes 128 (m.summ.getD 0).toNat

/-- Where entry `n` of a spill ring lies. -/
def State.ringSlot (s : State) (c : Nat) (hi : Bool) (n : Nat) : Nat :=
  s.spillBase (s.partOf c) c + (if hi then 0x30000 else 0x54000) + 144 * (n % 1024)

/-- A message is appended to a spill ring (R363), by a write at home whose writer R358 gives no name for: context 0 of the
core (log entry 115). -/
def State.appendSpill (s : State) (c : Nat) (hi : Bool) (m : Msg) : State :=
  let k := s.core c
  (s.homeWrite (s.partOf c) false (s.ringSlot c hi (k.ring hi + (k.spill hi).length)) (spillEntry m) (byStrand (c % 256) 0)).onCore c
    fun k => k.setSpill hi (k.spill hi ++ [m])

/-- A message is given to the strand that waits for it, if one does (R197). -/
def State.offerMail (s : State) (c : Nat) (hi : Bool) : State :=
  let k := s.core c
  match k.receiver hi, k.mail hi with
  | some x, m :: ms =>
    ((s.onCore c fun k => (k.setMail hi ms).refill hi).onCtx c x fun v => { v with wake := .none }).planWake c x m.payload m.summ
  | _, _ => s

/-- A mailbox takes no entry itself: its partition is swapped out, or spilled entries remain (R363). -/
def Core.spills (k : Core) (c : Nat) (hi : Bool) : Bool := decide (256 ≤ c) || !(k.spill hi).isEmpty

/-- A mailbox priority, or its spill ring, has a free entry (R196, R363). -/
def State.mailRoom (s : State) (c : Nat) (hi : Bool) : Bool :=
  let k := s.core c
  if k.spills c hi then decide ((k.spill hi).length < 1024) else decide ((k.mail hi).length < 64)

/-- A message enters a mailbox, or its spill ring. -/
def State.deliver (s : State) (c : Nat) (hi : Bool) (m : Msg) : State :=
  let k := { s.core c with msgIn := (s.core c).msgIn + 1 }
  if k.spills c hi then (s.setCore c k).appendSpill c hi m
  else (s.setCore c (k.setMail hi (k.mail hi ++ [m]))).offerMail c hi

/-- Where a mailbox name leads: the device and core, or a translation fault's cause (R195). A name on another device is held
to its grant's V bit alone, not to QMASK or to a partition there (log entry 122). -/
def State.mailName (s : State) (p : Nat) (a : Word) : Except Nat (Nat × Nat) :=
  let dev := fld a 8 4
  let core := fld a 0 8
  if fld a 12 52 ≠ 0 ∨ 192 ≤ core then .error 1
  else if dev = s.ownDev then if s.inPart p core then .ok (dev, core) else .error 1
  else if !s.otherDev dev then .error 1
  else if bit ((s.part p).fgrant.get 0 dev) 31 then .ok (dev, core) else .error 8

end Sys2Proof.Machine
end

