-- ==== Sys2Proof/Machine/Dispatcher.lean ====
section
/-! DEFINITION. Frames (R43), freeing contexts (R24), the dispatchers (R40-R42), taking up continuations (R33, R34) and
join decrements (R214). -/

namespace Sys2Proof.Machine

/-! ### Engine operations outstanding (R129, R268) -/

/-- A live node that a context built on its core, with ACT 5. -/
def State.hasNode (s : State) (c x : Nat) : Bool :=
  (s.core c).nodes.any fun o => let w := s.loadN (scrKey (c % 256) o) 4; w % 8 == 5 && w / 256 % 16 == x

/-- Copies, scripts and live script nodes of a strand (R268). -/
def State.engOut (s : State) (c x : Nat) : Bool :=
  let k := s.core c
  ((s.core (c % 256)).copies.any fun e => e.2.ctx == x && e.2.part == s.partOf c && e.2.launch == 0) || (k.seqrs.any fun e => e.2.ctx == x) ||
  (k.fired.any fun f => f.ctx == x && f.act == 5) || s.hasNode c x

/-- A refinement solve of a strand that has not reached its exit. -/
def State.refineOut (s : State) (c x : Nat) : Bool :=
  let r := (s.slice (sliceOf c)).rf
  r.phase != 0 && r.core == c && r.ctx == x

/-- What QUIT, FORKR, AWAIT in yield mode and MIGRATE wait for (R129, R268). -/
def State.anyOut (s : State) (c x : Nat) : Bool := s.engOut c x || s.refineOut c x

/-- A strand holds a pixel lock (R297). -/
def State.holdsLock (s : State) (c x : Nat) : Bool :=
  s.cores.any fun e => e.2.locks.any fun l => l.holder == some (sidOf c x)

/-- An engine is claimed by a strand: its number, and the partition of its core's state (R244, R361). -/
def Matrix.ownedBy (v : Matrix) (s : State) (c x : Nat) : Bool :=
  v.owner == some (sidOf (c % 256) x) && v.lastPart == some (s.partOf c)

/-- A strand holds a matrix-engine claim (R244), which its partition may have left in the spill area (R361). -/
def State.claims (s : State) (c x : Nat) : Bool :=
  (s.core (c % 256)).mx.ownedBy s c x || s.mxSpill.any fun e => e.2.ownedBy s c x

/-! ### Freeing a context (R24) -/

/-- Releases every engine a strand has claimed, whatever operation of it runs there and whether its contents stand there or in
the spill area (R361); a gang of its dissolves (R244, R254). -/
def State.unclaim (s : State) (c x : Nat) : State :=
  let free := fun (v : Matrix) =>
    if v.ownedBy s c x then { v with owner := none, gang := 1, lastRel := x, run := none, seen := [] } else v
  { s with
    cores := s.cores.map fun e => if e.2.mx.ownedBy s c x then (e.1, { e.2 with mx := free e.2.mx }) else e
    mxSpill := s.mxSpill.map fun e => (e.1, free e.2) }

/-- Releases every pixel lock a strand holds, with its entry (R297). -/
def State.unlock (s : State) (c x : Nat) : State :=
  let mine := fun (l : Lock) => l.holder == some (sidOf c x)
  let hit := (s.cores.filter fun e => e.2.locks.any mine).map Prod.fst
  let cs := s.cores.map fun e =>
    if e.2.locks.any mine then (e.1, { e.2 with locks := e.2.locks.filter (!mine ·) }) else e
  hit.foldl (init := { s with cores := cs }) fun a o => a.plan (.pxlockGrant o)

/-- The cores that hold a lock of a strand. -/
def State.lockOwners (s : State) (c x : Nat) : List Nat :=
  (s.cores.filter fun e => e.2.locks.any fun l => l.holder == some (sidOf c x)).map Prod.fst

/-- Drops a context's wake event. -/
def State.unwake (s : State) (c x : Nat) : State :=
  { s with agenda := s.agenda.filter fun e => match e.ev with | .wake c' x' _ _ => !(c' == c && x' == x) | _ => true }

/-- A context is freed with its window, frame, queue bindings, claim, locks and special-function request; the dispatcher
looks again (R24, R41, R176). -/
def State.freeCtx (s : State) (c x : Nat) : State :=
  let g := (s.ctx c x).gated
  let s := s.onCore c fun k => { k.unask x with sfu := k.sfu.filter (·.ctx != x) }
  ((((s.unclaim c x).unlock c x).unwake c x).setCtx c x { Ctx.reset with gated := g }).plan (.placeHead c)

/-- A strand of deadline class 1 or more that frees its context while images are held posts a KIND 0x14 record (R356). -/
def State.deadlineDone (s : State) (c x dl : Nat) : State :=
  if 1 ≤ dl ∧ (s.core c).held ≠ [] then s.post c 0x14 x (.ofNat 64 x) 0 0 else s

/-- A launch changed. -/
def State.onLaunch (s : State) (n : Nat) (f : Launch → Launch) : State :=
  match s.dev.launches.find n with
  | none => s
  | some l => s.onDev fun d => { d with launches := d.launches.put n (f l) }

/-- A strand or continuation of a launch comes into being (R371). -/
def State.lineBorn (s : State) (n : Nat) : State := s.onLaunch n fun l => { l with live := l.live + 1 }

/-- A strand or continuation of a launch has ended; the last one completes it (R371). -/
def State.lineEnded (s : State) (n : Nat) : State :=
  let s1 := s.onLaunch n fun l => { l with live := l.live - 1 }
  match s1.dev.launches.find n with
  | some l => if l.live = 0 ∧ l.dealt then s1.plan (.launchComplete n) else s1
  | none => s1

/-- Strands of launches end where they stand; those of launch 0 count for none (R371). -/
def State.endLines (s : State) (ns : List Nat) : State := (ns.filter (· ≠ 0)).foldl (init := s) State.lineEnded

/-- A strand ends: its context is freed and its launch counts it out. -/
def State.endStrand (s : State) (c x : Nat) : State :=
  let k := s.ctx c x
  ((s.freeCtx c x).deadlineDone c x k.dl).lineEnded k.launch

/-! ### Frames (R43, R380) -/

/-- A partition-physical address as the hardware reaches a frame there: its location and whether its page is
quadrant-local; none when stage 2 fails or the memory is not device memory. -/
def State.frameKey (s : State) (p pa : Nat) : Option (Nat × Bool) :=
  match s.walk2 p pa with
  | .error _ => none
  | .ok l =>
    let m := l.base + pa % l.size
    if bit l.entry 53 ∧ m / 2 ^ 46 = 0 ∧ s.mpaCause p m = 0 then some (m, bit l.entry 56) else none

/-- The three 256-byte parts of a frame. -/
def State.frameKeys (s : State) (p pa : Nat) : Option (List (Nat × Bool)) :=
  if pa % 256 ≠ 0 ∨ 2 ^ 48 ≤ pa then none
  else match s.frameKey p pa, s.frameKey p (pa + 256), s.frameKey p (pa + 512) with
    | some a, some b, some c => some [a, b, c]
    | _, _, _ => none

/-- What a pop of the frame free list gives. -/
inductive FrameR where
  | absent
  | empty
  | bad (s : State)
  | got (s : State) (pa : Nat)

/-- Pops the partition's frame free list (R380). -/
def State.popFrame (s : State) (p : Nat) : FrameR :=
  let fq := (s.part p).frameq
  let q := fld fq 0 14
  if !bit fq 31 then .absent
  else if !(s.hwq q).canPop then .empty
  else
    let pa := (s.qFront q).payload.toNat
    let s1 := s.qDrop q
    if (s1.frameKeys p pa).isSome then .got s1 pa else .bad s1

/-- A frame returns to the free list (R380). -/
def State.pushFrame (s : State) (p pa : Nat) (writer : Word) : State :=
  let fq := (s.part p).frameq
  if bit fq 31 then s.qPush (fld fq 0 14) ⟨.ofNat 64 pa, none⟩ writer else s

/-- The bytes of a frame. -/
def State.readFrame (s : State) (p pa : Nat) : List Byte :=
  ((s.frameKeys p pa).getD []).flatMap fun k => s.bytes k.1 256

/-- Writes a frame's bytes at home, uncached. -/
def State.writeFrame (s : State) (p pa : Nat) (bs : List Byte) (writer : Word) : State :=
  match s.frameKeys p pa with
  | some [a, b, c] =>
    ((s.homeWrite p a.2 a.1 (bs.take 256) writer).homeWrite p b.2 b.1 ((bs.drop 256).take 256) writer).homeWrite p c.2 c.1
      ((bs.drop 512).take 256) writer
  | _ => s

/-- The 64 g registers of a context as a frame and an image hold them: zeros for g0 and beyond the window. -/
def State.gregs (s : State) (c x : Nat) : List Word :=
  let k := s.ctx c x
  (List.range 64).map fun i => if 0 < i ∧ i < k.winSize x then (s.core c).entry (k.winEntry x + i) else 0

/-- Words as bytes. -/
def wordBytes (ws : List Word) : List Byte := ws.flatMap fun w => toBytes 8 w.toNat

/-- A frame's 768 bytes for a context (R43). -/
def State.frameImage (s : State) (c x : Nat) (pc jc : Word) (kind home : Nat) : List Byte :=
  let k := s.ctx c x
  wordBytes (s.gregs c x ++ (List.range 8).map (k.h.get 0) ++ [k.w0, k.w1, pc, jc, k.ff]) ++
  [.ofNat 8 (k.c.toNat / 2 * 2), .ofNat 8 k.win.toNat, .ofNat 8 k.ttype.toNat, .ofNat 8 kind, .ofNat 8 home] ++
  List.replicate 19 0#8 ++ toBytes 128 k.summ.toNat

/-- The key of a continuation's record. -/
def contKey (p pa : Nat) : Nat := p * 2 ^ 48 + pa

/-- The bytes of a context's scratch frame. -/
def State.scratchOf (s : State) (c x : Nat) : List Byte :=
  let k := s.ctx c x
  s.bytes (scrKey c (1024 * k.fbase)) (1024 * k.fsize)

/-- Writes a context's continuation to a frame, as it is once every result in flight has landed (R61). -/
def State.saveCont (s : State) (c x pa : Nat) (pc jc : Word) (kind home : Nat) : State :=
  let s1 := s.landAll c x
  let p := s.partOf c
  let s2 := s.writeFrame p pa (s1.frameImage c x pc jc kind home) (byStrand c x)
  { s2 with conts := s2.conts.put (contKey p pa) ⟨c, (s1.ctx c x).launch, (s1.ctx c x).fbase, s1.scratchOf c x⟩ }

/-- A frame's fields. -/
def frameWord (bs : List Byte) (i : Nat) : Word := .ofNat 64 (ofBytes ((bs.drop (8 * i)).take 8))
def frameByte (bs : List Byte) (i : Nat) : Nat := (nth 0#8 bs i).toNat
def frameSumm (bs : List Byte) : Summary := .ofNat 1024 (ofBytes (bs.drop 0x280))
def frameType (bs : List Byte) : Nat := frameByte bs 0x26A % 64
def frameKind (bs : List Byte) : Nat := frameByte bs 0x26B % 4
def frameHome (bs : List Byte) : Nat := frameByte bs 0x26C

/-- Loads a frame's registers into a context whose window stands. -/
def State.loadFrame (s : State) (c x : Nat) (bs : List Byte) : State :=
  let k := s.ctx c x
  let s1 := s.onCore c fun k' => (List.range (k.winSize x)).foldl (init := k') fun a i =>
    if i = 0 then a else a.setEntry (k.winEntry x + i) (frameWord bs i)
  s1.onCtx c x fun k => { k with
    h := (List.range 8).foldl (fun a i => a.putD 0 i (frameWord bs (64 + i))) []
    w0 := frameWord bs 72
    w1 := frameWord bs 73
    wpend := []
    flight := []
    pc := frameWord bs 74
    jc := frameWord bs 75
    ff := frameWord bs 76
    c := .ofNat 8 (frameByte bs 0x268 / 2 * 2 + 1)
    summ := k.summ ||| frameSumm bs }

/-! ### The dispatcher (R40-R42) -/

/-- A task-type entry (R329). -/
def Part.ttOf (p : Part) (n : Nat) : Word := p.tt.get 0 n
def ttWin (e : Word) : Nat := fld e 0 2
def ttFrame (e : Word) : Nat := fld e 8 7

/-- The feed queues a core's FEEDQ names, with their numbers (R327). -/
def Core.feeds (k : Core) : List (Nat × Nat) :=
  (List.range 4).filterMap fun i => if bit k.feedq (16 * i + 15) then some (i, fld k.feedq (16 * i) 14) else none

/-- Takes a new head from the first source that holds an entry (R40). -/
def State.chooseHead (s : State) (c : Nat) : State :=
  let k := s.core c
  match k.head, k.direct with
  | some _, _ => s
  | none, e :: es =>
    let s1 := s.setCore c { k with head := some e, direct := es, asked := false }
    if k.directHeld.isEmpty then s1 else s1.plan (.directListAppend c)
  | none, [] =>
    match k.feeds.find? fun f => decide (0 < (s.hwq f.2).count) with
    | none => s
    | some (i, q) =>
      let r := s.qChild q
      (s.qDrop q).onCore c fun k => { k with head := some (.child r (i + 1)), asked := false }

/-- An entry joins a direct list that holds fewer than a limit (R209). -/
def State.appendDirect (s : State) (c : Nat) (e : Entry) (limit : Nat) : Option State :=
  if (s.core c).direct.length < limit then
    some ((s.onCore c fun k => { k with direct := k.direct ++ [e] }).plan (.placeHead c))
  else none

/-- A chunk or continuation joins a direct list, ahead of the others if it is a FORKR continuation; when the list is
full it is held at its source (R33, R209). -/
def State.handDirect (s : State) (c : Nat) (e : Entry) : State :=
  let k := s.core c
  if k.direct.length < 64 then
    let first := match e with | .cont _ _ _ f => f | _ => false
    (s.setCore c { k with direct := if first then e :: k.direct else k.direct ++ [e] }).plan (.placeHead c)
  else s.setCore c { k with directHeld := k.directHeld ++ [e] }

/-- The first held entry enters the direct list when there is room (R209): DIRECT_LIST_APPEND. -/
def State.admitDirect (s : State) (c : Nat) : State :=
  let k := s.core c
  match k.directHeld with
  | [] => s
  | e :: es => if k.direct.length < 64 then (s.setCore c { k with directHeld := es }).handDirect c e else s

/-- A child record is placed in a context (R24, R41). -/
def State.placeChild (s : State) (c x g u : Nat) (e : Word) (r : Child) : State :=
  let size := 16 * (ttWin e + 1)
  let s1 := s.onCore c fun k => (List.range size).foldl (init := k) fun a i =>
    let v := match i with | 1 => r.g1 | 2 => r.g2 | 3 => r.g3 | 4 => r.g4 | _ => 0
    a.setEntry (64 + 16 * g + i) v
  (s1.setCtx c x { Ctx.reset with
    st := .ready, pc := r.pc, jc := r.jc, ttype := r.ttype, as := fld e 20 4, chk := bit e 17, dl := fld e 18 2,
    win := .ofNat 2 (ttWin e), winBase := g, fbase := if ttFrame e = 0 then 0 else u, fsize := ttFrame e,
    summ := r.summ, launch := r.launch, gated := (s.ctx c x).gated }).invalidate c r.summ

/-- A continuation is placed in a context: registers from its frame, its scratch frame copied when it left another core,
and its frame returned to the free list (R34, R35, R380). Stall turns that were left when the strand left its context are
held in no frame or image and are dropped (R144; log entry 113). -/
def State.placeCont (s : State) (c x g u : Nat) (e : Word) (pa : Nat) (f : Summary) (launch : Nat) : State :=
  let p := s.partOf c
  let bs := s.readFrame p pa
  let s1 := s.setCtx c x { Ctx.reset with
    st := .ready, ttype := .ofNat 6 (frameType bs), as := fld e 20 4, chk := bit e 17, dl := fld e 18 2,
    win := .ofNat 2 (frameByte bs 0x269), winBase := g, fbase := if ttFrame e = 0 then 0 else u, fsize := ttFrame e,
    summ := f, launch := launch, gated := (s.ctx c x).gated }
  let s2 := s1.loadFrame c x bs
  let s3 := match s2.conts.find (contKey p pa) with
    | some k => if k.core = c then s2 else s2.setBytes (scrKey c (1024 * u)) (k.scratch.take (1024 * ttFrame e))
    | none => s2
  let s4 := { s3 with conts := s3.conts.del (contKey p pa) }
  (s4.pushFrame p pa (byStrand c x)).invalidate c f

/-- The victim a pre-emption request suggests: of the lowest deadline class below, the highest context (R356). -/
def State.victim (s : State) (c dl : Nat) : Nat :=
  let ok := fun x =>
    let k := s.ctx c x
    (k.st == .ready || k.st == .parked) && decide (k.dl < dl) && !s.anyOut c x && !s.claims c x && !s.holdsLock c x
  (List.range 16).foldl (init := 0) fun a x =>
    if 0 < x ∧ ok x then if a = 0 ∨ (s.ctx c x).dl ≤ (s.ctx c a).dl then x else a else a

/-- A head is refused with a record (R42). -/
def State.refuse (s : State) (c ttype src : Nat) (cont invalid : Bool) (pa launch : Nat) : State :=
  let info := ttype + 64 * src + 512 * b2n cont + 1024 * b2n invalid
  let s1 := (s.onCore c fun k => { k with head := none }).post c 0x10 0 (.ofNat 64 info) 0 (.ofNat 64 pa)
  (if cont then s1 else s1.lineEnded launch).plan (.placeHead c)

/-- A refusal record waits at the dispatcher for room in the trap queue (R340). -/
def Core.blocked (k : Core) : Bool := k.trapHeld.any fun r => recKind r == 0x10

/-- The scratch frame for a head: the lowest run of the frame area (R41), but for a continuation that resumes on the core it
left the units that it had there, so that fb does not change (R34, R56; log entry 105). -/
def State.frameFor (s : State) (c : Nat) (h : Entry) (n : Nat) : Option Nat :=
  let k := s.core c
  match (match h with | .child _ _ => none | .cont pa _ _ _ => s.conts.find (contKey (s.partOf c) pa)) with
  | none => k.findFrame n
  | some v =>
    if v.core ≠ c then k.findFrame n
    else if (List.range n).all fun j => k.unitFree (v.fbase + j) then some v.fbase else none

/-- The dispatcher places its head, refuses it, or lets it wait (R41, R42, R356): PLACE_HEAD. -/
def State.dispatch (s : State) (c : Nat) : State :=
  if (s.core c).blocked ∨ 256 ≤ c then s else
  let s1 := s.chooseHead c
  let k := s1.core c
  let p := s1.part (s1.partOf c)
  match k.head with
  | none => s1
  | some h =>
    let fr := match h with | .child _ _ => [] | .cont pa _ _ _ => s1.readFrame (s1.partOf c) pa
    let ty := match h with | .child r _ => r.ttype.toNat | .cont _ _ _ _ => frameType fr
    let e := p.ttOf ty
    let win := match h with | .child _ _ => ttWin e | .cont _ _ _ _ => frameByte fr 0x269 % 4
    let src := match h with | .child _ i => i | .cont _ _ _ _ => 0
    let cont := match h with | .child _ _ => false | .cont _ _ _ _ => true
    let pa := match h with | .child _ _ => 0 | .cont pa _ _ _ => pa
    let launch := match h with | .child r _ => r.launch | .cont _ _ l _ => l
    if !bit e 31 || decide (k.faSize < ttFrame e) then s1.refuse c ty src cont (!bit e 31) pa launch
    else
      match (List.range 16).find? (fun x => decide (0 < x) && decide ((k.ctx x).st = .free)), k.findWindow (win + 1),
        s1.frameFor c h (ttFrame e) with
      | some x, some g, some u =>
        let s2 := s1.setCore c { k with head := none, asked := false }
        (match h with
         | .child r _ => s2.placeChild c x g u e r
         | .cont pa f l _ => s2.placeCont c x g u e pa f l).plan (.placeHead c)
      | _, _, _ =>
        let dl := fld e 18 2
        if 1 ≤ dl ∧ k.asked = false then
          (s1.setCore c { k with asked := true }).post c 0x13 0
            (.ofNat 64 (ty + 64 * dl + 256 * s1.victim c dl)) 0 0
        else s1

/-! ### Taking up a continuation (R33) -/

/-- The partition whose strand left a continuation in a frame: the one that counts down, or else the one that recorded it. -/
def State.frameOwner (s : State) (p pa : Nat) : Nat :=
  if (s.conts.find (contKey p pa)).isSome then p
  else ((List.range 4).find? fun r => (s.conts.find (contKey r pa)).isSome).getD p

/-- A context waits on the join cell at an address. -/
def Wake.isCell (w : Wake) (a : Nat) : Bool := match w with | .cell b _ => b == a | _ => false

/-- The continuation or parked strand that a join cell records is taken up: a FORKR continuation on the last finisher's
core, one of AWAIT on its home core, a parked strand where it stands. Where its partition is swapped out, the entry waits in
the core's heartwood image until the partition next runs (R44). -/
def State.takeUp (s : State) (p last a : Nat) (link : Word) (f : Summary) : State :=
  match linkStrand link with
  | some sid =>
    let c := sid / 16
    s.planWake (if ((s.ctx c (sid % 16)).wake.isCell a) then c else heartKey c) (sid % 16) 0 (some f)
  | none =>
    let pa := link.toNat
    let p := s.frameOwner p pa
    let bs := s.readFrame p pa
    let l := ((s.conts.find (contKey p pa)).map (·.launch)).getD 0
    if frameKind bs = 1 then s.handDirect (s.home p last) (.cont pa f l true)
    else s.handDirect (s.home p (frameHome bs)) (.cont pa f l false)

/-- A join cell counts a child out (R214). -/
def State.joinDec (s : State) (p last : Nat) (hm : Bool) (a : Nat) (f : Summary) (writer : Word) : State :=
  let o := s.obj a
  let o1 := { o with value := o.value - 1 }.unite f
  if o1.value = 0 ∧ o.cont ∧ o.link ≠ 0 ∧ o.kind = 0 then
    (s.setObj p hm a { o1 with cont := false, link := 0 } writer).takeUp p last a o.link o1.summ
  else s.setObj p hm a o1 writer

end Sys2Proof.Machine
end

