-- ==== Sys2Proof/Machine/Port.lean ====
section
/-! DEFINITION. The flits and the ports of the Miljor Link (R388, R389), and the port that a transaction leaves by (R390). -/

namespace Sys2Proof.Machine

/-! ### Flits (R388) -/

/-- One bit into a CRC-16 of polynomial 0x1021. -/
def crcBit (c : BitVec 16) (b : Bool) : BitVec 16 :=
  let t := c.getLsbD 15 != b
  (c <<< 1) ^^^ (if t then 0x1021 else 0)

/-- The CRC of a flit's bits [239:0], the most significant one first, from 0xFFFF (R388; log entry 17). -/
def crcOf (f : BitVec 256) : BitVec 16 := (List.range 240).foldl (fun c i => crcBit c (f.getLsbD (239 - i))) 0xFFFF

/-- A flit's CRC is good. -/
def crcGood (f : BitVec 256) : Bool := fld f 240 16 == (crcOf f).toNat

def flitKind (f : BitVec 256) : Nat := fld f 236 4

/-- The number that an acknowledgement names (log entry 17). -/
def flitSeq (f : BitVec 256) : Nat := fld f 0 12

/-- A flit of a kind with its CRC. -/
def mkFlit (kind payload : Nat) : BitVec 256 :=
  let f : BitVec 256 := .ofNat 256 (payload % 2 ^ 236 + kind % 16 * 2 ^ 236)
  setFld f 240 16 (crcOf f).toNat

/-! ### Ports (R389) -/

def State.port (s : State) (k : Nat) : Port := s.dev.ports.get .reset k
def State.onPort (s : State) (k : Nat) (f : Port → Port) : State :=
  s.onDev fun d => { d with ports := d.ports.put k (f (d.ports.get .reset k)) }

/-- A port sends a flit, numbered from the end of training, and keeps it to replay; it keeps the last 512. -/
def Port.send (p : Port) (f : BitVec 256) : Port := { p with
  txSeq := (p.txSeq + 1) % 4096
  buf := (p.buf ++ [(p.txSeq, f, 0)]).drop (p.buf.length + 1 - 512)
  out := p.out ++ [f] }

/-! ### Transactions to another device (R390) -/

def State.routeOf (s : State) (d : Nat) : Word := s.dev.route.get 0 d

/-- The port by which a transaction to a device leaves: one of its route's, chosen by hashing the 128-byte line address; none
where no port is left. -/
def State.portOf (s : State) (d key : Nat) : Option Nat :=
  let ps := ones 8 (s.routeOf d).toNat
  ps[Config.portHash (key / 128) % ps.length]?

/-- A transaction to a location that another device holds leaves by its port, as a head flit whose content the spec leaves
open (R388; log entry 120); a port that trains sends it then. -/
def State.transact (s : State) (key : Nat) : State :=
  let d := keyDev s.ownDev key
  match if d = s.ownDev then none else s.portOf d key with
  | none => s
  | some k =>
    let f := mkFlit 1 (Config.freeWord s.free).toNat
    { s with free := s.free + 1 }.onPort k fun p => { p.send f with out := if p.st = 2 then p.out ++ [f] else p.out }

end Sys2Proof.Machine
end

