-- ==== Sys2Proof/Machine/Posted.lean ====
section
/-! DEFINITION. Posted transactions and edge records on their way (R99, R119, R120), Publish (R109), and the accesses of a
strand to memory (R190). -/

namespace Sys2Proof.Machine

/-- An edge record is performed where it was held (R120). A signal update that its object rejects changes nothing, and its
trap is due to the strand it came from, which has gone on (R201; log entry 103). A message or a queue value for another device
leaves this machine. -/
def State.performEdge (s : State) (core : Nat) : Edge → State
  | .signal a set init home v f late =>
    match s.signalAt (s.partOf core) home false a set init v f (byDevice s.ownDev) with
    | some s1 => s1
    | none => late.elim s fun l => s.lateTrap core l.1 l.2
  | .join a f => s.joinDec (s.partOf core) core false a f (byDevice s.ownDev)
  | .mail _ _ _ _ => s
  | .queue _ _ _ => s

/-- A posted transaction is performed. -/
def State.performPosted (s : State) : Posted → State
  | .store c x k bs last => s.performStore c x k bs last
  | .amo c x k hm ty op b d => s.performAmo c x k hm ty op b d
  | .edge _ c _ e => s.performEdge c e

/-- Performs the posted transactions that pass a test, oldest first. -/
def State.drainIf (s : State) (p : Posted → Bool) : State :=
  (s.posted.filter p).foldl (init := { s with posted := s.posted.filter (!p ·) }) State.performPosted

/-- Performs the posted transactions of a core that precede its transaction to a location (R99, R102, R119). Where one of
them is an edge record, all that the core has sent to that device is performed, in order, since the record waits for the
stores before it (R120). -/
def State.drain (s : State) (c : Nat) (hm : Bool) (key : Nat) : State :=
  if s.posted.any fun e => e.isEdge && s.ahead c hm key e then
    s.drainIf fun e => e.core == c && keyDev s.ownDev e.key == keyDev s.ownDev key
  else s.drainIf (s.ahead c hm key)

/-- Before a cached access, the core's posted transactions to its line are performed, and with them those ahead of them
(R102). -/
def State.drainLine (s : State) (c : Nat) (hm : Bool) (key : Nat) : State :=
  if s.posted.any fun e => e.core == c && e.key / 128 == key / 128 then s.drain c hm key else s

/-- What the core whose slot it is has posted to a location of its own scratchpad is performed before an access there that
follows it (R102, R104). -/
def State.drainOwn (s : State) (key : Nat) : State := s.drain s.cur false key

/-- Every transaction that a core has posted is performed (R126). -/
def State.settle (s : State) (c : Nat) : State := s.drainIf fun e => e.core == c

/-- Global accesses of a partition's cores that a removed translation served are performed (R336); with an edge record for
another device, all that its core has sent there before it, which it waits for (R120). -/
def State.settleGlobal (s : State) (p : Nat) : State :=
  let dev := fun (e : Posted) => keyDev s.ownDev e.key
  s.drainIf fun e => s.inPart p e.core && (decide (e.key < 2 ^ 48) ||
    s.posted.any fun q => q.isEdge && decide (q.key < 2 ^ 48) && q.core == e.core && dev q == dev e && decide (e.key < ownScr))

/-- The sequence that removes translations of a partition (R331, R336): a core's dirty sectors go home, the entries go,
but for the locked ones (R335), and the global accesses that they served are performed. -/
def State.removeTlb (s : State) (c p : Nat) (m : Tlb → Bool) : State :=
  ((s.writebackAll c (byStrand c 0)).dropTlb p fun t => m t && !t.locked).settleGlobal p

/-- A Publish by a strand whose record goes to a device: its core's dirty sectors reach home (R109), and so do the
transactions it has posted, which the edge orders before its target (R107). Stores to the record's own device are left to the
record's count (R120), except where that is this device or an atomic, which no count takes in, goes there. The edge record is
the caller's. -/
def State.publishTo (s : State) (c x dev : Nat) : State :=
  let there := fun (e : Posted) => keyDev s.ownDev e.key == dev
  (s.writebackAll c (byStrand c x)).drainIf fun e => e.core == c &&
    (dev == s.ownDev || !there e || s.posted.any fun q => q.core == c && q.isAmo && there q)

/-- A Publish by a strand whose record stays on this device. -/
def State.publish (s : State) (c x : Nat) : State := s.publishTo c x s.ownDev

/-- A cacheable load through a core's L1: a miss, or a byte neither written nor filled, fetches the sector (R94), after
what the core has sent to that home before it (R98). What is fetched may leave the L1 at any time after it, as replacement is
free: EVICTION_WRITEBACK (log entry 102). -/
def State.l1Load (s : State) (c mpa n : Nat) (sh hm : Bool) : State × Nat :=
  let sec := mpa / 16
  let need := maskBytes (mpa % 16) n
  let hit := ((s.core c).l1.find sec).elim false fun v => v.valid &&& need == need
  let s := if hit then s else (s.drain c hm mpa).makeRoom c (mpa / 128)
  let v := ((s.core c).l1.find sec).getD (.empty sh hm)
  let v1 := if hit then v else v.merge (s.homeSector sec)
  let s1 := s.onCore c fun k => { k with l1 := k.l1.put sec { v1 with shared := sh } }
  (if hit then s1 else s1.plan (.evictionWriteback c sec), v1.data.toNat / 2 ^ (8 * (mpa % 16)) % 2 ^ (8 * n))

/-- A transaction is posted, and leaves for its destination: POSTED_STORE_PERFORMED, POSTED_ATOMIC_PERFORMED or
EDGE_RECORD_RELEASE performs it later. -/
def State.postTrans (s : State) (e : Posted) : State :=
  let s := s.transact e.key
  let n := Config.pick s.free
  ({ s with posted := s.posted ++ [e], free := s.free + 1 }).plan
    (match e with
     | .store _ _ _ _ _ => .postedStorePerformed n
     | .amo _ _ _ _ _ _ _ _ => .postedAtomicPerformed n
     | .edge _ _ _ _ => .edgeRecordRelease n)

/-- An edge record is handed to another device with the core's sent count (R120); one that is no edge waits for no store. -/
def State.sendEdge (s : State) (c dev : Nat) (counted : Bool) (e : Edge) : State :=
  s.postTrans (.edge dev c (if counted then (s.core c).sent.get 0 dev else s.landed.get 0 (landedKey dev c)) e)

/-- The writes a strand's store makes at its place: through L1, at home or at its scratchpad, or posted (R190); `last` is off
for a part of a store that another part follows. -/
def State.storeAt (s : State) (c x : Nat) (p : Place) (bs : List Byte) (last : Bool := true) : State :=
  let s1 := s.mark c x p.region
  let own := s.ownDev
  if s.isPosted c p then
    let d := keyDev own p.key
    let s2 := if d = own ∨ last = false then s1 else s1.onCore c fun k => { k with sent := k.sent.put d (k.sent.get 0 d + 1) }
    s2.postTrans (.store c x p.key bs last)
  else if p.cached then (s1.drainLine c p.hm p.key).l1Store c p.key bs.length (ofBytes bs) p.shared p.hm
  else ((s1.clearSector c x p.key).drain c p.hm p.key).writeAt (s1.partOf c) p.hm p.key bs (byStrand c x)

/-- Reads a strand's load at its place (R190): through L1, or performed where the bytes lie. -/
def State.loadAt (s : State) (c x : Nat) (p : Place) (n : Nat) : State × Nat :=
  if p.cached then s.l1Load c p.key n p.shared p.hm
  else
    let s1 := ((s.clearSector c x p.key).drain c p.hm p.key).transact p.key
    (s1, s1.loadN p.key n)

/-- The load that a strand's last instruction makes is performed anew before its result lands: it may be performed at any time
from its issue until then (R107; log entry 102). -/
def State.reread (s : State) (c x : Nat) : State :=
  match (s.ctx c x).reading, ((s.ctx c x).flight.filter (·.landable)).length with
  | some (p, ty), 1 =>
    let (s1, v) := s.loadAt c x p (tyBytes ty)
    s1.onCtx c x fun k => { k with
      reading := none, flight := k.flight.map fun f => if f.landable then { f with v := tyExtend ty v } else f }
  | _, _ => s

/-- Before a strand's operation on a sync object is performed at its home, as an uncached access is: the core's dirty bytes
of it go home, its clean copy goes, and what the core has sent there is performed (R98, R102). -/
def State.reachObj (s : State) (c x : Nat) (p : Place) : State :=
  let s1 := (objSecs p.key).foldl (init := s) fun a sec => a.clearSector c x (16 * sec)
  ((s1.drain c p.hm p.key).drain c p.hm (p.key + 128)).transact p.key

/-! ### Messages to a mailbox -/

/-- The mailbox of another device has no room now, which only that device can say (R196; log entry 104). -/
def State.farFull (s : State) : Bool := Config.farAnswer s.free % 2 == 1

/-- Sends a message to a mailbox, after what the core has sent to that core before it (R98, R99); none while that mailbox
has no room (R196). A partition `p` that is swapped out takes it in its spill ring (R363). -/
def State.sendMail (s : State) (p c : Nat) (aim : Nat × Nat) (hi : Bool) (m : Msg) : Option State :=
  let s1 := s.onCore c fun k => { k with msgOut := k.msgOut + 1 }
  if aim.1 = s.ownDev then
    let d := s.home p aim.2
    if s.mailRoom d hi then some ((s1.drain c false (scrKey aim.2 0)).deliver d hi m) else none
  else if s.farFull then none
  else some ({ s1 with free := s1.free + 1 }.sendEdge c aim.1 m.summ.isSome (.mail aim.1 aim.2 hi m))

/-- The name under which a core's SENDs wait for a mailbox: its core, or that of a core of another device. -/
def State.aimOf (s : State) (aim : Nat × Nat) : Nat := if aim.1 = s.ownDev then aim.2 else 256 * (aim.1 + 1) + aim.2

/-- A SEND of a context is the first of its core's that wait for the same priority of a mailbox, so that the messages enter
in the order of their SENDs (R196). -/
def Core.offerTurn (k : Core) (x aim : Nat) (hi : Bool) : Bool :=
  (k.offers.find? fun o => o.aim == aim && o.hi == hi &&
    (o.ctx == x || ((k.ctx o.ctx).st == .ready && (k.ctx o.ctx).pc == o.pc))).elim true fun o => o.ctx == x

/-- A SEND of a context waits for room, behind those that wait already. -/
def Core.offer (k : Core) (x aim : Nat) (hi : Bool) : Core :=
  if k.offers.any fun o => o.ctx == x && o.pc == (k.ctx x).pc then k
  else { k with offers := k.offers.filter (·.ctx != x) ++ [⟨x, (k.ctx x).pc, aim, hi⟩] }

/-- A SEND of a context has been accepted. -/
def Core.unoffer (k : Core) (x : Nat) : Core := { k with offers := k.offers.filter (·.ctx != x) }

/-- What a core has sent to the scratchpads whose locks a strand is to release is performed before their release (R297). -/
def State.lockStores (s : State) (c x : Nat) : State :=
  (s.lockOwners c x).foldl (init := s) fun a o => a.drain c false (scrKey o 0)

/-! ### The events (R99, R120) -/

/-- The stores that a record counts have all landed: the difference of the counts, as a signed value, is 0 or more (R120). -/
def State.hasLanded (s : State) : Posted → Bool
  | .edge dev core n _ => decide (0 ≤ (s.landed.get 0 (landedKey dev core) - n).toInt)
  | _ => true

/-- The posted transaction an event performs: of those that precede the one it names, the earliest, so that the order of
R99 and R119 holds. -/
def State.earliest (s : State) (n : Nat) : Option (Nat × Posted) :=
  match s.posted[n % max s.posted.length 1]? with
  | none => none
  | some e =>
    let i := (s.posted.findIdx? (s.ahead e.core e.hm e.key)).getD (n % max s.posted.length 1)
    (s.posted[i]?).map fun q => (i, q)

/-- A posted transaction reaches its destination. A record whose stores have not all landed is held there, and performs no
part of its update (R120). -/
def State.performNth (s : State) (n : Nat) (again : Nat → Instr) : State :=
  match s.earliest n with
  | none => s
  | some (i, e) =>
    if s.hasLanded e then { s with posted := s.posted.eraseIdx i }.performPosted e
    else { s with free := s.free + 1 }.plan (again (Config.pick s.free))

/-- POSTED_STORE_PERFORMED (R120). -/
def execPostedStorePerformed (n : Nat) (s : State) : Res := .next (s.performNth n .postedStorePerformed)
/-- POSTED_ATOMIC_PERFORMED (R194). -/
def execPostedAtomicPerformed (n : Nat) (s : State) : Res := .next (s.performNth n .postedAtomicPerformed)
/-- EDGE_RECORD_RELEASE (R120). -/
def execEdgeRecordRelease (n : Nat) (s : State) : Res := .next (s.performNth n .edgeRecordRelease)

end Sys2Proof.Machine
end

