-- ==== Sys2Proof/Machine/Access.lean ====
section
/-! DEFINITION. Accesses by a strand with its core's watchpoints (R358), and accesses of more than one sector. -/

namespace Sys2Proof.Machine

/-- KIND of a core watchpoint's trap (R339). -/
def kWatch : Nat := 0x0C

/-- A checked access (R186), which a core watchpoint then tests before a byte is read or written (R358; log entry 10). -/
def State.access (s : State) (c x : Nat) (a : Word) (n align use acc : Nat) : State × Except TrapE Place :=
  match s.place c x a n align use acc with
  | (s1, .error e) => (s1, .error e)
  | (s1, .ok p) =>
    match s1.decodeAddr c x a n (use == 1) with
    | .error _ => (s1, .ok p)
    | .ok sp =>
      match s1.watchHit c x sp n (use == 1) with
      | some w => (s1, .error (kWatch, .ofNat 64 (w + 4 * acc), a))
      | none => (s1, .ok p)

/-- The parts of a range that lie in one 16-byte sector each: start and length. -/
def pieces : Nat → Nat → Nat → List (Nat × Nat)
  | 0, _, _ => []
  | f + 1, a, n =>
    if n = 0 then []
    else
      let k := min n (16 - a % 16)
      (a, k) :: pieces f (a + k) (n - k)

/-- Reads a range that lies in one space, translating each page (R88, R190). -/
def State.readRange (s : State) (c x : Nat) (a : Word) (n acc : Nat) : State × Except TrapE (List Byte) :=
  match s.decodeAddr c x a n false with
  | .error cause => (s, .error (transFault 0 acc 0 cause a))
  | .ok _ =>
    (pieces (n + 1) a.toNat n).foldl (init := (s, .ok [])) fun r pc =>
      match r with
      | (s1, .error e) => (s1, .error e)
      | (s1, .ok bs) =>
        match s1.place c x (.ofNat 64 pc.1) pc.2 1 0 acc with
        | (s2, .error e) => (s2, .error e)
        | (s2, .ok p) => let (s3, v) := s2.loadAt c x p pc.2; (s3, .ok (bs ++ toBytes pc.2 v))

/-- The places of a range, every one checked for writing before any byte is written. -/
def State.writePlaces (s : State) (c x : Nat) (a : Word) (n acc : Nat) : State × Except TrapE (List (Place × Nat)) :=
  match s.decodeAddr c x a n true with
  | .error cause => (s, .error (transFault 0 acc 0 cause a))
  | .ok _ =>
    (pieces (n + 1) a.toNat n).foldl (init := (s, .ok [])) fun r pc =>
      match r with
      | (s1, .error e) => (s1, .error e)
      | (s1, .ok ps) =>
        match s1.place c x (.ofNat 64 pc.1) pc.2 1 1 acc with
        | (s2, .error e) => (s2, .error e)
        | (s2, .ok p) => (s2, .ok (ps ++ [(p, pc.2)]))

/-- Writes bytes at checked places, in order, as one store. -/
def State.writeAll (s : State) (c x : Nat) : List (Place × Nat) → List Byte → State
  | [], _ => s
  | (p, n) :: ps, bs => (s.storeAt c x p (bs.take n) ps.isEmpty).writeAll c x ps (bs.drop n)

/-- The end of an instruction that a translation, alignment or watchpoint trap cuts short, or what follows. -/
def Except.body {α : Type} (r : State × Except TrapE α) (k : State → α → Body) : Body :=
  match r with
  | (s, .error e) => .ofTrap s e
  | (s, .ok v) => k s v

end Sys2Proof.Machine
end

