-- ==== Sys2Proof/Machine/Shape.lean ====
section
/-! DEFINITION. Shape records (R222-R227), the checks of R225, scales (R78) and tile status words (R79, R80), shared by
tensor, matrix and copy operations. -/

namespace Sys2Proof.Machine

/-! ### Element formats (R75, R76, R223) -/

/-- An element format: a scalar type, or a narrow float's descriptor. -/
inductive EFmt where
  | ty (t : Ty)
  | narrow (d : Word)
  deriving DecidableEq, Repr

/-- The format a descriptor names. -/
def efmt (d : Word) : EFmt := if fld d 0 4 = 15 then .narrow d else .ty ((Ty.ofCode (fld d 0 4)).getD .i64)

/-- The bytes of an element (R223). -/
def EFmt.bytes : EFmt → Nat
  | .ty t => tyBytes t
  | .narrow _ => 1

/-- The code bits of an element; the bits above are ignored on reading and written as zero (R76). -/
def EFmt.bits : EFmt → Nat
  | .ty t => tyBits t
  | .narrow d => narrowBits d

/-- The exact value of a code. -/
def EFmt.value : EFmt → Nat → FVal
  | .ty t, v => tyValue t v
  | .narrow d, v => (narrowFmt d).value (v % 2 ^ narrowBits d)

/-- An integer format or m8. -/
def EFmt.isInt : EFmt → Bool
  | .ty t => !tyFloat t
  | .narrow _ => false

/-- Conversion between element formats: the code, its flags, and 1 when it saturated (R74, R77; log entry 8). -/
def EFmt.conv (src dst : EFmt) (rm code : Nat) : Nat × Nat × Nat :=
  match dst with
  | .narrow d => (narrowFmt d).toNarrow (src.value code)
  | .ty t => match src with
    | .ty u => convert t u rm code
    | .narrow _ => valueTo t rm (src.value code)

/-- A code with its format. -/
structure TV where
  f : EFmt
  code : Nat
  deriving DecidableEq, Repr

def TV.value (v : TV) : FVal := v.f.value v.code

/-- A value brought to a format: passed as its code when it has that format already (R229). -/
def TV.into (v : TV) (dst : EFmt) (rm : Nat) : Nat × Nat × Nat := if v.f = dst then (v.code, 0, 0) else v.f.conv dst rm v.code

/-- Round32 of a value times a scale, and of a value divided by one, to nearest even (R78). -/
def TV.timesScale (v : TV) (sc : Nat) : TV × Nat :=
  let r := fmtF32.finish 0 (fMul v.value (fmtF32.value sc))
  (⟨.ty .f32, r.1⟩, r.2)
def TV.overScale (v : TV) (sc : Nat) : TV × Nat :=
  let r := fmtF32.divV 0 v.value (fmtF32.value sc)
  (⟨.ty .f32, r.1⟩, r.2)

/-! ### Records (R222-R224) -/

/-- A shape record's fields: extents as counts, strides signed. -/
structure Shape where
  base : Word
  e0 : Nat
  e1 : Nat
  e2 : Nat
  e3 : Nat
  t1 : Int
  t2 : Int
  t3 : Int
  fmt : Word
  scl : Word
  stat : Word
  rsv : Nat
  deriving DecidableEq, Repr

/-- The record in a shape register. -/
def shapeOf (r : BitVec 512) : Shape where
  base := .ofNat 64 (fld r 0 64)
  e0 := fld r 64 32 + 1
  e1 := fld r 96 32 + 1
  e2 := fld r 128 32 + 1
  e3 := fld r 160 32 + 1
  t1 := sgn 32 (fld r 192 32)
  t2 := sgn 32 (fld r 224 32)
  t3 := sgn 32 (fld r 256 32)
  fmt := .ofNat 64 (fld r 288 64)
  scl := .ofNat 64 (fld r 352 64)
  stat := .ofNat 64 (fld r 416 64)
  rsv := fld r 480 32

def Shape.f (x : Shape) : EFmt := efmt x.fmt
def Shape.z (x : Shape) : Nat := x.f.bytes
def Shape.mode (x : Shape) : Nat := fld x.scl 0 2
def Shape.vaddr (x : Shape) : Word := x.scl &&& ~~~3#64
def Shape.count (x : Shape) : Nat := x.e0 * x.e1 * x.e2 * x.e3
def Shape.exts (x : Shape) : List Nat := [x.e0, x.e1, x.e2, x.e3]

/-- Coordinates of an element. -/
structure Coord where
  j0 : Nat
  j1 : Nat
  j2 : Nat
  j3 : Nat
  deriving DecidableEq, Repr

/-- The coordinates of element `n` in row-major order (R228). -/
def Shape.coord (x : Shape) (n : Nat) : Coord :=
  ⟨n % x.e0, n / x.e0 % x.e1, n / x.e0 / x.e1 % x.e2, n / x.e0 / x.e1 / x.e2⟩

/-- A source's coordinates for an element of the space: index 0 along a dimension of extent 1 (R228). -/
def Shape.bcast (x : Shape) (j : Coord) : Coord :=
  let z := fun (e i : Nat) => if e = 1 then 0 else i
  ⟨z x.e0 j.j0, z x.e1 j.j1, z x.e2 j.j2, z x.e3 j.j3⟩

/-- The byte offset of an element from BASE (R223). -/
def Shape.offset (x : Shape) (j : Coord) : Int := j.j0 * x.z + j.j1 * x.t1 + j.j2 * x.t2 + j.j3 * x.t3

/-- The address of an element, modulo 2^64 (R223). -/
def Shape.addr (x : Shape) (j : Coord) : Word := x.base + word (x.offset j)

/-- The address of an element's scale (R224). -/
def Shape.scaleAddr (x : Shape) (j : Coord) : Word :=
  x.vaddr + .ofNat 64 (4 * (match x.mode with | 2 => j.j1 | 3 => j.j0 | _ => 0))

/-- The entries of the scale vector (R224). -/
def Shape.scales (x : Shape) : Nat :=
  match x.mode with
  | 0 => 0
  | 1 => 1
  | 2 => x.e1
  | _ => x.e0

/-- A source conforms to a space (R228). -/
def Shape.conforms (x d : Shape) : Bool := (x.exts.zip d.exts).all fun e => e.1 == e.2 || e.1 == 1

/-- The lowest and the highest byte a shape reaches, as offsets from BASE. -/
def Shape.reach (x : Shape) : Int × Int :=
  let ds : List Int := [((x.e0 - 1 : Nat) : Int) * x.z, ((x.e1 - 1 : Nat) : Int) * x.t1, ((x.e2 - 1 : Nat) : Int) * x.t2,
    ((x.e3 - 1 : Nat) : Int) * x.t3]
  (ds.foldl (fun a d => a + min 0 d) 0, ds.foldl (fun a d => a + max 0 d) (x.z - 1 : Int))

/-! ### The checks of R225 -/

/-- The INFO of a translation fault at a tensor, matrix or copy check (R337). -/
def engFault (cause : Nat) (a : Word) : TrapE := transFault 0 3 0 cause a

/-- Step 1's checks of the record itself. -/
def Shape.ok (x : Shape) : Bool := x.rsv == 0 && descOk x.fmt && (x.mode != 0 || x.vaddr == 0)

/-- Step 2: alignment. -/
def Shape.misaligned (x : Shape) : Option TrapE :=
  let bad := fun (t : Int) => t % x.z != 0
  if x.base.toNat % x.z ≠ 0 ∨ bad x.t1 ∨ bad x.t2 ∨ bad x.t3 then some (kAlign, 0, x.base)
  else if x.stat.toNat % 16 ≠ 0 then some (kAlign, 0, x.stat) else none

/-- Two decoded ends lie in one scratchpad. -/
def Space.together : Space → Space → Bool
  | .scr a _, .scr b _ => a == b
  | .far d a _, .far e b _ => d == e && a == b
  | .glob _, .glob _ => true
  | _, _ => false

/-- A space is a scratchpad of this device. -/
def Space.own : Space → Bool
  | .scr _ _ => true
  | _ => false

/-- The offset bits of an address by its tag (R87): no span of a shape leaves them, whatever its exact length. -/
def spanBits (tag : Nat) : Nat := if tag = 0xE then 32 else 21

/-- Step 3 for one range: its tag, then its lowest and its highest byte. `any` admits the tags of a copy, whose tag 0x0
pages are translated only as the copy reaches them (R257). -/
def State.spanBad (s : State) (c x : Nat) (any wr : Bool) (base : Word) (lo hi : Int) : Option TrapE :=
  let tag := fld base 60 4
  if any && tag == 0 then none
  else if !(tag == 0xC || tag == 0xD || (any && tag == 0xE)) then some (engFault 1 base)
  else
    let first := base + word lo
    let last := base + word hi
    let off : Int := fld base 0 (spanBits tag)
    if off + lo < 0 then some (engFault 1 first)
    else match s.decodeAddr c x first 1 wr with
    | .error e => some (engFault e first)
    | .ok f =>
      if fld first 60 4 ≠ tag ∨ (!any && !f.own) then some (engFault 1 first)
      else if (2 ^ spanBits tag : Nat) ≤ off + hi then some (engFault 1 last)
      else match s.decodeAddr c x last 1 wr with
        | .error e => some (engFault e last)
        | .ok l => if fld last 60 4 ≠ tag ∨ !f.together l then some (engFault 1 last) else none

/-- Step 3 for a shape: its elements, its scale vector and its status word, which always lies in a scratchpad. -/
def State.shapeBad (s : State) (c x : Nat) (any wr : Bool) (sh : Shape) : Option TrapE :=
  match s.spanBad c x any wr sh.base sh.reach.1 sh.reach.2 with
  | some e => some e
  | none =>
    match (if sh.mode = 0 then none else s.spanBad c x any false sh.vaddr 0 (4 * sh.scales - 1)) with
    | some e => some e
    | none => if sh.stat = 0 then none else s.spanBad c x false true sh.stat 0 15

/-- The checks of R225 over the shapes an operation uses, the destination first, on each core `cs` whose scratchpad tag
0xC names: `formOk` is what the form adds to step 1. -/
def State.checkShapes (s : State) (cs : List Nat) (x : Nat) (any formOk : Bool) (shs : List (Shape × Bool)) : Option TrapE :=
  if !(shs.all (·.1.ok) && formOk) then some (kOperand, 0, 0)
  else match shs.findSome? fun e => e.1.misaligned with
    | some e => some e
    | none => cs.findSome? fun c => shs.findSome? fun e => s.shapeBad c x any e.2 e.1

/-! ### Elements in scratchpads -/

/-- The location of a scratchpad range for an operation of a partition. -/
def State.scrIn (s : State) (p c x : Nat) (a : Word) (n : Nat) : Except TrapE Nat :=
  match s.decodeIn p c x a n false with
  | .ok (.scr core off) => .ok (scrKey core off)
  | .ok _ => .error (engFault 1 a)
  | .error e => .error (engFault e a)

/-- The location of a scratchpad range, checked anew at each access (R232). -/
def State.scrAt (s : State) (c x : Nat) (a : Word) (n : Nat) : Except TrapE Nat := s.scrIn (s.partOf c) c x a n

/-- The code of an element. -/
def State.elemCode (s : State) (c x : Nat) (sh : Shape) (j : Coord) : Except TrapE Nat := do
  let k ← s.scrAt c x (sh.addr j) sh.z
  .ok (s.loadN k sh.z % 2 ^ sh.f.bits)

/-- The scale of an element, if the shape has one. -/
def State.elemScale (s : State) (c x : Nat) (sh : Shape) (j : Coord) : Except TrapE (Option Nat) :=
  if sh.mode = 0 then .ok none
  else do
    let k ← s.scrAt c x (sh.scaleAddr j) 4
    .ok (some (s.loadN k 4))

/-- An element's value with its scale applied, and the flags of that (R78, R229). -/
def State.elem (s : State) (c x : Nat) (sh : Shape) (j : Coord) : Except TrapE (TV × Nat) := do
  let v ← s.elemCode c x sh j
  match (← s.elemScale c x sh j) with
  | none => .ok (⟨sh.f, v⟩, 0)
  | some sc => .ok (TV.timesScale ⟨sh.f, v⟩ sc)

/-- A source element in the compute type: its code, flags and saturations (R229). -/
def State.elemIn (s : State) (c x : Nat) (sh : Shape) (j : Coord) (t : Ty) (rm : Nat) : Except TrapE (Nat × Nat × Nat) := do
  let (v, fl) ← s.elem c x sh j
  let r := v.into (.ty t) rm
  .ok (r.1, fl ||| r.2.1, r.2.2)

/-- Writes a result element in the destination's format: the state, flags and saturations (R229). `force` converts even
a code of that format (R167). -/
def State.putElem (s : State) (c x : Nat) (d : Shape) (j : Coord) (rm : Nat) (v : TV) (force : Bool) :
    Except TrapE (State × Nat × Nat) := do
  let k ← s.scrAt c x (d.addr j) d.z
  let (w, fl) := match (← s.elemScale c x d j) with
    | none => (v, 0)
    | some sc => v.overScale sc
  let r := if force then w.f.conv d.f rm w.code else w.into d.f rm
  .ok (s.setBytes k (toBytes d.z r.1), fl ||| r.2.1, r.2.2)

/-! ### Tile status words (R79, R80) -/

/-- Element `n` raises flags and saturations. The first element of each flag is the one that comes first in row-major order,
as the indices count (R79; log entry 106). -/
def note (st : BitVec 128) (n fl sat : Nat) : BitVec 128 :=
  if fl = 0 ∧ sat = 0 then st
  else
    let st1 := (List.range 5).foldl (init := st) fun a i =>
      if !fl.testBit i then a
      else
        let m := if a.getLsbD i then min n (fld a (48 + 16 * i) 16) else n
        setFld (setFld a i 1 1) (48 + 16 * i) 16 (min m 0xFFFF)
    setFld st1 24 24 (min (fld st1 24 24 + sat) 0xFFFFFF)

/-- Two status words united: the lower index of a flag both have (R80). -/
def unite (a b : BitVec 128) : BitVec 128 :=
  let st := (List.range 5).foldl (init := a) fun r i =>
    if b.getLsbD i then
      let n := fld b (48 + 16 * i) 16
      if r.getLsbD i then setFld r (48 + 16 * i) 16 (min n (fld r (48 + 16 * i) 16)) else setFld (setFld r i 1 1) (48 + 16 * i) 16 n
    else r
  let st1 := setFld st 24 24 (min (fld a 24 24 + fld b 24 24) 0xFFFFFF)
  setFld (setFld st1 16 2 (min (fld a 16 2 + fld b 16 2) 3)) 15 1 (b2n (a.getLsbD 15 || b.getLsbD 15))

/-- Writes a status word whole, for an operation of a partition; nothing when STAT is 0 (R230). -/
def State.statusIn (s : State) (p c x : Nat) (a : Word) (st : BitVec 128) : Except TrapE State :=
  if a = 0 then .ok s else do
    let k ← s.scrIn p c x a 16
    .ok (s.setBytes k (toBytes 16 st.toNat))

/-- Writes a status word whole for a strand. -/
def State.putStatus (s : State) (c x : Nat) (a : Word) (st : BitVec 128) : Except TrapE State := s.statusIn (s.partOf c) c x a st

/-! ### Moving records: major 0x28 (R226, R227) -/

/-- A shape register of a context. -/
def Ctx.shape (k : Ctx) (n : Shp) : BitVec 512 := k.shapes.get 0 n.toNat

/-- LDSHP (R227). -/
def ldshp (sh : Shp) (a : Word) (s : State) : Body :=
  if a.toNat % 64 ≠ 0 then .trap s kAlign 0 a
  else
    let parts := (List.range 4).map fun i => a + .ofNat 64 (16 * i)
    let r : State × Except TrapE (List Byte) := parts.foldl (init := (s, .ok [])) fun r p =>
      match r with
      | (s1, .error e) => (s1, .error e)
      | (s1, .ok bs) => match s1.access s.cur s.actor p 16 16 0 0 with
        | (s2, .error e) => (s2, .error e)
        | (s2, .ok pl) => let (s3, v) := s2.loadAt s.cur s.actor pl 16; (s3, .ok (bs ++ toBytes 16 v))
    Except.body r fun s1 bs => .done (s1.onMe fun k => { k with shapes := k.shapes.put sh.toNat (.ofNat 512 (ofBytes bs)) }) [] .fall
def execLdshp (h : Hdr) (a : Opnd) (sh : BitVec 4) (o : BitVec 16) (s : State) : Res :=
  .next (s.issue .any h 8 [a] [] fun v s => ldshp sh (v0 v + o.signExtend 64 * 64) s)

/-- STSHP (R227): four 16-byte stores, every one checked before the first is made. -/
def stshp (sh : Shp) (a : Word) (s : State) : Body :=
  if a.toNat % 64 ≠ 0 then .trap s kAlign 0 a
  else
    let bs := toBytes 64 (s.me.shape sh).toNat
    let parts := (List.range 4).map fun i => a + .ofNat 64 (16 * i)
    let r : State × Except TrapE (List (Place × Nat)) := parts.foldl (init := (s, .ok [])) fun r p =>
      match r with
      | (s1, .error e) => (s1, .error e)
      | (s1, .ok ps) => match s1.access s.cur s.actor p 16 16 1 1 with
        | (s2, .error e) => (s2, .error e)
        | (s2, .ok pl) => (s2, .ok (ps ++ [(pl, 16)]))
    Except.body r fun s1 ps => .done (s1.writeAll s.cur s.actor ps bs) [] .fall
def execStshp (h : Hdr) (a : Opnd) (sh : BitVec 4) (o : BitVec 16) (s : State) : Res :=
  .next (s.issue .any h 8 [a] [] fun v s => stshp sh (v0 v + o.signExtend 64 * 64) s)

/-- The low bit and the width of a field FLD names (R222, R226). -/
def shapeField (f : Nat) : Nat × Nat :=
  match f with
  | 0 => (0, 64)
  | 8 => (288, 64)
  | 9 => (352, 64)
  | 10 => (416, 64)
  | n => (64 + 32 * (n - 1), 32)

def execShpset (h : Hdr) (a : Opnd) (sh : BitVec 4) (f : BitVec 4) (s : State) : Res :=
  .next (s.issue .any h 8 [a] [] fun v s =>
    let (lo, n) := shapeField f.toNat
    .done (s.onMe fun k => { k with shapes := k.shapes.put sh.toNat (setFld (k.shape sh) lo n (v0 v).toNat) }) [] .fall)

/-- SHPGET: extents are zero-extended, strides sign-extended (R227). -/
def shpget (f : Nat) (r : BitVec 512) : Word :=
  let (lo, n) := shapeField f
  if 5 ≤ f ∧ f ≤ 7 then sext n (fld r lo n) else .ofNat 64 (fld r lo n)
def execShpget (h : Hdr) (d : Opnd) (sh : BitVec 4) (f : BitVec 4) (s : State) : Res :=
  .next (s.issue .any h 8 [] [(d, some 1)] fun _ s => .done s [shpget f.toNat (s.me.shape sh)] .fall)

end Sys2Proof.Machine
end

