-- ==== Sys2Proof/Machine/Tensor.lean ====
section
/-! DEFINITION. Tensor instructions: majors 0x29, 0x2A and 0x2B (R228-R240), and TENSOR_COMPLETION. -/

namespace Sys2Proof.Machine

/-- What a tensor operation computes. -/
inductive TKind where
  /-- A TELEM form by its minor (R234). -/
  | lanes (op : Nat) (cty : Ty) (rm : Nat) (satm arith : Bool)
  | cmp (cty : Ty) (rel : Nat) (q : Bool) (rm : Nat)
  | sfu (fn : Nat) (cty : Ty) (rm : Nat)
  | cvt (rm : Nat)
  | copy
  | fill
  | sel
  | split
  | red (op : Nat) (cty : Ty) (rm : Nat)
  | gath
  | scat
  deriving DecidableEq, Repr

/-- A tensor operation: its kind, the shape registers of its roles D, A, B and C, which sources it reads, and the
registers that replace B and C (R228). -/
structure TOp where
  kind : TKind
  d : Shp
  a : Shp
  b : Shp
  c : Shp
  useA : Bool
  useB : Bool
  useC : Bool
  xb : Option Opnd
  xc : Option Opnd
  deriving DecidableEq, Repr

/-- What a tensor operation runs on: the core and context it acts for, its shapes, and its scalars. -/
structure TEnv where
  core : Nat
  ctx : Nat
  d : Shape
  a : Shape
  b : Shape
  c : Shape
  vb : Word
  vc : Word
  deriving DecidableEq, Repr

/-! ### One element -/

/-- A float TELEM operation on codes (R234). -/
def laneF (t : Ty) (op rm : Nat) (a b c : Nat) : Nat × Nat :=
  let f := fmtOf t
  let sg := 2 ^ (tyBits t - 1)
  match op with
  | 0 => f.add rm a b
  | 1 => f.sub rm a b
  | 2 => f.mul rm a b
  | 3 => f.fma rm a b c
  | 4 => f.minMax false a b
  | 5 => f.minMax true a b
  | 6 => (a % sg, 0)
  | _ => (if a / sg % 2 = 1 then a % sg else a % sg + sg, 0)

/-- An integer TELEM operation whose exact result may saturate (R234). -/
def laneI (t : Ty) (op : Nat) (a b : Int) : Int :=
  match op with
  | 0 => a + b
  | 1 => a - b
  | 2 => a * b
  | 4 => if a ≤ b then a else b
  | 5 => if a ≥ b then a else b
  | 6 => if tySigned t then (a.natAbs : Int) else a
  | _ => -a

/-- A TELEM operation on codes of the compute type: the code, flags and saturations (R229, R234). -/
def lane (t : Ty) (op rm : Nat) (satm arith : Bool) (a b c : Nat) : Nat × Nat × Nat :=
  let w := tyBits t
  if tyFloat t then let r := laneF t op rm a b c; (r.1, r.2, 0)
  else match op with
    | 8 => (a &&& b, 0, 0)
    | 9 => (a ||| b, 0, 0)
    | 10 => (a ^^^ b, 0, 0)
    | 11 => (shlN w a (b % 256), 0, 0)
    | 12 => (if arith then shraN w a (b % 256) else shrN w a (b % 256), 0, 0)
    | _ =>
      let v := laneI t op (tyVal t a) (tyVal t b)
      if satm then let r := intSat t v; (r.1, 0, b2n r.2) else (low w v, 0, 0)

/-- The relation of TCMP (R238). -/
def tcmpRel (t : Ty) (rel : Nat) (q : Bool) (a b : Nat) : Bool × Nat :=
  if tyFloat t then fcmp (fmtOf t) rel q a b else (cmpRel rel t a b, 0)

/-- A source of element `j`: a scalar register's low bits as a code, or the shape's element (R228, R229). The scale of a
broadcast source is the one at its own index, where it is read (log entry 123). -/
def State.source (s : State) (e : TEnv) (use : Bool) (scalar : Option Word) (sh : Shape) (j : Coord) (t : Ty) (rm : Nat) :
    Except TrapE (Nat × Nat × Nat) :=
  match use, scalar with
  | false, _ => .ok (0, 0, 0)
  | true, some v => .ok (v.toNat % 2 ^ tyBits t, 0, 0)
  | true, none => s.elemIn e.core e.ctx sh (sh.bcast j) t rm

/-- An element whose operation has a compute type (R229). -/
def State.elemOp (s : State) (o : TOp) (e : TEnv) (t : Ty) (rm : Nat) (f : Nat → Nat → Nat → TV × Nat × Nat) (n : Nat) :
    Except TrapE (State × Nat × Nat) := do
  let j := e.d.coord n
  let (a, fa, ca) ← s.source e o.useA none e.a j t rm
  let (b, fb, cb) ← s.source e o.useB (o.xb.map fun _ => e.vb) e.b j t rm
  let (c, fc, cc) ← s.source e o.useC (o.xc.map fun _ => e.vc) e.c j t rm
  let (v, fo, co) := f a b c
  let (s1, fd, cd) ← s.putElem e.core e.ctx e.d j rm v false
  .ok (s1, fa ||| fb ||| fc ||| fo ||| fd, ca + cb + cc + co + cd)

/-- Writes a code unchanged into an element of D. -/
def State.putCode (s : State) (e : TEnv) (d : Shape) (j : Coord) (code : Nat) : Except TrapE State := do
  let k ← s.scrAt e.core e.ctx (d.addr j) d.z
  .ok (s.setBytes k (toBytes d.z (code % 2 ^ d.f.bits)))

/-- The three terms of TSPLIT3 with the flags they raise (R85). -/
def split3 (x : Nat) : Nat × Nat × Nat × Nat :=
  match fmtF32.value x with
  | .nan _ => (fmtBf16.nanCode, 0, 0, fNV)
  | .inf n => (fmtBf16.infCode n, 0, 0, 0)
  | v =>
    let hi := (fmtBf16.ofVal 1 v).1
    let r1 := (fAdd 0 v (fmtBf16.value hi).neg).1
    let mid := if r1.isZero then 0 else (fmtBf16.ofVal 1 r1).1
    let r2 := (fAdd 0 r1 (fmtBf16.value mid).neg).1
    let lo := if r2.isZero then (0, 0) else fmtBf16.ofVal 0 r2
    (hi, mid, lo.1, lo.2)

/-- The index an element of B holds (R239). -/
def State.indexAt (s : State) (e : TEnv) (j : Coord) : Except TrapE Int := do
  let v ← s.elemCode e.core e.ctx e.b (e.b.bcast j)
  .ok (match e.b.f with | .ty t => intVal t v | .narrow _ => 0)

/-- An index within a shape's elements. -/
def inShape (sh : Shape) (k : Int) : Bool := decide (0 ≤ k) && decide (k < sh.count)

/-- Element `n` of a tensor operation other than TRED: the state, flags and saturations. -/
def State.tElem (s : State) (o : TOp) (e : TEnv) (n : Nat) : Except TrapE (State × Nat × Nat) :=
  let c := e.core
  let x := e.ctx
  let j := e.d.coord n
  match o.kind with
  | .lanes op t rm satm ar => s.elemOp o e t rm (fun a b c => let r := lane t op rm satm ar a b c; (⟨.ty t, r.1⟩, r.2)) n
  | .cmp t rel q rm => s.elemOp o e t rm (fun a b _ => let r := tcmpRel t rel q a b; (⟨.ty .n8, b2n r.1⟩, r.2, 0)) n
  | .sfu fn t rm => s.elemOp o e t rm (fun a b _ => let r := (fmtOf t).sfu fn rm a b; (⟨.ty t, r.1⟩, r.2, 0)) n
  | .cvt rm => do
    let (v, fa) ← s.elem c x e.a (e.a.bcast j)
    let (s1, fd, cd) ← s.putElem c x e.d j rm v true
    .ok (s1, fa ||| fd, cd)
  | .copy => do
    let v ← s.elemCode c x e.a (e.a.bcast j)
    let s1 ← s.putCode e e.d j v
    .ok (s1, 0, 0)
  | .fill => do
    let s1 ← s.putCode e e.d j e.vb.toNat
    .ok (s1, 0, 0)
  | .sel => do
    let a ← s.elemCode c x e.a (e.a.bcast j)
    let b ← s.elemCode c x e.b (e.b.bcast j)
    let k ← s.elemCode c x e.c (e.c.bcast j)
    let s1 ← s.putCode e e.d j (if (e.c.f.value k).isZero then b else a)
    .ok (s1, 0, 0)
  | .split => do
    let v ← s.elemCode c x e.a (e.a.coord n)
    let (hi, mid, lo, fl) := split3 v
    let s1 ← s.putCode e e.d j hi
    let s2 ← s1.putCode e e.b (e.b.coord n) mid
    let s3 ← s2.putCode e e.c (e.c.coord n) lo
    .ok (s3, fl, 0)
  | .gath => do
    let k ← s.indexAt e j
    if inShape e.a k then
      let v ← s.elemCode c x e.a (e.a.coord k.toNat)
      let s1 ← s.putCode e e.d j v
      .ok (s1, 0, 0)
    else
      let s1 ← s.putCode e e.d j 0
      .ok (s1, 0, 1)
  | .scat => do
    let i := e.a.coord n
    let k ← s.indexAt e i
    if inShape e.d k then
      let v ← s.elemCode c x e.a i
      let s1 ← s.putCode e e.d (e.d.coord k.toNat) v
      .ok (s1, 0, 0)
    else .ok (s, 0, 1)
  | .red _ _ _ => .ok (s, 0, 0)

/-! ### TRED (R86, R237) -/

/-- A reduced dimension's extent, and 1 for a dimension that stays. -/
def redExts (d a : Shape) : List Nat := (d.exts.zip a.exts).map fun e => if e.1 = 1 then e.2 else 1

/-- The inputs of one element of D. -/
def redCount (d a : Shape) : Nat := (redExts d a).foldl (· * ·) 1

/-- The coordinates in A of input `r` of an element of D. -/
def redCoord (d a : Shape) (j : Coord) (r : Nat) : Coord :=
  match redExts d a with
  | [r0, r1, r2, r3] =>
    ⟨j.j0 + r % r0, j.j1 + r / r0 % r1, j.j2 + r / r0 / r1 % r2, j.j3 + r / r0 / r1 / r2 % r3⟩
  | _ => j

/-- The identity that starts the total and completes a short group (R86, R237). -/
def redUnit (t : Ty) (op : Nat) : Nat :=
  if tyFloat t then if op = 0 then (fmtOf t).zeroCode true else (fmtOf t).nanCode
  else match op with
    | 0 => 0
    | 1 => low (tyBits t) (tyMax t)
    | _ => low (tyBits t) (tyMin t)

/-- The reduction of two codes, with its flags. -/
def redOp (t : Ty) (op : Nat) (a b : Nat) : Nat × Nat :=
  if tyFloat t then match op with
    | 0 => (fmtOf t).add 0 a b
    | 1 => (fmtOf t).minMax false a b
    | _ => (fmtOf t).minMax true a b
  else match op with
    | 0 => ((a + b) % 2 ^ tyBits t, 0)
    | 1 => (if tyVal t a ≤ tyVal t b then a else b, 0)
    | _ => (if tyVal t a ≥ tyVal t b then a else b, 0)

/-- The tree of R86 over 2^k values. -/
def redTree (t : Ty) (op : Nat) : Nat → List Nat → Nat × Nat
  | 0, vs => (vs.headD 0, 0)
  | k + 1, vs =>
    let l := redTree t op k (vs.take (2 ^ k))
    let r := redTree t op k (vs.drop (2 ^ k))
    let m := redOp t op l.1 r.1
    (m.1, l.2 ||| r.2 ||| m.2)

/-- The inputs of a group, in the compute type: their codes, flags and saturations. -/
def State.redGroup (s : State) (e : TEnv) (t : Ty) (j : Coord) (from_ : Nat) : Nat → Except TrapE (List Nat × Nat × Nat)
  | 0 => .ok ([], 0, 0)
  | k + 1 => do
    let (v, f, n) ← s.elemIn e.core e.ctx e.a (redCoord e.d e.a j from_) t 0
    let (vs, f1, n1) ← s.redGroup e t j (from_ + 1) k
    .ok (v :: vs, f ||| f1, n + n1)

/-! ### Chunks (R231, R232) -/

/-- Progress of a tensor operation: the state, the resume index, the partial status word and TRED's running total. -/
structure TRun where
  s : State
  ri : Nat
  st : BitVec 128
  total : Word

/-- Elements `ri` and on, up to `fuel` of them, until one fails. -/
def runElems (o : TOp) (e : TEnv) : Nat → TRun → TRun × Option TrapE
  | 0, r => (r, none)
  | f + 1, r =>
    match r.s.tElem o e r.ri with
    | .error t => (r, some t)
    | .ok (s1, fl, n) => runElems o e f { r with s := s1, ri := r.ri + 1, st := note r.st r.ri fl n }

/-- One group of a TRED, whose total is converted and written after its element's last one. -/
def redStep (e : TEnv) (op : Nat) (t : Ty) (rm m : Nat) (r : TRun) : Except TrapE TRun := do
  let d := r.ri / m
  let at_ := r.ri % m
  let k := min 32 (m - at_)
  let j := e.d.coord d
  let (vs, f, n) ← r.s.redGroup e t j at_ k
  let init := if at_ = 0 then redUnit t op else r.total.toNat
  let g := redTree t op 5 (vs ++ List.replicate (32 - k) (redUnit t op))
  let v := redOp t op init g.1
  let st := note r.st d (f ||| g.2 ||| v.2) n
  if at_ + k < m then .ok { r with ri := r.ri + k, st := st, total := .ofNat 64 v.1 }
  else
    let (s1, fd, nd) ← r.s.putElem e.core e.ctx e.d j rm ⟨.ty t, v.1⟩ false
    .ok { s := s1, ri := r.ri + k, st := note st d fd nd, total := 0 }

/-- Groups of a TRED while they fit in a chunk of 512 inputs from `start`. -/
def runRed (e : TEnv) (op : Nat) (t : Ty) (rm m count start : Nat) : Nat → TRun → TRun × Option TrapE
  | 0, r => (r, none)
  | f + 1, r =>
    if count ≤ r.ri ∨ start + 512 < r.ri + min 32 (m - r.ri % m) then (r, none)
    else match redStep e op t rm m r with
      | .error x => (r, some x)
      | .ok r1 => runRed e op t rm m count start f r1

/-- The indices an operation runs over: inputs for TRED, A's elements for TSCAT, D's otherwise. -/
def TOp.count (o : TOp) (e : TEnv) : Nat :=
  match o.kind with
  | .red _ _ _ => e.d.count * redCount e.d e.a
  | .scat => e.a.count
  | _ => e.d.count

/-- One chunk of an operation: up to 512 elements, with no other party's access between two of them (R231, R233; log entry
124). -/
def runChunk (o : TOp) (e : TEnv) (r : TRun) : TRun × Option TrapE :=
  match o.kind with
  | .red op t rm => runRed e op t rm (redCount e.d e.a) (o.count e) r.ri 512 r
  | _ => runElems o e (min 512 (o.count e - r.ri)) r

/-! ### The checks at issue (R225, R235-R239) -/

/-- What each form adds to step 1: formats, modes and extents. -/
def TOp.formOk (o : TOp) (e : TEnv) : Bool :=
  let plain := fun (x : Shape) => x.mode == 0
  let conf := (!o.useA || e.a.conforms e.d) && (!o.useB || o.xb.isSome || e.b.conforms e.d) &&
    (!o.useC || o.xc.isSome || e.c.conforms e.d)
  match o.kind with
  | .lanes _ _ _ _ _ | .sfu _ _ _ | .cvt _ => conf
  | .cmp _ _ _ _ => conf && e.d.f.isInt
  | .copy => conf && e.d.fmt == e.a.fmt && plain e.d && plain e.a
  | .fill => plain e.d
  | .sel => conf && e.c.f.isInt && e.d.fmt == e.a.fmt && e.d.fmt == e.b.fmt && [e.d, e.a, e.b, e.c].all plain
  | .split =>
    e.a.f == .ty .f32 && [e.d, e.b, e.c].all (fun (x : Shape) => x.f == .ty .bf16 && x.exts == e.a.exts) &&
    [e.d, e.a, e.b, e.c].all plain
  | .red op t _ => ((e.d.exts.zip e.a.exts).all fun p => p.1 == p.2 || p.1 == 1) && (tyFloat t || op != 0 || e.d.f == .ty t)
  | .gath => e.b.conforms e.d && e.d.fmt == e.a.fmt && decide (fld e.b.fmt 0 4 < 8) && [e.d, e.a, e.b].all plain
  | .scat => e.b.conforms e.a && e.d.fmt == e.a.fmt && decide (fld e.b.fmt 0 4 < 8) && [e.d, e.a, e.b].all plain

/-- The shapes an operation uses, D first, with those it writes marked. -/
def TOp.shapes (o : TOp) (e : TEnv) : List (Shape × Bool) :=
  let out := decide (o.kind = .split)
  [(e.d, true)] ++ (if o.useA then [(e.a, false)] else []) ++ (if o.useB && o.xb.isNone then [(e.b, out)] else []) ++
    (if o.useC && o.xc.isNone then [(e.c, out)] else [])

/-- The checks of R225 for a tensor operation. -/
def State.tCheck (s : State) (o : TOp) (e : TEnv) : Option TrapE :=
  s.checkShapes [e.core] e.ctx false (o.formOk e) (o.shapes e)

/-! ### Instructions -/

/-- The scalar registers an operation reads. -/
def TOp.srcs (o : TOp) : List Opnd := o.xb.toList ++ o.xc.toList

/-- An operation's environment for a strand. -/
def TOp.env (o : TOp) (s : State) (c x : Nat) (v : List Word) : TEnv :=
  let k := s.ctx c x
  { core := c, ctx := x, d := shapeOf (k.shape o.d), a := shapeOf (k.shape o.a), b := shapeOf (k.shape o.b)
    c := shapeOf (k.shape o.c), vb := if o.xb.isSome then v0 v else 0
    vc := if o.xb.isSome then v1 v else v0 v }

/-- A tensor operation on the special-function unit, whose chunks it serves one at a time in turn with the other requests of
its core (R175, R231). -/
def TOp.onSfu (o : TOp) : Bool := match o.kind with | .sfu _ _ _ => true | _ => false

/-- One turn of a tensor instruction: at its issue the checks, then a chunk; a chunk that is not the last leaves the strand
waiting at the instruction with its resume index, the last plans the completion (R231, R232). -/
def tensorBody (h : Hdr) (o : TOp) (v : List Word) (s : State) : Body :=
  let c := s.cur
  let x := s.actor
  let e := o.env s c x v
  match (if s.me.busy then none else s.tCheck o e) with
  | some t => .ofTrap s t
  | none =>
    if o.onSfu && !(s.core c).sfuTurn x then .wait (s.onCore c (·.sfuAsk x)) else
    let s := if o.onSfu then s.onCore c (·.sfuTake x none) else s
    let k := s.ctx c x
    let (r, bad) := runChunk o e ⟨s.settle c, k.ri, k.status, k.total⟩
    let keep := fun (k : Ctx) => { k with ri := r.ri, status := r.st, total := r.total }
    match bad with
    | some t => .ofTrap (r.s.onCtx c x keep) t
    | none =>
      if r.ri < o.count e then .wait (r.s.onCtx c x fun k => { keep k with busy := true })
      else
        .wait ((r.s.onCtx c x fun k => { keep k with
          busy := true, fin := some ⟨e.d.stat, k.pc + 16, h.wait.toNat, false, o.srcs⟩ }).plan (.tensorCompletion c x))

def tensor (h : Hdr) (o : TOp) (s : State) : Res := .next (s.issue .any h 16 o.srcs [] (tensorBody h o))

/-- The strand goes on after a tensor or matrix instruction, which pops its queue registers as it completes (R53); its
completion edge is kept for its next ENGREND (R128). -/
def State.goOn (s : State) (c x : Nat) (f : Fin) : State :=
  ((s.popAll c x f.pops).onCtx c x fun k => { k with
    fin := none, busy := false, woken := false, ri := 0, status := 0, total := 0, pc := f.pc, stall := f.wait
    eng := k.eng ||| k.summ }).onCore c fun k => { k with issued := k.issued + 1 }

/-- A tensor operation's completion: its status word is written and the strand goes on (R230, R231). -/
def State.tensorDone (s : State) (c x : Nat) : State :=
  let k := s.ctx c x
  match k.fin with
  | none => s
  | some f =>
    if f.mx then s
    else match s.putStatus c x f.stat k.status with
      | .error e => (s.onCtx c x fun k => { k with fin := none }).takeTrap c x e.1 e.2.1 e.2.2
      | .ok s1 => s1.goOn c x f

/-- TENSOR_COMPLETION (R231). -/
def execTensorCompletion (core ctx : Nat) (s : State) : Res := .next (s.tensorDone core ctx)

/-- A TELEM form with sources A and B. -/
def tAB (op : Nat) (xa : Opnd) (sd s1 s2 : Shp) (bsc : Bool) (cty : Ty) (rm : BitVec 2) (satm arith : Bool) : TOp :=
  ⟨.lanes op cty rm.toNat satm arith, sd, s1, s2, 0, true, true, false, if bsc then some xa else none, none⟩

/-- A form with source A alone. -/
def tA (k : TKind) (sd s1 : Shp) : TOp := ⟨k, sd, s1, 0, 0, true, false, false, none, none⟩

/-- A form with sources A and B, its B perhaps a scalar. -/
def tKB (k : TKind) (xa : Opnd) (sd s1 s2 : Shp) (bsc : Bool) : TOp :=
  ⟨k, sd, s1, s2, 0, true, true, false, if bsc then some xa else none, none⟩

/-- TFMA's operation. -/
def tFma (xa xb : Opnd) (sd s1 s2 s3 : Shp) (bsc csc : Bool) (cty : Ty) (rm : BitVec 2) : TOp :=
  ⟨.lanes 3 cty rm.toNat false false, sd, s1, s2, s3, true, true, true, if bsc then some xa else none,
    if csc then some xb else none⟩

/-- A form with three shapes as sources or outputs beside D. -/
def tABC (k : TKind) (sd s1 s2 s3 : Shp) : TOp := ⟨k, sd, s1, s2, s3, true, true, true, none, none⟩

/-- TFILL's operation: its register stands in B's place. -/
def tFill (xa : Opnd) (sd : Shp) : TOp := ⟨.fill, sd, 0, 0, 0, false, false, false, some xa, none⟩

/-- TSFU's operation: only FDIV reads B (R240). -/
def tSfu (xa : Opnd) (sd s1 s2 : Shp) (bsc : Bool) (cty : Ty) (rm : BitVec 2) (fn : BitVec 4) : TOp :=
  if fn = 0 then tKB (.sfu 0 cty rm.toNat) xa sd s1 s2 bsc else tA (.sfu fn.toNat cty rm.toNat) sd s1

def execTadd (h : Hdr) (xa : Opnd) (sd s1 s2 : BitVec 4) (bsc : Bool) (cty : Ty) (rm : BitVec 2) (satm : Bool) (s : State) : Res :=
  tensor h (tAB 0 xa sd s1 s2 bsc cty rm satm false) s
def execTsub (h : Hdr) (xa : Opnd) (sd s1 s2 : BitVec 4) (bsc : Bool) (cty : Ty) (rm : BitVec 2) (satm : Bool) (s : State) : Res :=
  tensor h (tAB 1 xa sd s1 s2 bsc cty rm satm false) s
def execTmul (h : Hdr) (xa : Opnd) (sd s1 s2 : BitVec 4) (bsc : Bool) (cty : Ty) (rm : BitVec 2) (satm : Bool) (s : State) : Res :=
  tensor h (tAB 2 xa sd s1 s2 bsc cty rm satm false) s
def execTfma (h : Hdr) (xa xb : Opnd) (sd s1 s2 s3 : BitVec 4) (bsc csc : Bool) (cty : Ty) (rm : BitVec 2) (s : State) : Res :=
  tensor h (tFma xa xb sd s1 s2 s3 bsc csc cty rm) s
def execTmin (h : Hdr) (xa : Opnd) (sd s1 s2 : BitVec 4) (bsc : Bool) (cty : Ty) (rm : BitVec 2) (s : State) : Res :=
  tensor h (tAB 4 xa sd s1 s2 bsc cty rm false false) s
def execTmax (h : Hdr) (xa : Opnd) (sd s1 s2 : BitVec 4) (bsc : Bool) (cty : Ty) (rm : BitVec 2) (s : State) : Res :=
  tensor h (tAB 5 xa sd s1 s2 bsc cty rm false false) s
def execTabs (h : Hdr) (sd s1 : BitVec 4) (cty : Ty) (rm : BitVec 2) (satm : Bool) (s : State) : Res :=
  tensor h (tA (.lanes 6 cty rm.toNat satm false) sd s1) s
def execTneg (h : Hdr) (sd s1 : BitVec 4) (cty : Ty) (rm : BitVec 2) (satm : Bool) (s : State) : Res :=
  tensor h (tA (.lanes 7 cty rm.toNat satm false) sd s1) s
def execTand (h : Hdr) (xa : Opnd) (sd s1 s2 : BitVec 4) (bsc : Bool) (cty : Ty) (rm : BitVec 2) (s : State) : Res :=
  tensor h (tAB 8 xa sd s1 s2 bsc cty rm false false) s
def execTor (h : Hdr) (xa : Opnd) (sd s1 s2 : BitVec 4) (bsc : Bool) (cty : Ty) (rm : BitVec 2) (s : State) : Res :=
  tensor h (tAB 9 xa sd s1 s2 bsc cty rm false false) s
def execTxor (h : Hdr) (xa : Opnd) (sd s1 s2 : BitVec 4) (bsc : Bool) (cty : Ty) (rm : BitVec 2) (s : State) : Res :=
  tensor h (tAB 10 xa sd s1 s2 bsc cty rm false false) s
def execTshl (h : Hdr) (xa : Opnd) (sd s1 s2 : BitVec 4) (bsc : Bool) (cty : Ty) (rm : BitVec 2) (s : State) : Res :=
  tensor h (tAB 11 xa sd s1 s2 bsc cty rm false false) s
def execTshr (h : Hdr) (xa : Opnd) (sd s1 s2 : BitVec 4) (bsc : Bool) (cty : Ty) (rm : BitVec 2) (arith : Bool) (s : State) : Res :=
  tensor h (tAB 12 xa sd s1 s2 bsc cty rm false arith) s
def execTcvt (h : Hdr) (sd s1 : BitVec 4) (rm : BitVec 2) (s : State) : Res := tensor h (tA (.cvt rm.toNat) sd s1) s
def execTsplit3 (h : Hdr) (shi sx smid slo : BitVec 4) (s : State) : Res := tensor h (tABC .split shi sx smid slo) s
def execTred (h : Hdr) (sd s1 : BitVec 4) (cty : Ty) (rm op : BitVec 2) (s : State) : Res :=
  tensor h (tA (.red op.toNat cty rm.toNat) sd s1) s
def execTcmp (h : Hdr) (xa : Opnd) (sd s1 s2 : BitVec 4) (bsc : Bool) (cty : Ty) (rm : BitVec 2) (rel : BitVec 3) (q : Bool) (s : State) : Res :=
  tensor h (tKB (.cmp cty rel.toNat q rm.toNat) xa sd s1 s2 bsc) s
def execTsel (h : Hdr) (sd s1 s2 s3 : BitVec 4) (s : State) : Res := tensor h (tABC .sel sd s1 s2 s3) s
def execTgath (h : Hdr) (sd s1 s2 : BitVec 4) (s : State) : Res := tensor h (tKB .gath 0 sd s1 s2 false) s
def execTscat (h : Hdr) (sd s1 s2 : BitVec 4) (s : State) : Res := tensor h (tKB .scat 0 sd s1 s2 false) s
def execTfill (h : Hdr) (xa : Opnd) (sd : BitVec 4) (s : State) : Res := tensor h (tFill xa sd) s
def execTcopy (h : Hdr) (sd s1 : BitVec 4) (s : State) : Res := tensor h (tA .copy sd s1) s
def execTsfu (h : Hdr) (xa : Opnd) (sd s1 s2 : BitVec 4) (bsc : Bool) (cty : Ty) (rm : BitVec 2) (fn : BitVec 4) (s : State) : Res :=
  tensor h (tSfu xa sd s1 s2 bsc cty rm fn) s

end Sys2Proof.Machine
end

