-- ==== Sys2Proof/Machine/Matrix.lean ====
section
/-! DEFINITION. The matrix engine: major 0x30 (R81-R83, R241-R254), and MATRIX_COMPLETION. -/

namespace Sys2Proof.Machine

/-! ### The engine's parts -/

/-- One core's matrix engine changed. -/
def State.onMx (s : State) (c : Nat) (f : Matrix → Matrix) : State := s.onCore c fun k => { k with mx := f k.mx }

def State.mx (s : State) (c : Nat) : Matrix := (s.core c).mx

/-- What MMZ clears: the accumulator, its class, the latches and the pending status (R246). -/
def Matrix.clear (m : Matrix) : Matrix := { m with acc := [], cls := 0, rowL := [], colL := [], status := 0 }

/-- The engines a context's matrix instruction acts on: its core's, and those of the gang it leads (R245). -/
def State.members (s : State) (c : Nat) : List Nat := (List.range (max 1 (s.mx c).gang)).map (c + ·)

/-- A strand owns an engine: its number and its partition match (R244). -/
def State.owns (s : State) (m sid p : Nat) : Bool := (s.mx m).owner == some sid && (s.mx m).lastPart == some p

/-! ### Claims (R244, R361) -/

/-- The name under which a strand's solve waits for engines, beside the strand's own. -/
def solveName (sid : Nat) : Nat := 4096 + sid

/-- A strand recorded as waiting still waits: it is READY at the same instruction and may issue; a solve, while it has yet to
claim its gang (R269). -/
def State.stillWaits (s : State) (w : Nat × Word) : Bool :=
  let c := w.1 % 4096 / 16
  let x := w.1 % 16
  if w.1 < 4096 then
    let k := s.ctx c x
    k.st == .ready && k.pc == w.2 && !k.gated && !(s.core c).halted && !((s.core c).frozen && x != 0)
  else
    let r := (s.slice (sliceOf c)).rf
    r.phase == 1 && r.core == c && r.ctx == x && !r.stopped && r.part == s.partOf c

/-- Whether a strand comes first among those that wait for a released engine: round-robin by context number, starting
after the releasing context. -/
def State.nextClaim (s : State) (m sid : Nat) : Bool :=
  let v := s.mx m
  let rank := fun (i : Nat) => (i % 16 + 15 - v.lastRel) % 16
  (v.waiters.filter s.stillWaits).all fun w => decide (rank sid ≤ rank w.1)

/-- The bytes of an element of a format word. -/
def opBytes (d : Word) : Nat := (efmt d).bytes

/-- The key of an engine's contents kept for a swapped-out partition. -/
def spillKey (p m : Nat) : Nat := p * 256 + m

/-- An engine's contents as the spill area holds them: the array row by row, then the accumulator (R363; log entry 108). -/
def Matrix.spillBytes (v : Matrix) : List Byte :=
  let wide := decide (v.cls = 2) && (v.b.elim false fun b => opBytes b.fmt == 2)
  (List.range 49152).map (fun i =>
    if wide then .ofNat 8 (v.array.get 0 (i / 192 * 192 + i % 192 / 2) / 256 ^ (i % 2)) else .ofNat 8 (v.array.get 0 i)) ++
  (List.range 36864).flatMap fun i => toBytes 4 (v.acc.get 0 i).toNat

/-- An engine that another partition used, made ready for a claim by partition `p`: its owner's contents go to the spill
area, then the partition's own come back, or the engine is cleared (R244, R361). -/
def State.handOver (s : State) (m p : Nat) : State :=
  let v := s.mx m
  if v.lastPart = some p then s
  else
    let s1 := match v.owner, v.lastPart with
      | some _, some q =>
        { s with mxSpill := s.mxSpill.put (spillKey q m) v }.homeWrite q false (s.spillBase q m) v.spillBytes (byStrand m 0)
      | _, _ => s
    match s1.mxSpill.find (spillKey p m) with
    | some w => ({ s1 with mxSpill := s1.mxSpill.del (spillKey p m) }).onMx m fun v => {
        w with lastPart := some p, waiters := v.waiters, err := v.err }
    | none => s1.onMx m fun v => { Matrix.reset with
        lastPart := some p, lastRel := v.lastRel, waiters := v.waiters, err := v.err }

/-- A strand of partition `p` claims an engine, or waits for it (none). -/
def State.claim (s : State) (m sid p : Nat) : Option State :=
  if s.owns m sid p then some s
  else if (s.mx m).lastPart = some p ∧ (s.mx m).owner.isSome then none
  else
    let s1 := s.handOver m p
    match (s1.mx m).owner with
    | some o => if o = sid then some s1 else none
    | none =>
      if s1.nextClaim m sid then
        some (s1.onMx m fun v => { v with owner := some sid, gang := 1, waiters := v.waiters.filter (·.1 != sid) })
      else none

/-- Claims several engines at once. -/
def State.claimAll (s : State) (sid p : Nat) : List Nat → Option State
  | [] => some s
  | m :: ms => (s.claim m sid p).bind fun s1 => s1.claimAll sid p ms

/-- A strand claims a core's engine and, where a swap took them, the engines of the gang it leads. -/
def State.claimGang (s : State) (c sid p : Nat) : Option State :=
  (s.claim c sid p).bind fun s1 => s1.claimAll sid p (s1.members c)

/-- A strand joins those that wait for an engine. -/
def State.awaitMx (s : State) (m sid : Nat) (pc : Word) : State :=
  s.onMx m fun v => { v with waiters := v.waiters.filter (·.1 != sid) ++ [(sid, pc)] }

/-- An engine is released by a context (R244). -/
def State.release (s : State) (x : Nat) (ms : List Nat) : State :=
  ms.foldl (init := s) fun a m => a.onMx m fun v => { v with owner := none, gang := 1, lastRel := x, run := none }

/-- A CPYMM of a strand whose matrix command is still to complete (R253, R259). -/
def State.mxPending (s : State) (c x : Nat) : Bool :=
  (s.core c).copies.any fun e => e.2.ctx == x && e.2.part == s.partOf c && e.2.form == 2 && decide (e.2.phase < 3)

/-- The key of a strand's operation at an engine. -/
def runStrand (c x : Nat) : Nat := sidOf c x

/-- Another operation is in progress at an engine. -/
def State.mxBusy (s : State) (m key : Nat) : Bool := (s.mx m).run.elim false (· != key)

/-! ### K-groups (R81-R83) -/

/-- The class of an operand format: 0 8-bit integer, 1 8-bit float, 2 16-bit float (R242). -/
def opClass : EFmt → Option Nat
  | .narrow _ => some 1
  | .ty .i8 => some 0
  | .ty .n8 => some 0
  | .ty .m8 => some 0
  | .ty .bf16 => some 2
  | .ty .f16 => some 2
  | .ty _ => none

/-- The columns of a class on one core, and its bit-serial width (R242). -/
def classCols (k : Nat) : Nat := if k = 2 then 96 else 192
def classW (k : Nat) : Nat := if k = 2 then 16 else 8

/-- The float format of an operand. -/
def EFmt.fmt : EFmt → Fmt
  | .ty t => fmtOf t
  | .narrow d => narrowFmt d

/-- Exp, Sig and Sign of an element (R81). -/
def expSig (f : Fmt) (code : Nat) : Int × Nat × Bool :=
  let fr := code % 2 ^ f.mw
  let ex := code / 2 ^ f.mw % 2 ^ f.ew
  (if ex = 0 then 1 - f.bias else (ex : Int) - f.bias, if ex = 0 then fr else 2 ^ f.mw + fr, f.sg && code.testBit (f.mw + f.ew))

/-- Align of R81: the signed integers, and the largest exponent. -/
def alignGroup (f : Fmt) (w : Nat) (v : List Nat) : List Int × Int :=
  let es := v.map (expSig f)
  let emax := es.foldl (fun a e => max a e.1) (1 - f.bias)
  (es.map fun e =>
    let m : Nat := e.2.1 * 2 ^ (w - 2) / 2 ^ ((f.mw : Int) + (emax - e.1)).toNat
    if e.2.2 then -(m : Int) else (m : Int), emax)

/-- The sum of products of two lists. -/
def dot : List Int → List Int → Int
  | a :: as, b :: bs => a * b + dot as bs
  | _, _ => 0

/-- A float group's sum with its flags (R81, R82). -/
def groupSum (fa fb : Fmt) (w : Nat) (a b : List Nat) : Nat × Nat :=
  let va := a.map fa.value
  let vb := b.map fb.value
  let wild := fun (v : FVal) => match v with | .fin _ _ _ => false | _ => true
  if va.any wild || vb.any wild then
    if va.any FVal.isNan || vb.any FVal.isNan then (fmtF32.nanCode, fNV)
    else
      let ps := ((va.zip vb).map fun p => (fMul p.1 p.2).1).filter wild
      if ps.any FVal.isNan || (ps.any FVal.sign && ps.any fun p => !p.sign) then (fmtF32.nanCode, fNV)
      else (fmtF32.infCode (ps.any FVal.sign), 0)
  else
    let (ma, ea) := alignGroup fa w a
    let (mb, eb) := alignGroup fb w b
    let t := dot ma mb
    fmtF32.round false 0 (decide (t < 0)) t.natAbs (ea + eb - 2 * ((w - 2 : Nat) : Int)) false

/-- An accumulator entry after one group: its new value, flags and saturations (R81, R83). -/
def accGroup (cl : Nat) (ea eb : EFmt) (a b : List Nat) (acc : Nat) : Nat × Nat × Nat :=
  match cl, ea, eb with
  | 0, .ty ta, .ty tb =>
    let t := sgn 32 acc + dot (a.map (intVal ta)) (b.map (intVal tb))
    let r := intSat .i32 t
    (r.1, 0, b2n r.2)
  | _, _, _ =>
    let g := groupSum ea.fmt eb.fmt (classW cl) a b
    let r := fmtF32.add 0 acc g.1
    (r.1, g.2 ||| r.2, 0)

/-- An entry after every group of a row, in ascending K. -/
def accRow (cl : Nat) (ea eb : EFmt) (a b : List Nat) : Nat → Nat → Nat × Nat × Nat
  | 0, acc => (acc, 0, 0)
  | q + 1, acc =>
    let r := accRow cl ea eb a b q acc
    let grp := fun (l : List Nat) => let g := (l.drop (32 * q)).take 32; g ++ List.replicate (32 - g.length) 0
    let t := accGroup cl ea eb (grp a) (grp b) r.1
    (t.1, r.2.1 ||| t.2.1, r.2.2 + t.2.2)

/-! ### Operations and their checks -/

/-- A matrix operation on a shape. -/
inductive MOp where
  | ldb
  | mma (arow : Nat)
  | st (rm arow acol : Nat)
  deriving DecidableEq, Repr

/-- What each operation adds to step 1 of R225; that MMA's K is at most 256 is tested there (R248; log entry 132). -/
def MOp.formOk (o : MOp) (sh : Shape) : Bool :=
  let flat := sh.e2 == 1 && sh.e3 == 1
  match o with
  | .ldb => match opClass sh.f with
    | none => false
    | some k => flat && decide (sh.e0 ≤ classCols k) && decide (sh.e1 ≤ 256) && sh.mode != 2 && sh.stat == 0
  | .mma r => (opClass sh.f).isSome && flat && decide (sh.e0 ≤ 256) && decide (r + sh.e1 ≤ 192) && sh.mode != 3 && sh.stat == 0
  | .st _ r c => flat && decide (r + sh.e1 ≤ 192) && decide (c + sh.e0 ≤ 192)

/-- The cores whose scratchpads tag 0xC of an operation's shape names: the leader's for A, each member's otherwise (R245). -/
def MOp.cores (o : MOp) (ms : List Nat) : List Nat := match o with | .mma _ => ms.take 1 | _ => ms

/-- The checks at issue that do not depend on the engine. -/
def State.mCheck (s : State) (ms : List Nat) (x : Nat) (o : MOp) (sh : Shape) : Option TrapE :=
  s.checkShapes (o.cores ms) x false (o.formOk sh) [(sh, match o with | .st _ _ _ => true | _ => false)]

/-- The scale of row `r` or column `r` of an operand: none without one (R249). -/
def State.scaleOf (s : State) (c x : Nat) (sh : Shape) (r : Nat) : Except TrapE (Option (BitVec 32)) := do
  match (← s.elemScale c x sh ⟨r, r, 0, 0⟩) with
  | none => .ok none
  | some v => .ok (some (.ofNat 32 v))

/-- A scale agrees with what a latch holds. -/
def latchOk (l : NMap (Option (BitVec 32))) (i : Nat) (v : Option (BitVec 32)) : Bool :=
  match l.find i with
  | none => true
  | some w => v == w

/-- The checks of MMA that depend on the engine (R242, R249): a resident B of the same K, classes, and scales. -/
def State.mmaOk (s : State) (ms : List Nat) (x arow : Nat) (sh : Shape) : Bool :=
  match opClass sh.f with
  | none => false
  | some k => ms.all fun m =>
    let v := s.mx m
    match v.b with
    | none => false
    | some b =>
      let cl : BitVec 2 := if k = 0 then 1 else 2
      b.k == sh.e0 && opClass (efmt b.fmt) == some k && (v.cls == 0 || v.cls == cl) &&
      (List.range sh.e1).all (fun r => match s.scaleOf (ms.headD 0) x sh r with
        | .ok w => latchOk v.rowL (arow + r) w
        | .error _ => true) &&
      (List.range b.n).all fun j => latchOk v.colL j (nth none b.scale j)

/-- The engine checks of an operation. -/
def State.mReady (s : State) (ms : List Nat) (x : Nat) (o : MOp) (sh : Shape) : Bool :=
  match o with | .mma r => s.mmaOk ms x r sh | _ => true

/-! ### Effects (R247-R251) -/

/-- The engine reads a sector whole, once, for an operation: what it has read stays as it was (R131). -/
def State.mxSector (s : State) (c sec : Nat) : State × BitVec 128 :=
  match (s.mx c).seen.find sec with
  | some d => (s, d)
  | none => (s.onMx c fun v => { v with seen := v.seen.put sec (s.homeSector sec) }, s.homeSector sec)

/-- A row of codes of a shape, read for the engine of core `c` sector by sector. -/
def State.codes (s : State) (c x : Nat) (sh : Shape) (row : Nat) : Nat → Except TrapE (State × List Nat)
  | 0 => .ok (s, [])
  | n + 1 => do
    let (s1, vs) ← s.codes c x sh row n
    let k ← s1.scrAt c x (sh.addr ⟨n, row, 0, 0⟩) sh.z
    let (s2, d) := s1.mxSector c (k / 16)
    .ok (s2, vs ++ [d.toNat / 2 ^ (8 * (k % 16)) % 2 ^ (8 * sh.z) % 2 ^ sh.f.bits])

/-- The key of an array cell. -/
def cellKey (k j : Nat) : Nat := k * 192 + j

/-- A K row of B enters a member's array; the first row empties it (R247). No B stands from then until the load ends (log
entry 126). -/
def State.ldbRow (s : State) (x : Nat) (sh : Shape) (k m : Nat) : Except TrapE State := do
  let (s1, vs) ← s.codes m x sh k sh.e0
  .ok (s1.onMx m fun v =>
    let a0 := if k = 0 then [] else v.array
    { v with
      b := none
      array := (List.range vs.length).foldl (init := a0) fun a j => a.put (cellKey k j) (nth 0 vs j) })

/-- The B scales of a member's columns. -/
def State.colScales (s : State) (x : Nat) (sh : Shape) (m : Nat) : Nat → Except TrapE (List (Option (BitVec 32)))
  | 0 => .ok []
  | n + 1 => do
    let vs ← s.colScales x sh m n
    let v ← s.scaleOf m x sh n
    .ok (vs ++ [v])

/-- The last row is in: the B descriptor stands (R247). -/
def State.ldbDone (s : State) (x : Nat) (sh : Shape) (m : Nat) : Except TrapE State := do
  let sc ← s.colScales x sh m sh.e0
  .ok (s.onMx m fun v => { v with b := some ⟨sh.e1, sh.e0, sh.fmt, sc⟩ })

/-- Over the members, in ascending number, until one fails. -/
def onMembers (f : State → Nat → Except TrapE State) (s : State) : List Nat → Except TrapE State
  | [] => .ok s
  | m :: ms => do
    let s1 ← f s m
    onMembers f s1 ms

/-- A row of products enters a member's accumulator (R248). -/
def Matrix.addRow (v : Matrix) (cl : Nat) (fa : EFmt) (a : List Nat) (i : Nat) : Matrix :=
  match v.b with
  | none => v
  | some b =>
    let eb := efmt b.fmt
    (List.range b.n).foldl (init := v) fun v j =>
      let col := (List.range b.k).map fun k => v.array.get 0 (cellKey k j)
      let r := accRow cl fa eb a col (ceilDiv b.k 32) (v.acc.get 0 (i * 192 + j)).toNat
      { v with acc := v.acc.putD 0 (i * 192 + j) (.ofNat 32 r.1), status := note v.status (i * 192 + j) r.2.1 r.2.2 }

/-- The latches an MMA sets for a row (R249), and the accumulator class. -/
def Matrix.latch (v : Matrix) (cl i : Nat) (rs : Option (BitVec 32)) : Matrix :=
  match v.b with
  | none => v
  | some b =>
    { v with
      cls := if cl = 0 then 1 else 2
      rowL := if (v.rowL.find i).isSome then v.rowL else v.rowL.put i rs
      colL := (List.range b.n).foldl (init := v.colL) fun l j =>
        if (l.find j).isSome then l else l.put j (nth none b.scale j) }

/-- A status word with one more rerun, and with UE when the rerun failed (R250). -/
def rerunNote (st : BitVec 128) (err : Nat) : BitVec 128 :=
  if err = 0 then st
  else
    let st1 := setFld st 16 2 (min 3 (fld st 16 2 + 1))
    if err = 2 then setFld st1 15 1 1 else st1

/-- CheckRow and a row's update at one member (R248, R250): a row that updates nothing latches no scale, but an MMA sets the
class (R249). -/
def Matrix.mmaRow (v : Matrix) (cl : Nat) (fa : EFmt) (a : List Nat) (i : Nat) (rs : Option (BitVec 32)) : Matrix :=
  let v2 := if v.err = 2 then { v with cls := if cl = 0 then 1 else 2 } else (v.latch cl i rs).addRow cl fa a i
  { v2 with row := a, status := rerunNote v2.status v.err, err := 0 }

/-- Row `r` of an MMA: A is read at the leader and used by every member. -/
def State.mmaRow (s : State) (ms : List Nat) (x arow : Nat) (sh : Shape) (r : Nat) : Except TrapE State := do
  let c := ms.headD 0
  let (s1, a) ← s.codes c x sh r sh.e0
  let rs ← s1.scaleOf c x sh r
  let cl := (opClass sh.f).getD 0
  .ok (ms.foldl (init := s1) fun t m => t.onMx m fun v => v.mmaRow cl sh.f a (arow + r) rs)

/-- Element `n` of an MMST at one member: the state and the flags, indexed in the accumulator (R251). -/
def State.stElem (s : State) (x rm arow acol : Nat) (sh : Shape) (n m : Nat) : Except TrapE (State × Nat × Nat × Nat) := do
  let r := n / sh.e0
  let c := n % sh.e0
  let i := arow + r
  let j := acol + c
  let v := s.mx m
  let t0 : TV := ⟨.ty (if v.cls = 1 then .i32 else .f32), (v.acc.get 0 (i * 192 + j)).toNat⟩
  let scale := fun (t : TV × Nat) (l : Option (Option (BitVec 32))) => match l with
    | some (some w) => let u := t.1.timesScale w.toNat; (u.1, t.2 ||| u.2)
    | _ => t
  let t1 := scale (scale (t0, 0) (v.rowL.find i)) (v.colL.find j)
  let (s1, fd, cd) ← s.putElem m x sh ⟨c, r, 0, 0⟩ rm t1.1 false
  .ok (s1, i * 192 + j, t1.2 ||| fd, cd)

/-- Element `n` at every member; the leader's flags go to `st`, another member's stay with its engine. -/
def State.stAll (x rm arow acol : Nat) (sh : Shape) (n : Nat) : Nat → State → BitVec 128 → List Nat → Except TrapE (State × BitVec 128)
  | _, s, st, [] => .ok (s, st)
  | i, s, st, m :: ms => do
    let (s1, ix, fl, sat) ← s.stElem x rm arow acol sh n m
    if i = 0 then State.stAll x rm arow acol sh n 1 s1 (note st ix fl sat) ms
    else State.stAll x rm arow acol sh n 1 (s1.onMx m fun v => { v with part := note v.part ix fl sat }) st ms

/-- How many steps an operation has: K rows of B, A rows, or stored elements. -/
def MOp.count (o : MOp) (sh : Shape) : Nat :=
  match o with
  | .ldb => sh.e1
  | .mma _ => sh.e1
  | .st _ _ _ => sh.e0 * sh.e1

/-- Step `n` of an operation. -/
def State.mStep (s : State) (ms : List Nat) (x : Nat) (o : MOp) (sh : Shape) (n : Nat) (st : BitVec 128) :
    Except TrapE (State × BitVec 128) :=
  match o with
  | .ldb => do
    let s1 ← onMembers (fun t m => t.ldbRow x sh n m) s ms
    if n + 1 < sh.e1 then .ok (s1, st)
    else do
      let s2 ← onMembers (fun t m => t.ldbDone x sh m) s1 ms
      .ok (s2, st)
  | .mma arow => do
    let s1 ← s.mmaRow ms x arow sh n
    .ok (s1, st)
  | .st rm arow acol =>
    let s1 := if n = 0 then ms.foldl (init := s) fun t m => t.onMx m fun v => { v with part := 0 } else s
    State.stAll x rm arow acol sh n 0 s1 st ms

/-- Steps from `ri` on, up to `fuel` of them, until one fails. -/
def mRun (ms : List Nat) (x : Nat) (o : MOp) (sh : Shape) : Nat → TRun → TRun × Option TrapE
  | 0, r => (r, none)
  | f + 1, r =>
    match r.s.mStep ms x o sh r.ri r.st with
    | .error t => (r, some t)
    | .ok (s1, st) => mRun ms x o sh f { r with s := s1, ri := r.ri + 1, st := st }

/-- The sector of a stored element. -/
def Shape.sector (sh : Shape) (n : Nat) : Nat := (sh.addr ⟨n % sh.e0, n / sh.e0, 0, 0⟩).toNat / 16

/-- One of the elements from `b` on, of `total`, lies in a sector of one of the elements from `a` up to `b`. -/
def Shape.splits (sh : Shape) (a b total : Nat) : Bool :=
  (List.range (total - b)).any fun i => (List.range (b - a)).any fun j => sh.sector (a + j) == sh.sector (b + i)

/-- How many elements must follow the elements from `a` up to `b`, so that no sector of theirs is left in part. -/
def Shape.restOf (sh : Shape) (a total : Nat) : Nat → Nat → Nat
  | 0, _ => 0
  | f + 1, b => if sh.splits a b total then 1 + sh.restOf a total f (b + 1) else 0

/-- The steps that one issue makes from step `ri` on: a row, or 512 stored elements and what their sectors still take, so that
each sector is written whole, in whatever order the elements lie (R131). -/
def MOp.steps (o : MOp) (sh : Shape) (ri : Nat) : Nat :=
  let rest := o.count sh - ri
  match o with
  | .st _ _ _ => if rest ≤ 512 then rest else 512 + sh.restOf ri (o.count sh) (rest - 512) (ri + 512)
  | _ => min 1 rest

/-- The members whose next row will not be mended by a rerun (R250). -/
def State.ueBefore (s : State) (ms : List Nat) : List Nat := ms.filter fun m => (s.mx m).err == 2

/-- The machine-check records of a row: each member core, the accumulator row and the MMA's address (R250, R393). -/
def State.machineChecks (s : State) (bad : List Nat) (row : Nat) (pc : Word) : State :=
  bad.foldl (init := s) fun a m =>
    a.event (srcCore m) 1 (.ofNat 128 (row + pc.toNat * 2 ^ 64))

/-- Runs a chunk, raising the machine checks of R250. -/
def State.mChunk (s : State) (ms : List Nat) (x : Nat) (o : MOp) (sh : Shape) (pc : Word) (ri : Nat) (st : BitVec 128) :
    TRun × Option TrapE :=
  let bad := match o with | .mma _ => s.ueBefore ms | _ => []
  let (r, e) := mRun ms x o sh (o.steps sh ri) ⟨s, ri, st, 0⟩
  let row := match o with | .mma a => a + ri | _ => 0
  (if r.ri = ri then r else { r with s := r.s.machineChecks bad row pc }, e)

/-- Every member's status word of an MMST: its pending status united with the MMST's flags (R251). -/
def State.stStatus (x : Nat) (a : Word) (st : BitVec 128) : Nat → State → List Nat → Except TrapE State
  | _, s, [] => .ok s
  | i, s, m :: ms => do
    let s1 ← s.putStatus m x a (unite (s.mx m).status (if i = 0 then st else (s.mx m).part))
    State.stStatus x a st 1 s1 ms

/-! ### Instructions -/

/-- A matrix instruction's wait for its engine, its strand's earlier operations, and any other operation there (R244,
R253); then its own part, on the engines it acts on. -/
def withEngine (s : State) (k : State → List Nat → Body) : Body :=
  let c := s.cur
  let x := s.actor
  let sid := sidOf c x
  match s.claimGang c sid (s.partOf c) with
  | none => .wait (s.awaitMx c sid s.me.pc)
  | some s1 => if s1.mxPending c x || s1.mxBusy c (runStrand c x) then .wait s1 else k s1 (s1.members c)

/-- The engines of a strand run an operation, or none: one that begins has read nothing (R131). -/
def State.setRun (s : State) (c : Nat) (r : Option Nat) : State :=
  let s1 := if (s.mx c).run = r then s else (s.members c).foldl (init := s) fun t m => t.onMx m fun v => { v with seen := [] }
  s1.onMx c fun v => { v with run := r }

/-- What a trap at issue leaves: the strand's operation no longer runs, and an engine it had not claimed before stays
unclaimed (R338). -/
def State.mxBack (s : State) : State :=
  if s.owns s.cur (sidOf s.cur s.actor) (s.partOf s.cur) then s.setRun s.cur none else s

/-- The last part of a matrix instruction: its completion is on its way (R253). -/
def finishMx (h : Hdr) (len : Nat) (stat : Word) (s : State) : Body :=
  let c := s.cur
  let x := s.actor
  .wait ((s.onCtx c x fun k => { k with busy := true, fin := some ⟨stat, k.pc + .ofNat 64 len, h.wait.toNat, true, []⟩ }).plan
    (.matrixCompletion c x))

/-- One turn of MMLDB, MMA or MMST: the checks at issue, then a chunk (R247, R248, R251, R254). -/
def matrixBody (h : Hdr) (o : MOp) (n : Shp) (s : State) : Body :=
  withEngine s fun s1 ms =>
    let c := s.cur
    let x := s.actor
    let sh := shapeOf (s1.me.shape n)
    match (if s1.me.busy then none else s1.mCheck ms x o sh) with
    | some t => .ofTrap s.mxBack t
    | none =>
      if !s1.me.busy && !s1.mReady ms x o sh then .operand s.mxBack
      else
        let k := s1.me
        let (r, bad) := ((s1.settle c).setRun c (some (runStrand c x))).mChunk ms x o sh k.pc k.ri k.status
        let s2 := r.s.onCtx c x fun k => { k with ri := r.ri, status := r.st }
        match bad with
        | some t => .ofTrap (s2.setRun c none) t
        | none =>
          if r.ri < o.count sh then .wait (s2.onCtx c x fun k => { k with busy := true })
          else finishMx h 16 (match o with | .st _ _ _ => sh.stat | _ => 0) s2

def execMmldb (h : Hdr) (sb : BitVec 4) (s : State) : Res := .next (s.issue .any h 16 [] [] fun _ s => matrixBody h .ldb sb s)
def execMma (h : Hdr) (sa : BitVec 4) (arow : BitVec 8) (s : State) : Res :=
  .next (s.issue .any h 16 [] [] fun _ s => matrixBody h (.mma arow.toNat) sa s)
def execMmst (h : Hdr) (sc : BitVec 4) (rm : BitVec 2) (arow acol : BitVec 8) (s : State) : Res :=
  .next (s.issue .any h 16 [] [] fun _ s => matrixBody h (.st rm.toNat arow.toNat acol.toNat) sc s)

/-- MMZ on its engines (R246). -/
def State.mmz (s : State) (x : Nat) (ms : List Nat) (rl : Bool) : State :=
  let s1 := ms.foldl (init := s) fun a m => a.onMx m Matrix.clear
  if rl then s1.release x ms else s1
def execMmz (h : Hdr) (rl : Bool) (s : State) : Res :=
  .next (s.issue .any h 8 [] [] fun _ s => withEngine s fun s1 ms => finishMx h 8 0 (s1.mmz s.actor ms rl))

/-- MMGANG (R245): a gang its issuer leads dissolves, then every member is claimed. -/
def mmgang (h : Hdr) (g : Nat) (s : State) : Body :=
  let c := s.cur
  let x := s.actor
  let p := s.partOf c
  if colOf c % g ≠ 0 ∨ ((List.range g).all fun i => s.inPart p (c + i)) = false then .operand s
  else withEngine s fun s1 ms =>
    let s2 := (s1.release x (ms.drop 1)).onMx c fun v => { v with gang := 1 }
    let ns := (List.range g).map (c + ·)
    match s2.claimAll (sidOf c x) p ns with
    | none => .wait (ns.foldl (init := s2) fun a m => if (a.mx m).owner = some (sidOf c x) then a else a.awaitMx m (sidOf c x) s2.me.pc)
    | some s3 => finishMx h 8 0 (ns.foldl (init := s3) fun a m => a.onMx m fun v => { v with gang := if m = c then g else 1 })
def execMmgang (h : Hdr) (gsz : BitVec 2) (s : State) : Res :=
  .next (s.issue .any h 8 [] [] fun _ s => mmgang h (2 ^ gsz.toNat) s)

/-- MATRIX_COMPLETION: an MMST's status words are written, the engine is free for its next operation, and the strand goes
on (R253). -/
def State.matrixDone (s : State) (c x : Nat) : State :=
  let k := s.ctx c x
  match k.fin with
  | none => s
  | some f =>
    if !f.mx then s
    else
      let done := if f.stat = 0 then .ok s else State.stStatus x f.stat k.status 0 s (s.members c)
      match done with
      | .error e => (((s.setRun c none).onCtx c x fun k => { k with fin := none })).takeTrap c x e.1 e.2.1 e.2.2
      | .ok s1 => ((if s1.owns c (sidOf c x) (s1.partOf c) then s1.setRun c none else s1)).goOn c x f
def execMatrixCompletion (core ctx : Nat) (s : State) : Res := .next (s.matrixDone core ctx)

end Sys2Proof.Machine
end

