-- ==== Sys2Proof/Machine/Waits.lean ====
section
/-! DEFINITION. Withdrawing a wait (R208, R342, R352), vectored entries of KIND 0x13 records (R342), engine-fault and
refinement-exit traps (R261, R280), gating (R21), and the events of contexts and dispatchers. -/

namespace Sys2Proof.Machine

/-- A join-cell registration or reservation is taken back: CONT and LINK return to 0 (R208, R213). -/
def State.unjoin (s : State) (c x a : Nat) (hm : Bool) : State :=
  let o := s.obj a
  if o.cont ∧ (o.link = 0 ∨ o.link = parkLink c x) then
    s.setObj (s.partOf c) hm a { o with cont := false, link := 0 } (byStrand c x)
  else s

/-- A strand's wait is withdrawn, and its instruction counts as not issued (R352). -/
def State.withdraw (s : State) (c x : Nat) : State :=
  let k := s.ctx c x
  let s1 := match k.wake with
    | .cell a hm => s.unjoin c x a hm
    | .signal _ hm _ _ => s.unwait (s.partOf c) hm (sidOf c x)
    | .qpop _ => s.unpop c x
    | .pxlock o _ _ => s.onCore o fun v => { v with lockReqs := v.lockReqs.filter (·.1 != sidOf c x) }
    | _ => s
  let s2 := match k.reserved with | some a => s1.unjoin c x a.1 a.2 | none => s1
  ((s2.unwake c x).onCore c (·.unask x)).onCtx c x fun v =>
    { v with wake := .none, grant := none, woken := false, reserved := none }

/-- A context's wait is satisfied, so that its instruction completes before an entry or a save (R342, R352). -/
def State.satisfied (s : State) (c x : Nat) : Bool :=
  (s.ctx c x).grant.isSome || (s.ctx c x).woken || (s.wakePending c x && (s.ctx c x).wake != .waite)

/-- A KIND 0x13 record waiting for its entry makes it: the window is open, TRAPVEC valid, and context 0's instruction is
neither satisfied nor part of the way through (R342). -/
def State.tryEntry (s : State) (c : Nat) : Option State :=
  let k := s.core c
  match k.entryDue with
  | [] => none
  | w :: ws =>
    if k.winOpen && !k.dead && s.vecOk c && !s.satisfied c 0 && !(s.ctx c 0).going && (s.ctx c 0).wake != .waite then
      let s1 := (s.onCore c fun k => { k with entryDue := ws }).withdraw c 0
      some (s1.enterVector c (s1.ctx c 0).pc w)
    else none

/-- VECTORED_ENTRY (R342). -/
def execVectoredEntry (core : Nat) (s : State) : Res := .next ((s.tryEntry core).getD s)

/-- A strand parks before its next unissued instruction on a record an engine or a controller has made (R261, R280). -/
def State.parkTrap (s : State) (c x kind : Nat) (info pc arg : Word) : State :=
  if x = 0 then
    let r := mkRec kind 0 (s.core c).seq info pc arg
    let s1 := s.onCore c fun k => { k with seq := (k.seq + 1) % 65536 }
    if (s.core c).winOpen && s.vecOk c then (s1.enterVector c (s1.ctx c 0).pc (recWord r)).queueRec c r
    else s1.doubleFault c r
  else ((s.onCore c (·.unask x)).onCtx c x fun k => { k with st := .trapped, wake := .none, grant := none, woken := false }).post
    c kind x info pc arg

/-- The records due to a strand before its next unissued instruction: that of its operations that have stopped, those of its
rejected actions, and those of what it has sent and gone on from, a posted access or a signal update, that failed at its
destination. -/
def Ctx.etraps (k : Ctx) : List (BitVec 256) := k.etrap.toList ++ k.rejected

/-- A trap due to a strand is taken: an engine fault's record keeps its operation's address (R261), that of what the
strand has sent names the next instruction (R91, R201; log entry 103). -/
def State.takeEtrap (s : State) (c x : Nat) : Option State :=
  (s.ctx c x).etraps.head?.map fun r =>
    (s.onCtx c x fun k => { k with
      etrap := none, rejected := if k.etrap.isSome then k.rejected else k.rejected.drop 1 }).parkTrap c x (recKind r)
      (.ofNat 64 (fld r 64 64)) (if recKind r = 0x08 then .ofNat 64 (fld r 128 64) else (s.ctx c x).pc) (.ofNat 64 (fld r 192 64))

/-- A refinement-exit trap due to a strand is taken, with the delivered summary refreshed first (R280). Its record's PC is the
next instruction that the strand has not issued (R338; log entry 128). -/
def State.takeRtrap (s : State) (c x : Nat) : Option State :=
  (s.ctx c x).rtrap.map fun t =>
    ((s.onCtx c x fun k => { k with rtrap := none }).refresh c x t.2.2).parkTrap c x 0x09 (.ofNat 64 t.2.1) (s.ctx c x).pc t.1

/-- An engine operation of a strand has stopped: its trap is due at the strand's next turn; one parked in ENGREND takes
it there (R261, R268). Of several that stop before that turn the first is named: the others are given again with it. An
action that its target has `rejected` is not, so that each of those has a trap of its own (R260). -/
def State.engineFault (s : State) (c x : Nat) (rejected : Bool) (info pc arg : Word) : State :=
  let r := mkRec 0x08 x 0 info pc arg
  (s.onCtx c x fun k => if rejected then { k with rejected := k.rejected ++ [r] } else { k with etrap := some (k.etrap.getD r) }).plan
    (.engineFaultTrap c x)

/-- ENGINE_FAULT_TRAP: the issuing strand's turn comes; one parked in ENGREND is ready for it (R261, R268). -/
def execEngineFaultTrap (core ctx : Nat) (s : State) : Res :=
  .next (
    let k := s.ctx core ctx
    if k.etraps = [] then s
    else if k.st = .parked ∧ k.wake = .engrend then s.onCtx core ctx fun k => { k with st := .ready, wake := .none }
    else if k.st = .stopped ∧ k.resume = .parked ∧ k.wake = .engrend then
      s.onCtx core ctx fun k => { k with resume := .ready, wake := .none }
    else s)

/-- WAKE (R24). -/
def execWake (core ctx : Nat) (payload : Word) (delivered : Option Summary) (s : State) : Res :=
  .next (s.wakeCtx core ctx payload delivered)

/-- RESULT_LANDS (R146): a load whose strand has not gone on is performed by then (R107). -/
def execResultLands (core ctx : Nat) (s : State) : Res := .next ((s.reread core ctx).landVar core ctx)

/-- PLACE_HEAD (R41). -/
def execPlaceHead (core : Nat) (s : State) : Res := .next (s.dispatch core)

/-- DIRECT_LIST_APPEND (R209). -/
def execDirectListAppend (core : Nat) (s : State) : Res := .next (s.admitDirect core)

/-- The order in which the power controller removes contexts: free ones, then parked, then the others, the highest
number first; never context 0 (R21). -/
def Core.gateOrder (k : Core) : List Nat :=
  let xs := ((List.range 16).filter fun x => decide (0 < x) && !(k.ctx x).gated).reverse
  let free := fun x => decide ((k.ctx x).st = .free)
  let parked := fun x => decide ((k.ctx x).st = .parked)
  xs.filter free ++ xs.filter parked ++ xs.filter fun x => !free x && !parked x

/-- CONTEXT_GATE (R21). -/
def State.gate (s : State) (c : Nat) : State :=
  match (s.core c).gateOrder with
  | [] => s
  | x :: _ => s.onCtx c x fun k => { k with gated := true }
def execContextGate (core : Nat) (s : State) : Res := .next (s.gate core)

/-- CONTEXT_RESTORE: which gated context returns first the spec does not say (R21; log entry 2). -/
def State.ungate (s : State) (c : Nat) : State :=
  match (List.range 16).filter fun x => ((s.core c).ctx x).gated with
  | [] => s
  | x :: xs => { s with free := s.free + 1 }.onCtx c (nth x (x :: xs) (Config.pick s.free % (xs.length + 1)))
      fun k => { k with gated := false }
def execContextRestore (core : Nat) (s : State) : Res := .next (s.ungate core)

/-- EVICTION_WRITEBACK: a sector leaves the L1, a dirty one's bytes going home (R94). -/
def execEvictionWriteback (core sector : Nat) (s : State) : Res :=
  .next ((s.writeback core sector (byStrand core 0)).dropSector core sector)

end Sys2Proof.Machine
end

