-- ==== Sys2Proof/Machine/Copy.lean ====
section
/-! DEFINITION. The copy engine: major 0x31 (R130, R132, R255-R261), its events, and the rendezvous of ENGREND (R268). -/

namespace Sys2Proof.Machine

/-! ### Rendezvous and faults (R128, R261, R268) -/

/-- Nothing that ENGREND waits for is outstanding: a strand parked in it is woken (R268). -/
def State.rendezvous (s : State) (c x : Nat) : State :=
  let k := s.ctx c x
  if (k.st = .parked ∨ (k.st = .stopped ∧ k.resume = .parked)) ∧ k.wake = .engrend ∧ s.engOut c x = false ∧
      s.wakePending c x = false
  then s.planWake c x 0 none else s

/-- An engine operation of a strand has completed with a summary, kept for the strand's next ENGREND (R128). -/
def State.engineDone (s : State) (c x : Nat) (f : Summary) : State :=
  (s.onCtx c x fun k => { k with eng := k.eng ||| f }).rendezvous c x

/-- INFO of an engine-fault record: the syndrome of a translation fault, else 0, and the resume index (R339). -/
def engInfo (e : TrapE) (ri : Nat) : Word := .ofNat 64 ((if e.1 = kTrans then e.2.1.toNat % 2 ^ 16 else 0) + ri * 2 ^ 16)

/-- ARG of an engine-fault record: the failing address, or 0 (R339). -/
def engArg (e : TrapE) : Word := if e.1 = kOperand then 0 else e.2.2

/-! ### Bytes an engine reads and writes -/

/-- Reads bytes for an engine operation of a partition and address space: global memory through the core's L1 (R126). -/
def State.engRead (s : State) (p as c x : Nat) (a : Word) (n : Nat) : State × Except TrapE Nat :=
  match s.placeIn p as c x a n n 0 3 with
  | (s1, .error e) => (s1, .error e)
  | (s1, .ok pl) => let (s2, v) := s1.loadAt c x pl n; (s2, .ok v)

/-- Writes bytes of one sector for an engine operation: the core's own copy of a global sector goes home and is dropped
first (R130). Only a strand's stores are counted toward another device (R120). -/
def State.engWrite (s : State) (p c x : Nat) (pl : Place) (bs : List Byte) (writer : Word) : State :=
  ((s.clearSector c x pl.key).drain c pl.hm pl.key).writeAt p pl.hm pl.key bs writer

/-- Writes bytes anywhere for an engine operation, sector by sector; the regions written, and a fault with what was
written before it. -/
def State.engStore (s : State) (p as c x : Nat) (writer : Word) : List (Nat × Nat) → List Byte → Summary → State × Summary × Option TrapE
  | [], _, f => (s, f, none)
  | (a, n) :: ps, bs, f =>
    match s.placeIn p as c x (.ofNat 64 a) n 1 1 3 with
    | (s1, .error e) => (s1, f, some e)
    | (s1, .ok pl) =>
      (s1.engWrite p c x pl (bs.take n) writer).engStore p as c x writer ps (bs.drop n) (f ||| pl.region)

/-! ### Requests and their checks at issue (R257) -/

/-- A completion action's target, checked at issue (R195, R200, R257, R263). A node is held to R263's test for the issuing
core (log entry 127). -/
def State.actionBad (s : State) (c x p as act : Nat) (target : Word) : Option TrapE :=
  match act with
  | 1 => match s.mailName p target with
    | .error e => some (engFault e target)
    | .ok _ => none
  | 2 =>
    if target.toNat % 256 ≠ 0 then some (kAlign, 0, target)
    else if fld target 60 4 ≠ 0 ∧ fld target 60 4 ≠ 0xE then some (engFault 1 target)
    else match s.placeIn p as c x target 256 256 1 3 with
      | (_, .error e) => some e
      | (_, .ok _) => none
  | 3 =>
    let tag := fld target 60 4
    let own := tag == 0xC || (tag == 0xD && fld target 48 4 == s.ownDev && fld target 40 8 == c)
    match s.decodeIn p c x target 32 true with
    | .ok (.scr _ _) => if own ∧ target.toNat % 32 = 0 then none else some (kOperand, 0, 0)
    | _ => some (kOperand, 0, 0)
  | _ => none

/-- CPYRED's and CPYMM's limits (R258). -/
def Copy.limits (k : Copy) (own : Bool) : Bool :=
  let d := shapeOf k.d
  match k.form with
  | 1 => (d.f == .ty .f32 || d.f == .ty .bf16 || d.f == .ty .i32) && d.mode == 0 && d.base.toNat % 16 == 0 &&
      d.t1 % 16 == 0 && d.t2 % 16 == 0 && d.t3 % 16 == 0 && d.e0 * d.z % 16 == 0
  | 2 => own
  | _ => true

/-- The matrix command of a CPYMM (R256). -/
def Copy.command (k : Copy) : MOp := if k.mop = 1 then .ldb else .mma k.arow

/-- A destination lies in the issuing core's scratchpad. -/
def State.ownTag (s : State) (c : Nat) (a : Word) : Bool :=
  fld a 60 4 == 0xC || (fld a 60 4 == 0xD && fld a 48 4 == s.ownDev && fld a 40 8 == c)

/-- The strand of a copy leads a gang of more than one engine at its core. -/
def State.ganged (s : State) (c : Nat) (k : Copy) : Bool := s.owns c (sidOf c k.ctx) k.part && decide (1 < (s.mx c).gang)

/-- The checks of a copy at issue (R257, R259). A command's shape is held to the issuing core's scratchpad alone: an MMA reads
A there, and an MMLDB under a gang is refused. -/
def State.copyBad (s : State) (c : Nat) (k : Copy) : Option TrapE :=
  let d := shapeOf k.d
  let a := shapeOf k.a
  match s.checkShapes [c] k.ctx true (a.conforms d && k.limits (s.ownTag c d.base)) [(d, true), (a, false)] with
  | some e => some e
  | none =>
    match (if k.form ≠ 2 then none else if k.mop = 1 ∧ s.ganged c k then some (kOperand, 0, 0)
      else s.mCheck [c] k.ctx k.command (shapeOf k.m)) with
    | some e => some e
    | none => s.actionBad c k.ctx k.part k.as k.act k.target

/-- The lowest free copy slot. -/
def Core.freeSlot (k : Core) : Option Nat := (List.range 16).find? fun i => (k.copies.find i).isNone

/-- Whether a context is the one a free slot goes to: round-robin after the one last granted (R255). -/
def State.copyTurn (s : State) (c x : Nat) : Bool :=
  let k := s.core c
  let rank := fun (i : Nat) => (i + 15 - k.lastCopy) % 16
  (k.copyWait.filter s.stillWaits).all fun w => decide (rank x ≤ rank (w.1 % 16))

/-- A copy is accepted into a slot (R255). -/
def State.acceptCopy (s : State) (c slot : Nat) (k : Copy) : State :=
  ((s.settle c).onCore c fun v => { v with
    copies := v.copies.put slot { k with order := v.copySeq }
    copySeq := v.copySeq + 1, lastCopy := k.ctx, copyWait := v.copyWait.filter (·.1 != sidOf c k.ctx) }).plan (.copyUnitConfirm c slot)

/-- A slot's content before any request: nothing asked, nothing moved. -/
def Copy.blank : Copy := ⟨0, 0, 0, 0, 0, 0, 0, 0, false, 0, 0, 0, 0, 0, 0, 0, [], 0, 0, 0, 0, 0, 0, false, none, 0, 0⟩

/-- A copy as accepted, before any unit. -/
def newCopy (form : Nat) (d a m : BitVec 512) (mop arow rop act : Nat) (pri : Bool) (target val : Word) (x part as : Nat)
    (pc : Word) (summ : Summary) (seqr : Option Nat) : Copy :=
  { Copy.blank with form, d, a, m, mop, arow, rop, act, pri, target, val, ctx := x, part, as, pc, summ, seqr }

/-- The registers a completion action uses (R256). -/
def actSrcs (act : Nat) (xa xb : Opnd) : List Opnd :=
  match act with
  | 0 => []
  | 3 => [xa]
  | _ => [xa, xb]

/-- One issue of a copy instruction: its checks, a CPYMM's claim, then a slot (R255, R257, R259). -/
def copyBody (form : Nat) (sd s1 s2 : Shp) (mop arow rop act : Nat) (pri : Bool) (v : List Word) (s : State) : Body :=
  let c := s.cur
  let x := s.actor
  let k := s.me
  let p := s.partOf c
  let q := newCopy form (k.shape sd) (k.shape s1) (k.shape s2) mop arow rop act pri (v0 v) (v1 v) x p k.as k.pc k.summ none
  match s.copyBad c q with
  | some e => .ofTrap s e
  | none =>
    let queue := fun (s : State) =>
      Body.wait (s.onCore c fun v => { v with copyWait := v.copyWait.filter (·.1 != sidOf c x) ++ [(sidOf c x, k.pc)] })
    let take := fun (s : State) =>
      match (s.core c).freeSlot with
      | some slot => if s.copyTurn c x then .done (s.acceptCopy c slot q) [] .fall else queue s
      | none => queue s
    if form = 2 then
      match s.claim c (sidOf c x) p with
      | none => .wait (s.awaitMx c (sidOf c x) k.pc)
      | some t => if mop = 1 ∧ 1 < (t.mx c).gang then .operand s else take t
    else take s

def execCpy (h : Hdr) (xa xb : Opnd) (sd s1 : BitVec 4) (act : BitVec 3) (pri : Bool) (s : State) : Res :=
  .next (s.issue .any h 16 (actSrcs act.toNat xa xb) [] (copyBody 0 sd s1 0 0 0 0 act.toNat pri))
def execCpyred (h : Hdr) (xa xb : Opnd) (sd s1 : BitVec 4) (act : BitVec 3) (pri : Bool) (rop : BitVec 2) (s : State) : Res :=
  .next (s.issue .any h 16 (actSrcs act.toNat xa xb) [] (copyBody 1 sd s1 0 0 0 rop.toNat act.toNat pri))
def execCpymm (h : Hdr) (xa xb : Opnd) (sd s1 s2 : BitVec 4) (act : BitVec 3) (pri : Bool) (mop : BitVec 2) (arow : BitVec 8)
    (s : State) : Res :=
  .next (s.issue .any h 16 (actSrcs act.toNat xa xb) [] (copyBody 2 sd s1 s2 mop.toNat arow.toNat 0 act.toNat pri))

/-! ### Units (R258) -/

/-- A copy's slot changed. -/
def State.onCopy (s : State) (c slot : Nat) (f : Copy → Copy) : State :=
  match (s.core c).copies.find slot with
  | none => s
  | some k => s.onCore c fun v => { v with copies := v.copies.put slot (f k) }

/-- A stopped copy: its strand takes an engine-fault trap (R261); a host queue's COPY halts its queue (R373). An action that
its target has `rejected` is not given again. -/
def State.stopCopy (s : State) (c slot : Nat) (e : TrapE) (rejected : Bool := false) : State :=
  match (s.core c).copies.find slot with
  | none => s
  | some k =>
    let s1 := s.onCopy c slot fun k => { k with stopped := true }
    if k.launch = 0 then s1.engineFault (s1.home k.part c) k.ctx rejected (engInfo e k.ri) k.pc (engArg e) else s1.plan (.launchComplete k.launch)

/-- The elements, from `n` on, of the unit whose sector is `sec`, at most `fuel` of them. -/
def unitElems (d : Shape) (sec : Nat) : Nat → Nat → List Nat
  | 0, _ => []
  | f + 1, n => if (d.addr (d.coord n)).toNat / 16 = sec then n :: unitElems d sec f (n + 1) else []

/-- The elements of the unit that starts at an element. -/
def unitFrom (d : Shape) (n : Nat) : List Nat := unitElems d ((d.addr (d.coord n)).toNat / 16) (d.count - n) n

/-- An element's scale, read for a copy. -/
def State.copyScale (s : State) (k : Copy) (c : Nat) (sh : Shape) (j : Coord) : State × Except TrapE (Option Nat) :=
  if sh.mode = 0 then (s, .ok none)
  else match s.engRead k.part k.as c k.ctx (sh.scaleAddr j) 4 with
    | (s1, .error e) => (s1, .error e)
    | (s1, .ok v) => (s1, .ok (some v))

/-- The code a copy stores for an element, with its flags and saturations (R258). -/
def State.copyElem (s : State) (k : Copy) (c n : Nat) : State × Except TrapE (Nat × Nat × Nat) :=
  let d := shapeOf k.d
  let a := shapeOf k.a
  let j := d.coord n
  let ja := a.bcast j
  match s.engRead k.part k.as c k.ctx (a.addr ja) a.z with
  | (s1, .error e) => (s1, .error e)
  | (s1, .ok v) =>
    match s1.copyScale k c a ja with
    | (s2, .error e) => (s2, .error e)
    | (s2, .ok sa) =>
      match s2.copyScale k c d j with
      | (s3, .error e) => (s3, .error e)
      | (s3, .ok sd) =>
        let t0 : TV := ⟨a.f, v % 2 ^ a.f.bits⟩
        let t1 := match sa with | none => (t0, 0) | some w => t0.timesScale w
        let t2 := match sd with | none => (t1.1, 0) | some w => t1.1.overScale w
        let r := t2.1.into d.f 0
        (s3, .ok (r.1, t1.2 ||| t2.2 ||| r.2.1, r.2.2))

/-- CPYRED's operation on codes of D's format (R258). -/
def reduceCode (f : EFmt) (rop old x : Nat) : Nat × Nat :=
  match f with
  | .ty t => redOp t rop old x
  | .narrow _ => (x, 0)

/-- The codes of a unit's elements, with their numbers. -/
def State.copyCodes (s : State) (k : Copy) (c : Nat) : List Nat → State × Except TrapE (List (Nat × Nat) × BitVec 128)
  | [] => (s, .ok ([], k.status))
  | n :: ns =>
    match s.copyElem k c n with
    | (s1, .error e) => (s1, .error e)
    | (s1, .ok (v, fl, sat)) =>
      match s1.copyCodes { k with status := note k.status n fl sat } c ns with
      | (s2, .error e) => (s2, .error e)
      | (s2, .ok (vs, st)) => (s2, .ok ((n, v) :: vs, st))

/-- The bytes of a unit: each element placed over the sector's old bytes, or reduced into them; the new bytes, and the
status word with the flags of the updates. -/
def unitBytes (k : Copy) (old : List Byte) (base : Nat) : List (Nat × Nat) → BitVec 128 → List Byte × BitVec 128
  | [], st => (old, st)
  | (n, v) :: vs, st =>
    let d := shapeOf k.d
    let i := (d.addr (d.coord n)).toNat - base
    let r := if k.form = 1 then reduceCode d.f k.rop (ofBytes ((old.drop i).take d.z)) v else (v, 0)
    unitBytes k (old.take i ++ toBytes d.z r.1 ++ old.drop (i + d.z)) base vs (note st n r.2 0)

/-- One unit of a copy: its sources are read, its one write is made, and it is confirmed (R258). When an applied unit is
confirmed R132 leaves open: here in the step that applies it, so that the marker never lags (log entry 117). The sources of a
unit of an overlapping copy are read after every earlier unit has been written (log entry 133). -/
def State.copyUnit (s : State) (c slot : Nat) (k : Copy) : State :=
  let d := shapeOf k.d
  let ns := unitFrom d k.pos
  match s.copyCodes k c ns with
  | (s1, .error e) => s1.stopCopy c slot e
  | (s1, .ok (vs, st)) =>
    let as := ns.map fun n => (d.addr (d.coord n)).toNat
    let lo := as.foldl min (as.headD 0)
    let hi := as.foldl max 0 + d.z
    match s1.placeIn k.part k.as c k.ctx (.ofNat 64 lo) (hi - lo) 1 1 3 with
    | (s2, .error e) => s2.stopCopy c slot e
    | (s2, .ok pl) =>
      let s3 := (s2.clearSector c k.ctx pl.key).drain c pl.hm pl.key
      let (bs, st1) := unitBytes k (s3.bytes pl.key (hi - lo)) lo vs st
      let skip := k.form == 1 && k.applied.contains k.ri
      let s4 := if skip then s3 else s3.engWrite k.part c k.ctx pl bs (byCopy c)
      let last := decide (d.count ≤ k.pos + ns.length)
      let k1 := { k with
        ri := k.ri + 1, pos := k.pos + ns.length, status := if skip then k.status else st1, regs := k.regs ||| pl.region
        applied := if k.form = 1 then k.applied ++ [k.ri] else []
        phase := if last then if k.form = 2 then 1 else 3 else 0 }
      let s5 := s4.onCore c fun v => { v with copies := v.copies.put slot k1 }
      if !last then s5.plan (.copyUnitConfirm c slot)
      else if k.form = 2 then s5.plan (.matrixCommandGiven c slot) else s5.plan (.copyCompletion c slot)

/-- COPY_UNIT_CONFIRM (R258). -/
def execCopyUnitConfirm (core slot : Nat) (s : State) : Res :=
  .next (match (s.core core).copies.find slot with
    | none => s
    | some k => if k.phase = 0 ∧ k.stopped = false then s.copyUnit core slot k else s)

/-! ### The matrix command (R259) -/

/-- Whether every earlier CPYMM of the strand has had its command performed. -/
def Core.firstCommand (v : Core) (k : Copy) : Bool :=
  v.copies.all fun e => !(e.2.ctx == k.ctx && e.2.part == k.part && e.2.form == 2 && decide (e.2.phase < 3) && decide (e.2.order < k.order))

/-- A row of a CPYMM's command at the engine; the first one makes the checks that depend on the engine. -/
def State.command (s : State) (c slot : Nat) (k : Copy) : State :=
  let key := 8192 + slot
  let again := fun (s : State) => s.plan (.matrixCommandGiven c slot)
  if s.partOf c ≠ k.part ∨ !(s.core c).firstCommand k ∨ s.mxBusy c key then again s
  else match s.claimGang c (sidOf c k.ctx) k.part with
  | none => again s
  | some s =>
    let ms := s.members c
    let sh := shapeOf k.m
    let bad : Option TrapE := if k.mri ≠ 0 then none else
      match s.mCheck ms k.ctx k.command sh with
      | some e => some e
      | none => if s.mReady ms k.ctx k.command sh then none else some (kOperand, 0, 0)
    match bad with
    | some e => s.stopCopy c slot e
    | none =>
      let (r, e) := (s.setRun c (some key)).mChunk ms k.ctx k.command sh k.pc k.mri 0
      let s1 := r.s.onCopy c slot fun k => { k with mri := r.ri, phase := 2 }
      match e with
      | some e => (s1.setRun c none).stopCopy c slot e
      | none =>
        if r.ri < k.command.count sh then again s1
        else ((s1.setRun c none).onCopy c slot fun k => { k with phase := 3 }).plan (.copyCompletion c slot)

/-- MATRIX_COMMAND_GIVEN (R259). -/
def execMatrixCommandGiven (core slot : Nat) (s : State) : Res :=
  .next (match (s.core core).copies.find slot with
    | none => s
    | some k => if (k.phase = 1 ∨ k.phase = 2) ∧ k.stopped = false then s.command core slot k else s)

/-! ### Completion (R260) -/

/-- What performing a completion action comes to. -/
inductive Act where
  | done (s : State)
  | full (s : State)
  | bad (s : State) (e : TrapE)

/-- A node decrement is handed to the node's core; while the partition is swapped out it is held (R361). -/
def State.sendDec (s : State) (p core off : Nat) (f : Summary) : State :=
  if s.home p core = core then s.plan (.nodeDecrement core off f)
  else s.onPart p fun q => { q with held := q.held ++ [⟨s.mesh, .nodeDecrement core off f⟩] }

/-- Performs a completion action with its edge's summary: a message, a signal add or a node decrement, after the core's
Publish (R108, R260). `pc` is the operation's address, for the record of a signal of another device that rejects it. -/
def State.perform (s : State) (c x p as act : Nat) (pri : Bool) (target val : Word) (f : Summary) (writer pc : Word) : Act :=
  let s := if act = 0 then s else s.publish c x
  match act with
  | 1 => match s.mailName p target with
    | .error e => .bad s (engFault e target)
    | .ok aim => match s.sendMail p c aim pri ⟨val, some f⟩ with
      | none => .full s
      | some s1 => .done s1
  | 2 => match s.placeIn p as c x target 256 256 1 3 with
    | (s1, .error e) => .bad s1 e
    | (s1, .ok pl) =>
      if s1.isForeign pl then .done (s1.sendEdge c (keyDev s1.ownDev pl.key) true (.signal pl.key false false c val f
          (some (x, mkRec 0x08 x 0 0 pc 0))))
      else match s1.signalAt p c pl.hm pl.key false false val f writer with
        | none => .bad s1 (kOperand, 0, target)
        | some s2 => .done s2
  | 3 => match s.decodeIn p c x target 32 true with
    | .ok (.scr core off) => .done (s.sendDec p core off f)
    | .ok _ => .bad s (engFault 1 target)
    | .error e => .bad s (engFault e target)
  | _ => .done s

/-- A copy's slot is freed: its edge is kept for its strand's next ENGREND, or for its script (R255, R268). -/
def State.freeCopy (s : State) (c slot : Nat) (k : Copy) : State :=
  let s1 := s.onCore c fun v => { v with copies := v.copies.del slot }
  if k.launch ≠ 0 then s1.plan (.launchComplete k.launch)
  else match k.seqr with
  | none => s1.engineDone (s1.home k.part c) k.ctx (k.summ ||| k.regs)
  | some q => match (s1.core c).seqrs.find q with
    | none => s1.rendezvous c k.ctx
    | some r => (s1.onCore c fun v => { v with seqrs := v.seqrs.put q { r with regs := r.regs ||| k.regs } }).rendezvous c k.ctx

/-- A node decrement that an action has handed on is still on its way (R255, R260). -/
def State.decOnWay (s : State) (p c x : Nat) (target : Word) (f : Summary) : Bool :=
  match s.decodeIn p c x target 32 true with
  | .ok (.scr core off) => (s.agenda ++ (s.part p).held).any fun e => decide (e.ev = .nodeDecrement core off f)
  | _ => false

/-- The node decrement of a copy's action is still on its way. -/
def State.decPending (s : State) (k : Copy) (c : Nat) : Bool := s.decOnWay k.part c k.ctx k.target (k.summ ||| k.regs)

/-- The end of a copy: its status word, then its action, whether or not its partition is swapped out (R260, R360). Its slot
is freed once the action has been accepted; an action that its target rejects is not tried again. -/
def State.endCopy (s : State) (c slot : Nat) (k : Copy) : State :=
  let next := fun (n : Nat) (s : State) => s.onCopy c slot fun k => { k with phase := n }
  let again := fun (s : State) => s.plan (.copyCompletion c slot)
  if k.phase = 5 then if s.decPending k c then again s else s.freeCopy c slot k
  else if k.phase = 6 then s.freeCopy c slot k
  else match (if k.phase = 3 then s.statusIn k.part c k.ctx (shapeOf k.d).stat k.status else .ok s) with
    | .error e => s.stopCopy c slot e
    | .ok s1 =>
      match s1.perform c k.ctx k.part k.as k.act k.pri k.target k.val (k.summ ||| k.regs) (byCopy c) k.pc with
      | .done s2 => if k.act = 3 then again (next 5 s2) else s2.freeCopy c slot k
      | .full s2 => again (next 4 s2)
      | .bad s2 e => (next (if e.1 = kOperand then 6 else 4) s2).stopCopy c slot e (e.1 == kOperand)

/-- COPY_COMPLETION (R260). -/
def execCopyCompletion (core slot : Nat) (s : State) : Res :=
  .next (match (s.core core).copies.find slot with
    | none => s
    | some k => if 3 ≤ k.phase ∧ k.stopped = false then s.endCopy core slot k else s)

/-- A stopped copy is given again from its resume index (R261). -/
def State.regiveCopy (s : State) (c slot : Nat) (k : Copy) : State :=
  if k.stopped then (s.onCopy c slot fun k => { k with stopped := false }).plan
    (match k.phase with
     | 0 => .copyUnitConfirm c slot
     | 1 => .matrixCommandGiven c slot
     | 2 => .matrixCommandGiven c slot
     | _ => .copyCompletion c slot)
  else s

end Sys2Proof.Machine
end

