-- ==== Sys2Proof/Machine/Raster.lean ====
section
/-! DEFINITION. Surfaces (R285-R288), TRIBIN, RAST and the primitive-order interlock: major 0x38 (R289-R297), and their
events. -/

namespace Sys2Proof.Machine

/-! ### Surface descriptors and tiles (R285, R286) -/

def sdMap (d : BitVec 512) : Word := .ofNat 64 (fld d 0 64)
def sdW (d : BitVec 512) : Nat := fld d 64 16 + 1
def sdH (d : BitVec 512) : Nat := fld d 80 16 + 1
def sdTW (d : BitVec 512) : Nat := 2 ^ fld d 96 2
def sdTH (d : BitVec 512) : Nat := 2 ^ fld d 98 2
def sdMW (d : BitVec 512) : Nat := fld d 100 4 + 1
def sdMH (d : BitVec 512) : Nat := fld d 104 4 + 1
def sdCB (d : BitVec 512) : Nat := if fld d 108 2 = 1 then 4 else 1
def sdDepth (d : BitVec 512) : Bool := bit d 110
def sdBase (d : BitVec 512) : Nat := fld d 112 21
def sdHead (d : BitVec 512) : Nat := fld d 136 4
def sdFrames (d : BitVec 512) : Nat := fld d 140 4 + 1
def sdLine (d : BitVec 512) : Nat := fld d 144 16
def sdPer (d : BitVec 512) : Nat := fld d 160 32
def sdCap (d : BitVec 512) : Word := .ofNat 64 (fld d 192 64)
def sdSig (d : BitVec 512) : Word := .ofNat 64 (fld d 256 64)

/-- Tiles across and down. -/
def sdTX (d : BitVec 512) : Nat := ceilDiv (sdW d) (sdTW d)
def sdTY (d : BitVec 512) : Nat := ceilDiv (sdH d) (sdTH d)

/-- The bytes of a tile's depth, and of its record (R286). -/
def sdDep (d : BitVec 512) : Nat := if sdDepth d then 4 * sdTW d * sdTH d else 0
def sdRec (d : BitVec 512) : Nat := ceilDiv (sdDep d + 2 * sdCB d * sdTW d * sdTH d) 64 * 64

/-- The bytes of a captured frame, rounded up to 256 (R303). -/
def sdFB (d : BitVec 512) : Nat := ceilDiv (sdW d * sdH d * sdCB d) 256 * 256

/-- The map bytes below MW × MH. -/
def usedMap (d : BitVec 512) (map : List Nat) : List Nat := map.take (sdMW d * sdMH d)

/-- The owner of a tile. -/
def ownerAt (d : BitVec 512) (map : List Nat) (tx ty : Nat) : Nat := nth 0 map (ty % sdMH d * sdMW d + tx % sdMW d)

/-- How many map bytes name a core. -/
def mapCount (d : BitVec 512) (map : List Nat) (c : Nat) : Nat := ((usedMap d map).filter (· == c)).length

/-- The local index of a tile at its owner. -/
def localIndex (d : BitVec 512) (map : List Nat) (tx ty : Nat) : Nat :=
  let c := ownerAt d map tx ty
  let k := ty % sdMH d * sdMW d + tx % sdMW d
  (ty / sdMH d * ceilDiv (sdTX d) (sdMW d) + tx / sdMW d) * mapCount d map c + ((map.take k).filter (· == c)).length

/-- The records an owner reserves. -/
def reserved (d : BitVec 512) (map : List Nat) (c : Nat) : Nat :=
  ceilDiv (sdTY d) (sdMH d) * ceilDiv (sdTX d) (sdMW d) * mapCount d map c

/-- The offset of a tile's record. -/
def recordAt (d : BitVec 512) (l : Nat) : Nat := sdBase d + l * sdRec d

/-- The tile with a local index at a core, if the surface has it. -/
def tileOf (d : BitVec 512) (map : List Nat) (c l : Nat) : Option (Nat × Nat) :=
  let n := mapCount d map c
  let ks := (List.range (sdMW d * sdMH d)).filter fun k => nth 0 map k == c
  if n = 0 then none
  else
    let across := ceilDiv (sdTX d) (sdMW d)
    let k := nth 0 ks (l % n)
    let tx := l / n % across * sdMW d + k % sdMW d
    let ty := l / n / across * sdMH d + k / sdMW d
    if tx < sdTX d ∧ ty < sdTY d then some (tx, ty) else none

/-- A bound surface of a partition. -/
def State.surfAt (s : State) (p n : Nat) : Option Surface := (s.part p).surfs.find n

/-- A bound surface changed. -/
def State.onSurf (s : State) (p n : Nat) (f : Surface → Surface) : State :=
  match s.surfAt p n with
  | none => s
  | some u => s.onPart p fun v => { v with surfs := v.surfs.put n (f u) }

/-! ### TRIBIN (R290-R292) -/

/-- A vertex: its position in 16.8 fixed point, and the f32 codes of z and the attributes. -/
structure Vertex where
  x : Int
  y : Int
  us : List Nat
  deriving DecidableEq, Repr

/-- A vertex of a record's bytes. -/
def vertexOf (b : List Byte) (nattr i : Nat) : Vertex :=
  let q := fun (o : Nat) => ofBytes ((b.drop (48 * i + o)).take 4)
  ⟨sgn 32 (q 0), sgn 32 (q 4), q 8 :: (List.range nattr).map fun j => q (16 + 4 * j)⟩

/-- An edge as a, b and c (R291). -/
def edgeOf (v w : Vertex) : Int × Int × Int :=
  let dx := w.x - v.x
  let dy := w.y - v.y
  (-dy, dx, dy * v.x - dx * v.y)

def edgeAt (e : Int × Int × Int) (x y : Int) : Int := e.1 * x + e.2.1 * y + e.2.2

/-- Twice the signed area. -/
def area2 (v0 v1 v2 : Vertex) : Int := edgeAt (edgeOf v0 v1) v2.x v2.y

/-- The three edges, negated when the area is negative. -/
def edgesOf (v0 v1 v2 : Vertex) : List (Int × Int × Int) :=
  let es := [edgeOf v0 v1, edgeOf v1 v2, edgeOf v2 v0]
  if area2 v0 v1 v2 < 0 then es.map fun e => (-e.1, -e.2.1, -e.2.2) else es

/-- A pixel is covered (R291). -/
def covered (es : List (Int × Int × Int)) (x y : Nat) : Bool :=
  es.all fun e =>
    let v := edgeAt e (256 * x + 128) (256 * y + 128)
    decide (0 < v) || (v == 0 && (decide (0 < e.1) || (e.1 == 0 && decide (0 < e.2.1))))

/-- The f64 code of a 16.8 value. -/
def fixed (v : Int) : Nat := (fmtF64.ofVal 0 (.ofInt false v (-8))).1

/-- The plane of a value given at three vertices (R292). -/
def planeOf (v0 v1 v2 : Vertex) (i : Nat) : BitVec 32 × BitVec 32 × BitVec 32 :=
  let f := fmtF64
  let sub := fun a b => (f.sub 0 a b).1
  let mul := fun a b => (f.mul 0 a b).1
  let u := fun (v : Vertex) => (f.ofVal 0 (fmtF32.value (nth 0 v.us i))).1
  let fx0 := fixed v0.x
  let fy0 := fixed v0.y
  let dx1 := sub (fixed v1.x) fx0
  let dy1 := sub (fixed v1.y) fy0
  let dx2 := sub (fixed v2.x) fx0
  let dy2 := sub (fixed v2.y) fy0
  let d := sub (mul dx1 dy2) (mul dx2 dy1)
  let du1 := sub (u v1) (u v0)
  let du2 := sub (u v2) (u v0)
  let a := (f.div 0 (sub (mul du1 dy2) (mul du2 dy1)) d).1
  let b := (f.div 0 (sub (mul du2 dx1) (mul du1 dx2)) d).1
  let c := sub (sub (u v0) (mul a fx0)) (mul b fy0)
  let n := fun v => (.ofNat 32 (fmtF32.ofVal 0 (f.value v)).1 : BitVec 32)
  (n a, n b, n c)

/-- A plane's value at a pixel. -/
def planeAt (p : BitVec 32 × BitVec 32 × BitVec 32) (x y : Nat) : Nat :=
  let half := fun (v : Nat) => (fmtF32.ofVal 0 (.fin false (2 * v + 1) (-1))).1
  (fmtF32.fma 0 p.1.toNat (half x) (fmtF32.fma 0 p.2.1.toNat (half y) p.2.2.toNat).1).1

/-- The pixels along one axis whose centres lie between two 16.8 values, clipped to `n` pixels: the first and the end. -/
def centres (lo hi : Int) (n : Nat) : Nat × Nat :=
  (((lo - 128 + 255).fdiv 256).toNat, min n ((hi - 128).fdiv 256 + 1).toNat)

/-- The owners that a triangle's box meets, in ascending number (R290). -/
def boxOwners (d : BitVec 512) (map : List Nat) (v0 v1 v2 : Vertex) : List Nat :=
  let (x0, x1) := centres (min v0.x (min v1.x v2.x)) (max v0.x (max v1.x v2.x)) (sdW d)
  let (y0, y1) := centres (min v0.y (min v1.y v2.y)) (max v0.y (max v1.y v2.y)) (sdH d)
  if x1 ≤ x0 ∨ y1 ≤ y0 then []
  else
    let txs := (List.range (sdTX d)).filter fun t => decide (t * sdTW d < x1) && decide (x0 < (t + 1) * sdTW d)
    let tys := (List.range (sdTY d)).filter fun t => decide (t * sdTH d < y1) && decide (y0 < (t + 1) * sdTH d)
    (List.range 192).filter fun c => tys.any fun ty => txs.any fun tx => ownerAt d map tx ty == c

/-- A triangle is discarded (R290). -/
def discarded (cull : Nat) (a2 : Int) : Bool := a2 == 0 || (cull == 1 && decide (a2 < 0)) || (cull == 2 && decide (0 < a2))

/-- A coordinate lies within its range (R290). -/
def inRange (v : Int) : Bool := decide (-(2 ^ 23 : Int) ≤ v) && decide (v ≤ 2 ^ 23 - 1)

/-- TRIBIN: the record is read and checked at issue and its messages are sent; the strand waits until every one has been
accepted (R290). Its resume index is meanwhile the number that the messages bear, by which a saved strand finds them again
(log entry 97). -/
def tribin (surf nattr cull : Nat) (a b : Word) (s : State) : Body :=
  let s := s.settle s.cur
  let c := s.cur
  let x := s.actor
  let p := s.partOf c
  let finish := fun (s : State) => Body.done (s.onMe fun k => { k with ri := 0, busy := false, eng := k.eng ||| k.summ }) [] .fall
  if s.me.ri ≠ 0 then
    if (s.core c).primOut.any fun e => e.1 == s.me.ri then .wait s else finish s
  else match s.surfAt p surf with
    | none => .operand s
    | some u =>
      if 8 < nattr then .operand s
      else if a.toNat % 16 ≠ 0 then .trap s kAlign 0 a
      else if fld a 60 4 ≠ 0xC then .ofTrap s (engFault 1 a)
      else match s.scrAt c x a 144 with
        | .error e => .ofTrap s e
        | .ok key =>
          let bs := s.bytes key 144
          let v0 := vertexOf bs nattr 0
          let v1 := vertexOf bs nattr 1
          let v2 := vertexOf bs nattr 2
          if !([v0, v1, v2].all fun v => inRange v.x && inRange v.y) then .operand s
          else if discarded cull (area2 v0 v1 v2) then finish s
          else
            let pr : Prim := {
              surf := surf, seq := fld b 0 32, nattr := nattr, edges := edgesOf v0 v1 v2
              planes := (List.range (nattr + 1)).map (planeOf v0 v1 v2), done := 0, cont := false, taken := none }
            let os := boxOwners u.desc u.map v0 v1 v2
            if os = [] then finish s
            else
              let n := (s.core c).parkCtr + 1
              let s1 := (s.onCore c fun k => { k with parkCtr := n }).onMe fun k => { k with ri := n, busy := true }
              .wait (os.foldl (init := s1) fun t o =>
                (t.onCore c fun k => { k with primOut := k.primOut ++ [(n, o, pr)] }).plan (.primitiveMessage c o))
def execTribin (h : Hdr) (a b : Opnd) (surf nattr : BitVec 4) (cull : BitVec 2) (s : State) : Res :=
  .next (s.issue .any h 16 [a, b] [] fun v s => tribin surf.toNat nattr.toNat cull.toNat (v0 v) (v1 v) s)

/-! ### The primitive queue (R290, R293) -/

/-- The primitive a RAST takes: one whose lists are unfinished, else the lowest sequence number. -/
def Core.nextPrim (k : Core) (surf : Nat) : Option Prim :=
  let ps := k.prims.filter fun p => p.surf == surf && p.taken.isNone
  match ps.find? (·.cont) with
  | some p => some p
  | none => ps.foldl (init := none) fun a p => match a with
    | none => some p
    | some q => if p.seq < q.seq then some p else a

/-- The first primitive that passes a test, changed or removed. -/
def editPrim (t : Prim → Bool) (f : Prim → Option Prim) : List Prim → List Prim
  | [] => []
  | p :: ps => if t p then (match f p with | none => ps | some q => q :: ps) else p :: editPrim t f ps

/-- The status word of a RAST in progress: its number, and its count of passing pixels. -/
def rastStatus (n npix : Nat) : BitVec 128 := .ofNat 128 (npix % 2 ^ 32 + n % 2 ^ 32 * 2 ^ 32 + 2 ^ 127)

/-- A context takes a primitive: the RAST gets a number of its own on the core. -/
def State.takePrim (s : State) (c x : Nat) (p : Prim) : State :=
  let n := (s.core c).parkCtr
  (s.onCore c fun k => { k with
    prims := editPrim (· == p) (fun q => some { q with taken := some (n % 2 ^ 32) }) k.prims, parkCtr := n + 1 }).onCtx c x
    fun k => { k with status := rastStatus n 0 }

/-- The strand that parked earliest for a primitive of a surface. -/
def Core.rastWaiter (k : Core) (surf : Nat) : Option Nat :=
  (List.range 16).foldl (init := none) fun a x =>
    let v := k.ctx x
    if v.st == .parked && v.wake == .prim surf then match a with
      | none => some x
      | some y => if v.parkSeq < (k.ctx y).parkSeq then some x else a
    else a

/-- A waiting primitive is given to a strand that waits for one (R293). -/
def State.offerPrim (s : State) (c surf : Nat) : State :=
  let k := s.core c
  match k.rastWaiter surf, k.nextPrim surf with
  | some x, some p => ((s.takePrim c x p).onCtx c x fun v => { v with wake := .none }).planWake c x 0 none
  | _, _ => s

/-- PRIMITIVE_MESSAGE: the oldest message from a core to an owner is accepted, once the owner's queue has room (R290). -/
def State.acceptPrim (s : State) (c o : Nat) : State :=
  match (s.core c).primOut.find? fun e => e.2.1 == o with
  | none => s
  | some e =>
    if 32 ≤ (s.core o).prims.length then s.plan (.primitiveMessage c o)
    else
      let s1 := s.onCore c fun k => { k with primOut := dropFirst (fun f => f.2.1 == o) k.primOut }
      (s1.onCore o fun k => { k with prims := k.prims ++ [e.2.2] }).offerPrim o e.2.2.surf
def execPrimitiveMessage (core n : Nat) (s : State) : Res := .next (s.acceptPrim core n)

/-! ### RAST (R293-R295) -/

/-- The depth test (R294). -/
def depthTest (zf z d : Nat) : Bool :=
  let a := fmtF32.value z
  let b := fmtF32.value d
  let n := a.isNan || b.isNan
  match zf with
  | 0 => false
  | 1 => !n && a.lt b
  | 2 => a.eq b
  | 3 => !n && !b.lt a
  | 4 => !n && b.lt a
  | 5 => !a.eq b
  | 6 => !n && !a.lt b
  | _ => true

/-- What a RAST works on: its core, list, surface and limits. -/
structure RastEnv where
  c : Nat
  list : Nat
  d : BitVec 512
  map : List Nat
  surf : Nat
  zf : Nat
  zw : Bool
  ilk : Bool
  qcap : Nat

/-- The location of a pixel's depth in a tile. -/
def RastEnv.depthKey (e : RastEnv) (l px py : Nat) : Nat :=
  let d := e.d
  scrKey e.c (recordAt d l + 4 * (py % sdTH d * sdTW d + px % sdTW d))

/-- The passing pixels of a quad, with their depths: the mask and what to write. -/
def State.quadMask (s : State) (e : RastEnv) (pr : Prim) (l qx qy : Nat) : Nat × List (Nat × Nat) :=
  (List.range 4).foldl (init := (0, [])) fun a m =>
    let px := qx + m % 2
    let py := qy + m / 2
    if px < sdW e.d ∧ py < sdH e.d ∧ covered pr.edges px py then
      let z := planeAt (nth (0, 0, 0) pr.planes 0) px py
      let key := e.depthKey l px py
      if !sdDepth e.d || depthTest e.zf z (s.loadN key 4) then (a.1 + 2 ^ m, a.2 ++ [(key, z)]) else a
    else a

/-- The name of a quad (R296). -/
def quadName (surf qx qy : Nat) : Nat := qx + qy * 2 ^ 16 + surf * 2 ^ 32

/-- Quads of a tile from number `q` on. The state, the counts of quads and pixels listed, the next quad, and why it
stopped: 0 the tile is done, 1 the list is full and a further quad passes, 2 the interlock table is full. -/
def State.rastQuads (e : RastEnv) (pr : Prim) (l tx ty : Nat) : Nat → Nat → State → Nat → Nat → State × Nat × Nat × Nat × Nat
  | 0, q, s, nq, np => (s, nq, np, q, 0)
  | f + 1, q, s, nq, np =>
    let d := e.d
    let qx := tx * sdTW d + 2 * (q % (sdTW d / 2))
    let qy := ty * sdTH d + 2 * (q / (sdTW d / 2))
    let (mask, ws) := s.quadMask e pr l qx qy
    if mask = 0 then State.rastQuads e pr l tx ty f (q + 1) s nq np
    else if e.qcap ≤ nq then (s, nq, np, q, 1)
    else if e.ilk ∧ 4096 ≤ (s.core e.c).locks.length then (s, nq, np, q, 2)
    else
      let s1 := if e.zw then ws.foldl (init := s) fun t w => t.setBytes w.1 (toBytes 4 w.2) else s
      let s2 := s1.setBytes (e.list + 64 + 16 * (1 + pr.nattr) + 8 * nq) (toBytes 8 (qx + qy * 2 ^ 16 + mask * 2 ^ 32))
      let s3 := if e.ilk then
          (s2.onCore e.c fun k => { k with locks := k.locks ++ [⟨quadName e.surf qx qy, pr.seq, none⟩] }).plan (.pxlockGrant e.c)
        else s2
      State.rastQuads e pr l tx ty f (q + 1) s3 (nq + 1) (np + popc 4 mask)

/-- A tile holds a covered pixel. -/
def meets (d : BitVec 512) (es : List (Int × Int × Int)) (tx ty : Nat) : Bool :=
  (List.range (sdTH d)).any fun j => (List.range (sdTW d)).any fun i =>
    let px := tx * sdTW d + i
    let py := ty * sdTH d + j
    decide (px < sdW d) && decide (py < sdH d) && covered es px py

/-- The first owned tile from a local index on that a primitive meets. -/
def nextTile (d : BitVec 512) (map : List Nat) (c : Nat) (es : List (Int × Int × Int)) : Nat → Nat → Option (Nat × Nat × Nat)
  | 0, _ => none
  | f + 1, l =>
    match tileOf d map c l with
    | some (tx, ty) => if meets d es tx ty then some (l, tx, ty) else nextTile d map c es f (l + 1)
    | none => nextTile d map c es f (l + 1)

/-- A RAST's primitive, by the status word of its context. -/
def mine (st : BitVec 128) (p : Prim) : Bool := p.taken == some (fld st 32 32)

/-- The list is written, and the primitive goes or stays with its progress (R294). -/
def State.endRast (s : State) (e : RastEnv) (pr : Prim) (nq np : Nat) (more : Bool) : Body :=
  let flags := b2n more + 2 * b2n pr.cont + 16 * pr.nattr + 256 * e.surf
  let head := toBytes 4 pr.seq ++ toBytes 4 nq ++ toBytes 4 np ++ toBytes 4 flags ++ List.replicate 48 0#8
  let planes := pr.planes.flatMap fun p => toBytes 4 p.1.toNat ++ toBytes 4 p.2.1.toNat ++ toBytes 4 p.2.2.toNat ++ toBytes 4 0
  let st := s.me.status
  let s1 := (s.setBytes e.list (head ++ planes)).onCore e.c fun k => { k with
    prims := editPrim (mine st) (fun p => if more then some { p with cont := true, taken := none } else none) k.prims }
  .done ((s1.onMe fun k => { k with ri := 0, status := 0, busy := false, rastOn := none, eng := k.eng ||| k.summ }).offerPrim e.c e.surf) [] .fall

/-- A tile of a RAST in progress. -/
def State.rastTile (s : State) (e : RastEnv) : Body :=
  let k := s.me
  let d := e.d
  match (s.core e.c).prims.find? (mine k.status) with
  | none => .wait (s.onMe fun k => { k with status := 0, ri := 0, busy := false, rastOn := none })
  | some pr =>
    let per := sdTW d * sdTH d / 4
    let n := reserved d e.map e.c
    let start := pr.done / per
    let np := fld k.status 0 32
    match nextTile d e.map e.c pr.edges (n - start) start with
    | none => s.endRast e pr k.ri np false
    | some (l, tx, ty) =>
      let q0 := if l = start then pr.done % per else 0
      let (s1, nq, np1, q, why) := State.rastQuads e pr l tx ty (per - q0) q0 s k.ri np
      let s2 := s1.onCore e.c fun v => { v with prims := editPrim (mine k.status) (fun p => some { p with done := l * per + q }) v.prims }
      if why = 1 then s2.endRast e { pr with done := l * per + q } nq np1 true
      else .wait (s2.onMe fun k => { k with ri := nq, status := rastStatus (fld k.status 32 32) np1, busy := true })

/-- A RAST that has issued and not ended: what it issued on, for it makes no check again (R295). -/
def Ctx.rastGoes (k : Ctx) : Option (BitVec 512 × List Nat) := if k.going || k.status.getLsbD 127 then k.rastOn else none

/-- RAST (R293, R294). -/
def rast (surf zf : Nat) (zw ilk : Bool) (qcap : Nat) (a : Word) (s : State) : Body :=
  let s := s.settle s.cur
  let c := s.cur
  let x := s.actor
  match s.me.rastGoes with
  | some (d, map) => s.rastTile ⟨c, scrKey c (fld a 0 21), d, map, surf, zf, zw, ilk, qcap⟩
  | none =>
    match s.surfAt (s.partOf c) surf with
    | none => .operand s
    | some u =>
      if fld a 60 4 ≠ 0xC ∨ a.toNat % 64 ≠ 0 ∨ qcap = 0 ∨ (sdDepth u.desc = false ∧ (zf ≠ 7 ∨ zw)) then .operand s
      else match s.scrAt c x a (64 + 144 + 8 * qcap) with
        | .error _ => .operand s
        | .ok key =>
          let s := s.onMe fun k => { k with rastOn := some (u.desc, u.map) }
          let e : RastEnv := ⟨c, key, u.desc, u.map, surf, zf, zw, ilk, qcap⟩
          if s.me.status ≠ 0 then s.rastTile e
          else match (s.core c).nextPrim surf with
            | none => .park s (.prim surf)
            | some p => (s.takePrim c x p).rastTile e
def execRast (h : Hdr) (a : Opnd) (surf : BitVec 4) (zf : BitVec 3) (zw ilk : Bool) (qcap : BitVec 16) (s : State) : Res :=
  .next (s.issue .any h 16 [a] [] fun v s => rast surf.toNat zf.toNat zw ilk qcap.toNat (v0 v) s)

/-- A RAST that a reaped context was making leaves its primitive with its progress (R295). -/
def State.leaveRast (s : State) (c x : Nat) : State :=
  let st := (s.ctx c x).status
  if (s.ctx c x).status.getLsbD 127 then
    match (s.core c).prims.find? (mine st) with
    | none => s
    | some q => (s.onCore c fun k => { k with
        prims := editPrim (mine st) (fun p => some { p with cont := true, taken := none }) k.prims }).offerPrim c q.surf
  else s

/-! ### The interlock (R296, R297) -/

/-- A quad that PXLOCK or PXREL names: its owner and its name; none for an illegal operand (R296). -/
def State.quadAt (s : State) (p : Nat) (a : Word) : Option (Nat × Nat) :=
  let qx := fld a 0 16
  let qy := fld a 16 16
  let n := fld a 32 4
  match s.surfAt p n with
  | none => none
  | some u =>
    let d := u.desc
    if fld a 36 28 ≠ 0 ∨ qx % 2 ≠ 0 ∨ qy % 2 ≠ 0 ∨ sdW d ≤ qx ∨ sdH d ≤ qy then none
    else some (ownerAt d u.map (qx / sdTW d) (qy / sdTH d), quadName n qx qy)

/-- The entry of a quad and sequence number is the quad's earliest, and no strand holds the quad (R296). -/
def Core.grantable (k : Core) (quad seq : Nat) : Bool :=
  let ls := k.locks.filter (·.quad == quad)
  match ls with
  | [] => false
  | l :: _ => l.seq == seq && ls.all (·.holder.isNone)

/-- A strand holds a quad, through its earliest entry. -/
def holdFirst (sid quad : Nat) : List Lock → List Lock
  | [] => []
  | l :: ls => if l.quad = quad then { l with holder := some sid } :: ls else l :: holdFirst sid quad ls

/-- The first request that can be granted is granted (R296): PXLOCK_GRANT. -/
def State.grantLock (s : State) (o : Nat) : State :=
  let k := s.core o
  match k.lockReqs.find? fun r => k.grantable r.2.1 r.2.2 with
  | none => s
  | some r =>
    ((s.onCore o fun k => { k with locks := holdFirst r.1 r.2.1 k.locks, lockReqs := dropFirst (· == r) k.lockReqs }).planWake (r.1 / 16) (r.1 % 16) 0
      none).plan (.pxlockGrant o)
def execPxlockGrant (core : Nat) (s : State) : Res := .next (s.grantLock core)

/-- PXLOCK (R296). -/
def pxlock (a b : Word) (s : State) : Body :=
  let c := s.cur
  match s.me.grant with
  | some _ => .done s [] .fall
  | none => match s.quadAt (s.partOf c) a with
    | none => .operand s
    | some (o, quad) =>
      let seq := fld b 0 32
      let s1 := s.drain c false (scrKey o 0)
      .park ((s1.onCore o fun k => { k with lockReqs := k.lockReqs ++ [(sidOf c s.actor, quad, seq)] }).plan (.pxlockGrant o))
        (.pxlock o quad seq)
def execPxlock (h : Hdr) (a b : Opnd) (s : State) : Res := .next (s.issue .any h 16 [a, b] [] fun v s => pxlock (v0 v) (v1 v) s)

/-- PXREL (R297). -/
def pxrel (a b : Word) (s : State) : Body :=
  let c := s.cur
  match s.quadAt (s.partOf c) a with
  | none => .operand s
  | some (o, quad) =>
    let held := fun (l : Lock) => l.quad == quad && l.seq == fld b 0 32 && l.holder == some (sidOf c s.actor)
    if !((s.core o).locks.any held) then .operand s
    else
      let s1 := s.drain c false (scrKey o 0)
      .done ((s1.onCore o fun k => { k with locks := dropFirst held k.locks }).plan (.pxlockGrant o)) [] .fall
def execPxrel (h : Hdr) (a b : Opnd) (s : State) : Res := .next (s.issue .any h 16 [a, b] [] fun v s => pxrel (v0 v) (v1 v) s)

end Sys2Proof.Machine
end

