-- ==== Sys2Proof/Machine/Emission.lean ====
section
/-! DEFINITION. Binding surfaces (R287, R288), display heads' modes (R299), the emission engine (R298, R300, R303-R305),
EMIT and EMSTAT: major 0x39, and their events. -/

namespace Sys2Proof.Machine

/-! ### Head modes (R299) -/

def hmEN (v : Word) : Bool := bit v 63
def hmLanes (v : Word) : Nat := fld v 48 4
def hmRate (v : Word) : Nat := fld v 44 4
def hmDsc (v : Word) : Bool := bit v 40
def hmBpp (v : Word) : Nat := fld v 32 8
def hmVTotal (v : Word) : Nat := fld v 16 16
def hmVAct (v : Word) : Nat := fld v 0 16
def htHTotal (v : Word) : Nat := fld v 48 16
def htHAct (v : Word) : Nat := fld v 32 16
def htLT (v : Word) : Nat := fld v 0 32

/-- A head is wired (R3). -/
def State.headPresent (s : State) (h : Nat) : Bool := decide (h < 4) && s.dev.heads.getLsbD h

def State.head (s : State) (h : Nat) : Head := s.dev.hd.get .reset h

/-- A surface of any partition is bound to a head. -/
def State.headBound (s : State) (h : Nat) : Bool := s.parts.any fun p => p.2.surfs.any fun u => sdHead u.2.desc == h

/-! ### The bind (R287) -/

/-- Bytes of the partition's global memory in address space 0, read at home; none when they cannot be read. -/
def State.globalRead (s : State) (p : Nat) (a : Word) (n : Nat) : State × Option Nat :=
  if fld a 60 4 ≠ 0 then (s, none)
  else match s.placeIn p 0 (s.firstCore p) 0 a n 1 0 3 with
    | (s1, .error _) => (s1, none)
    | (s1, .ok pl) => (s1, some (s1.loadN pl.key n))

/-- Every page of a range can be written in address space 0. -/
def State.writableAll (s : State) (p : Nat) (a : Word) (n : Nat) : Bool :=
  fld a 60 4 == 0 && (List.range ((a.toNat % 4096 + n + 4095) / 4096)).all fun i =>
    match (s.placeIn p 0 (s.firstCore p) 0 (.ofNat 64 (a.toNat / 4096 * 4096 + 4096 * i)) 1 1 1 3).2 with
    | .ok _ => true
    | .error _ => false

/-- Check 1 of R287: reserved bits and values, tile sizes, alignment, and capture's periods. -/
def descOkay (d : BitVec 512) : Bool :=
  let cap := sdHead d == 4
  fld d 320 192 == 0 && fld d 133 3 == 0 && !bit d 111 && decide (sdHead d ≤ 4) && decide (fld d 108 2 < 2) &&
  fld d 96 2 != 0 && fld d 98 2 != 0 && (sdMap d).toNat % 256 == 0 && sdBase d % 256 == 0 &&
  (!cap || ((sdCap d).toNat % 256 == 0 && (sdSig d).toNat % 256 == 0 && sdLine d != 0 && sdPer d != 0))

/-- Two ranges of bytes meet. -/
def overlap (a n b m : Nat) : Bool := decide (0 < n) && decide (0 < m) && decide (a < b + m) && decide (b < a + n)

/-- Check 4: the tile areas fit and meet no frame area and no other bound surface's tiles. -/
def State.tilesFit (s : State) (d : BitVec 512) (map : List Nat) : Bool :=
  (List.range 192).all fun c =>
    let n := reserved d map c * sdRec d
    let k := s.core c
    n == 0 || (decide (sdBase d + n ≤ k.scratchSize) && !overlap (sdBase d) n (1024 * k.faBase) (1024 * k.faSize) &&
      s.parts.all fun p => p.2.surfs.all fun u =>
        !overlap (sdBase d) n (sdBase u.2.desc) (reserved u.2.desc u.2.map c * sdRec u.2.desc))

/-- Check 5: the blank is long enough, and a head's active size is the surface's. -/
def State.timingFits (s : State) (d : BitVec 512) : Bool :=
  if sdHead d = 4 then decide ((sdTY d + 2) * sdTH d * sdLine d ≤ sdPer d)
  else
    let h := s.head (sdHead d)
    decide (hmVAct h.hmode + 2 * sdTH d ≤ hmVTotal h.hmode) && htHAct h.htime == sdW d && hmVAct h.hmode == sdH d

/-- The result of a bind, with the descriptor and the map when it succeeds (R287). -/
def State.bindChecks (s : State) (p : Nat) (a : Word) : State × Nat × BitVec 512 × List Nat :=
  match s.globalRead p a 64 with
  | (s1, none) => (s1, 7, 0, [])
  | (s1, some v) =>
    let d : BitVec 512 := .ofNat 512 v
    if !descOkay d then (s1, 1, d, [])
    else match s1.globalRead p (sdMap d) 256 with
      | (s2, none) => (s2, 7, d, [])
      | (s2, some m) =>
        let map := (toBytes 256 m).map BitVec.toNat
        let code :=
          if sdHead d < 4 ∧ (!s2.headPresent (sdHead d) || s2.headBound (sdHead d)) then 2
          else if (usedMap d map).any fun c => !s2.inPart p c then 3
          else if !s2.tilesFit d map then 4
          else if !s2.timingFits d then 5
          else if sdHead d = 4 ∧ !(s2.writableAll p (sdCap d) (sdFrames d * sdFB d) &&
              (sdSig d == 0 || s2.writableAll p (sdSig d) 256)) then 6
          else 0
        (s2, code, d, map)

/-- A surface's line time and frame period (R298). -/
def State.surfLine (s : State) (d : BitVec 512) : Nat := if sdHead d = 4 then sdLine d else htLT (s.head (sdHead d)).htime
def State.surfPeriod (s : State) (d : BitVec 512) : Nat :=
  if sdHead d = 4 then sdPer d else hmVTotal (s.head (sdHead d)).hmode * htLT (s.head (sdHead d)).htime

/-- The scan time of a band, and its fetch time (R298). -/
def State.scanTime (s : State) (u : Surface) (f b : Nat) : Nat :=
  u.t0 + f * s.surfPeriod u.desc + b * sdTH u.desc * s.surfLine u.desc
def State.fetchTime (s : State) (u : Surface) (f b : Nat) : Nat :=
  s.scanTime u f b - 2 * sdTH u.desc * s.surfLine u.desc

/-- A bind: the checks, and on success the surface with its timing (R287, R298). A head's phase is not stated: log entry
3. -/
def State.bindSurf (s : State) (p n : Nat) (v : Word) : State :=
  let a := v &&& ~~~63#64
  let (s1, code, d, map) := s.bindChecks p a
  if code ≠ 0 then s1.onPart p fun q => { q with surfRes := q.surfRes.put n code, surfAddr := q.surfAddr.put n 0 }
  else
    let lead := s1.mesh + 1 + 2 * sdTH d * s1.surfLine d
    let s2 := { s1 with free := s1.free + 1 }
    let t0 := if sdHead d = 4 then lead else lead + (Config.freeWord s1.free).toNat % max 1 (s1.surfPeriod d)
    let u : Surface := {
      desc := d, map := map, t0 := t0, fFrame := 0, fBand := 0, sFrame := 0, sBand := 0, bands := [], skipped := false
      late := 0, lost := 0, captured := 0, tiles := [], unbind := none, number := s1.free }
    (s2.onPart p fun q => { q with
      surfRes := q.surfRes.put n 0, surfAddr := q.surfAddr.put n a, surfs := q.surfs.put n u }).planAt
      (s2.fetchTime u 0 0) (.tileTake p n)

/-- No frame is between its first fetch and the end of its scan. -/
def Surface.quiet (u : Surface) : Bool := u.fBand == 0 && u.fFrame == u.sFrame

/-- An unbind completes: the surface goes, with its pending handovers, and a new descriptor is bound (R288). -/
def State.endUnbind (s : State) (p n : Nat) : State :=
  match s.surfAt p n with
  | none => s
  | some u =>
    match u.unbind with
    | none => s
    | some v =>
      if !u.quiet then s
      else
        let gone := fun (e : Pend) => match e.ev with
          | .tileTake q m => q == p && m == n
          | .bandCapture q m => q == p && m == n
          | _ => false
        let s1 := { s with agenda := s.agenda.filter (!gone ·) }.onPart p fun q => { q with
          surfs := q.surfs.del n, surfAddr := q.surfAddr.put n 0 }
        if v = 0 then s1 else s1.bindSurf p n v
def execUnbindComplete (part surf : Nat) (s : State) : Res := .next (s.endUnbind part surf)

/-- An unbind starts; it completes at once when no frame is in progress (R288). `next` is the descriptor to bind then, 0
for none. -/
def State.unbindSurf (s : State) (p n : Nat) (next : Word) : State :=
  (s.onSurf p n fun u => { u with unbind := some next }).endUnbind p n

/-- A write of a bind register (R287, R288). -/
def State.writeSurfBind (s : State) (p n : Nat) (v : Word) : State :=
  if (s.surfAt p n).isSome then s.unbindSurf p n (v &&& ~~~63#64)
  else if v &&& ~~~63#64 = 0 then s else s.bindSurf p n v

/-- SURFACE_BIND and SURFACE_UNBIND (R287, R288): context 0's writes of the bind register. -/
def execSurfaceBind (part surf : Nat) (v : Word) (s : State) : Res := .next (s.writeSurfBind part surf v)
def execSurfaceUnbind (part surf : Nat) (s : State) : Res := .next (s.writeSurfBind part surf 0)

/-! ### The emission engine (R300, R303-R305) -/

/-- Frame numbers in order, modulo 2^32 and signed. -/
def frameLe (a b : BitVec 32) : Bool := decide (0 ≤ (b - a).toInt)

/-- A late message's payload (R300). -/
def latePayload (n ty tx : Nat) (f : BitVec 32) : Word :=
  .ofNat 64 (f.toNat % 2 ^ 28 + tx % 2 ^ 12 * 2 ^ 28 + ty % 2 ^ 12 * 2 ^ 40 + n * 2 ^ 52 + 0xEE * 2 ^ 56)

/-- A message for a core of a partition: to its mailbox, or to its spill ring while it is swapped out; none without room
(R305, R363). -/
def State.mailTo (s : State) (p c : Nat) (hi : Bool) (m : Msg) : Option State :=
  let k := s.home p c
  if s.mailRoom k hi then some (s.deliver k hi m) else none

/-- A record for a core of a partition, whose image takes it while it is swapped out (R361). -/
def State.postTo (s : State) (p c kind : Nat) (info arg : Word) : State := s.post (s.home p c) kind 0 info 0 arg

/-- One tile is taken for a frame: the buffer shown, if any, and the state (R300). -/
def State.takeTile (s : State) (p n : Nat) (u : Surface) (f : BitVec 32) (tx ty : Nat) : State × Option Bool :=
  let i := ty * sdTX u.desc + tx
  let t := u.tiles.get ⟨none, none⟩ i
  let late := fun (b : Bool) =>
    let s1 := s.onSurf p n fun u => { u with late := u.late + 1 }
    match s1.mailTo p (ownerAt u.desc u.map tx ty) true ⟨latePayload n ty tx f, none⟩ with
    | some s2 => (s2, some b)
    | none => (s1.onSurf p n fun u => { u with lost := u.lost + 1 }, some b)
  match t.pend, t.shown with
  | some (b, g, h), sh =>
    if frameLe g f then (s.onSurf p n fun u => { u with tiles := u.tiles.put i ⟨none, some (b, h)⟩ }, some b)
    else match sh with
      | none => (s, none)
      | some (b1, true) => (s, some b1)
      | some (b1, false) => late b1
  | none, none => (s, none)
  | none, some (b, true) => (s, some b)
  | none, some (b, false) => late b

/-- The bytes of a tile's buffer, or zero codes. -/
def State.tileBytes (s : State) (u : Surface) (tx ty : Nat) (b : Option Bool) : List Byte :=
  let d := u.desc
  let n := sdCB d * sdTW d * sdTH d
  match b with
  | none => List.replicate n 0#8
  | some b => s.bytes (scrKey (ownerAt d u.map tx ty) (recordAt d (localIndex d u.map tx ty) + sdDep d + b2n b * n)) n

/-- The tiles of a band, taken in ascending `tx`: each one's bytes. -/
def State.takeTiles (s : State) (p n : Nat) (u : Surface) (f : BitVec 32) (ty : Nat) : List Nat → State × List (List Byte)
  | [] => (s, [])
  | tx :: txs =>
    let (s1, b) := s.takeTile p n u f tx ty
    let (s2, bs) := s1.takeTiles p n u f ty txs
    (s2, s1.tileBytes u tx ty b :: bs)

/-- The pixels of a band, row-major, within the surface (R303). -/
def bandBytes (d : BitVec 512) (ty : Nat) (tiles : List (List Byte)) : List Byte :=
  (List.range (min (sdTH d) (sdH d - ty * sdTH d))).flatMap fun r =>
    ((tiles.flatMap fun t => (t.drop (r * sdTW d * sdCB d)).take (sdTW d * sdCB d)).take (sdW d * sdCB d))

/-- TILE_TAKE: the band whose fetch time has come (R298, R300). -/
def State.tileTake (s : State) (p n : Nat) : State :=
  match s.surfAt p n with
  | none => s
  | some u =>
    if u.fBand = 0 ∧ u.unbind.isSome then s
    else
      let f : BitVec 32 := .ofNat 32 u.fFrame
      let (s1, tiles) := s.takeTiles p n u f u.fBand (List.range (sdTX u.desc))
      let bs := bandBytes u.desc u.fBand tiles
      let last := u.fBand + 1 == sdTY u.desc
      let nf := if last then u.fFrame + 1 else u.fFrame
      let nb := if last then 0 else u.fBand + 1
      ((s1.onSurf p n fun v => { v with bands := v.bands ++ [(u.fFrame, u.fBand, bs)], fFrame := nf, fBand := nb }).planAt
        (s1.fetchTime u nf nb) (.tileTake p n)).planAt
        (s1.scanTime u u.fFrame (u.fBand + 1)) (.bandCapture p n)
def execTileTake (part surf : Nat) (s : State) : Res := .next (s.tileTake part surf)

/-- The places of a range in address space 0 for writing, sector by sector; the first failing address otherwise. -/
def State.capturePlaces (s : State) (p : Nat) : List (Nat × Nat) → State × Except Word (List (Place × Nat))
  | [] => (s, .ok [])
  | (a, n) :: ps =>
    if fld (.ofNat 64 a : Word) 60 4 ≠ 0 then (s, .error (.ofNat 64 a))
    else match s.placeIn p 0 (s.firstCore p) 0 (.ofNat 64 a) n 1 1 3 with
    | (s1, .error _) => (s1, .error (.ofNat 64 a))
    | (s1, .ok pl) => match s1.capturePlaces p ps with
      | (s2, .error e) => (s2, .error e)
      | (s2, .ok r) => (s2, .ok ((pl, n) :: r))

/-- A capture-fault record (R303). -/
def State.captureFault (s : State) (p n f : Nat) (sig : Bool) (a : Word) : State :=
  s.postTo p (s.firstCore p) 0x16 (.ofNat 64 (f % 2 ^ 32 * 2 ^ 32 + b2n sig * 16 + n)) a

/-- A captured band is written, or skipped with a record (R303). -/
def State.writeBand (s : State) (p n : Nat) (u : Surface) (f b : Nat) (bs : List Byte) : State :=
  let d := u.desc
  let a := (sdCap d).toNat + f % sdFrames d * sdFB d + b * sdTH d * sdW d * sdCB d
  match s.capturePlaces p (pieces (bs.length + 1) a bs.length) with
  | (s1, .error e) => (s1.onSurf p n fun v => { v with skipped := true }).captureFault p n f false e
  | (s1, .ok ps) =>
    (ps.foldl (init := (s1, bs)) fun r pl =>
      let w := r.2.take pl.2
      ((r.1.transact pl.1.key).writeAt p pl.1.hm pl.1.key w (byCopy (r.1.firstCore p)), r.2.drop pl.2)).1

/-- A captured frame's signal gains 1, with a full summary; a rejected update is skipped with a record (R303). -/
def State.captureSignal (s : State) (p n f : Nat) (a : Word) : State :=
  if a = 0 then s
  else match s.placeIn p 0 (s.firstCore p) 0 a 256 256 1 3 with
    | (s1, .error _) => s1.captureFault p n f true a
    | (s1, .ok pl) =>
      let s1 := s1.transact pl.key
      match s1.signalAt p (s1.firstCore p) pl.hm pl.key false false 1 fullSummary (byCopy (s1.firstCore p)) with
      | none => s1.captureFault p n f true a
      | some s2 => s2

/-- BAND_CAPTURE: a band's scan ends: a capture surface's pixels are written, and a whole frame is counted and signalled;
the last frame of an unbinding surface completes the unbind (R288, R303). -/
def State.bandCapture (s : State) (p n : Nat) : State :=
  match s.surfAt p n with
  | none => s
  | some u =>
    match u.bands with
    | [] => s
    | (f, b, bs) :: rest =>
      let cap := sdHead u.desc == 4
      let s1 := s.onSurf p n fun v => { v with bands := rest, skipped := decide (b ≠ 0) && v.skipped }
      let s2 := if cap then s1.writeBand p n u f b bs else s1
      if b + 1 < sdTY u.desc then s2.onSurf p n fun v => { v with sBand := b + 1 }
      else
        let s3 := match s2.surfAt p n with
          | some v => if cap ∧ v.skipped = false then
              (s2.onSurf p n fun v => { v with captured := v.captured + 1 }).captureSignal p n f (sdSig u.desc) else s2
          | none => s2
        let s4 := s3.onSurf p n fun v => { v with sFrame := f + 1, sBand := 0 }
        if u.unbind.isSome then s4.plan (.unbindComplete p n) else s4
def execBandCapture (part surf : Nat) (s : State) : Res := .next (s.bandCapture part surf)

/-! ### EMIT and EMSTAT (R301, R304) -/

/-- The checks of EMIT (R301): the surface's bind, when they pass. -/
def State.emitOk (s : State) (b : Word) : Option Nat :=
  let tx := fld b 0 12
  let ty := fld b 12 12
  match s.surfAt (s.partOf s.cur) (fld b 24 4) with
  | none => none
  | some u =>
    let d := u.desc
    if fld b 29 35 ≠ 0 ∨ sdTX d ≤ tx ∨ sdTY d ≤ ty ∨ ownerAt d u.map tx ty ≠ s.cur then none else some u.number

/-- A handover reaches the engine (R301), after what the core has posted to its own scratchpad, so that the fetch of the tile
sees it (R104, R302): what DST becomes. `bind` is the bind that the checks saw. -/
def State.handIn (s : State) (hold : Bool) (bind : Nat) (a b : Word) : State × Word :=
  let s := s.drain s.cur false (scrKey s.cur 0)
  let p := s.partOf s.cur
  let n := fld b 24 4
  let f : BitVec 32 := a.setWidth 32
  match s.surfAt p n with
  | none => (s, 3)
  | some u =>
    if u.number ≠ bind then (s, 3)
    else
      let i := fld b 12 12 * sdTX u.desc + fld b 0 12
      let t := u.tiles.get ⟨none, none⟩ i
      let s1 := s.onSurf p n fun u => { u with tiles := u.tiles.put i { t with pend := some (bit b 28, f, hold) } }
      match t.pend with
      | none => (s1, 0)
      | some (_, g, _) => if frameLe g f then (s1, 1) else (s, 2)

/-- EMIT (R301): its checks, and at the strand's next turn, as it waits for DST, the one step at the engine: the way there
takes the time between (log entry 51). -/
def emit (hold : Bool) (a b : Word) (s : State) : Body :=
  match s.me.grant with
  | some (n, _) => let (s1, v) := s.handIn hold n.toNat a b; .done s1 [v] .fall
  | none => match s.emitOk b with
    | none => .operand s
    | some n => .wait (s.onMe fun k => { k with grant := some (.ofNat 64 n, none) })
def execEmit (h : Hdr) (d a b : Opnd) (hold : Bool) (s : State) : Res :=
  .next (s.issue .any h 8 [a, b] [(d, some 1)] fun v s => emit hold (v0 v) (v1 v) s)

/-- EMSTAT (R304). -/
def emstat (sel : Nat) (a : Word) (s : State) : Body :=
  match s.surfAt (s.partOf s.cur) (fld a 0 4) with
  | none => .operand s
  | some u =>
    .done s [.ofNat 64 (match sel with
      | 0 => if u.fBand = 0 then u.fFrame else u.fFrame + 1
      | 1 => u.late
      | 2 => u.lost
      | _ => u.captured)] .fall
def execEmstat (h : Hdr) (d a : Opnd) (sel : BitVec 2) (s : State) : Res :=
  .next (s.issue .any h 8 [a] [(d, none)] fun v s => emstat sel.toNat (v0 v) s)

/-! ### Writing a head's mode (R299) -/

/-- The lane rates in units of 10 Mb/s, and the payload part of 1000 that the channel coding leaves: 8b/10b below 10
Gb/s, 128b/132b above (R299; log entry 14). -/
def laneRate (r : Nat) : Nat := nth 0 [162, 270, 540, 810, 1000, 1350, 2000] r

/-- A mode's rate fits: frame size and rate, and the link's payload (R12, R299). `n` heads are then enabled. -/
def modeFits (hm ht : Word) (n : Nat) : Bool :=
  let va := hmVAct hm
  let ha := htHAct ht
  let vt := hmVTotal hm
  let htot := htHTotal ht
  let lt := htLT ht
  let lanes := hmLanes hm
  let r := hmRate hm
  let small := decide (ha * va ≤ 3840 * 2160) && decide (1800000000 / (vt * lt) ≤ 120)
  let big := decide (ha * va ≤ 7680 * 4320) && decide (1800000000 / (vt * lt) ≤ 60)
  let bits16 := if hmDsc hm then hmBpp hm else 24 * 16
  let num := if r ≤ 3 then 8 else 128
  let den := if r ≤ 3 then 10 else 132
  va != 0 && ha != 0 && vt != 0 && htot != 0 && lt != 0 && decide (va < vt) && decide (ha < htot) &&
  (if n ≤ 2 then small || big else small) &&
  (lanes == 1 || lanes == 2 || lanes == 4) && decide (r ≤ 6) &&
  decide (htot * 1800000000 * bits16 * den ≤ lanes * laneRate r * 10000000 * lt * 16 * num)

/-- A mode's fields keep their stated limits, whether it is enabled or not (R299, R381): LANES may be the 0 of reset while
EN is 0 (log entry 143). -/
def modeLimits (hm : Word) : Bool :=
  (hmLanes hm == 1 || hmLanes hm == 2 || hmLanes hm == 4 || (hmLanes hm == 0 && !hmEN hm)) && decide (hmRate hm ≤ 6) &&
  (!hmDsc hm || (decide (96 ≤ hmBpp hm) && decide (hmBpp hm ≤ 384)))

/-- HMODE of a head: EN reads 0 while the sink is absent or the link is not trained (R299). -/
def Head.mode (h : Head) : Word := if h.sink && h.trained then h.hmode else setFld h.hmode 63 1 0

/-- A head trains its link when EN goes from 0 to 1, which it does too when a sink comes to a head that is to drive it
(R299); whether the training succeeds the spec does not say: `draw` numbers a free value. -/
def Head.train (h : Head) (was : Bool) (draw : Nat) : Head :=
  if hmEN h.hmode && h.sink then if was then h else { h with trained := bit (Config.freeWord draw) 0 }
  else { h with trained := false }

/-- HEAD_MODE_WRITE: refused while a surface is bound to the head, when a field breaks a stated limit, and when it enables a
mode that does not fit; both registers are then unchanged (R299, R381). -/
def State.writeHead (s : State) (h : Nat) (isTime : Bool) (v : Word) : State :=
  if !s.headPresent h ∨ s.headBound h then s
  else
    let k := s.head h
    let k1 : Head := if isTime then { k with htime := v }
      else { k with hmode := setFld (setFld v 52 11 0) 41 3 0 }
    let others := ((List.range 4).filter fun i => i != h && hmEN (s.head i).hmode).length
    if !isTime ∧ (!modeLimits v ∨ (hmEN v ∧ !modeFits k1.hmode k1.htime (others + 1))) then s
    else { s with free := s.free + 1 }.onDev fun d => { d with hd := d.hd.put h (k1.train (hmEN k.hmode && k.sink) s.free) }
def execHeadModeWrite (head : Nat) (isTime : Bool) (v : Word) (s : State) : Res := .next (s.writeHead head isTime v)

/-- DISPLAY_SINK_CHANGE (R299). -/
def execDisplaySinkChange (head : Nat) (present : Bool) (s : State) : Res :=
  let k := s.head head
  .next (if s.headPresent head then { s with free := s.free + 1 }.onDev fun d => { d with
      hd := d.hd.put head ({ k with sink := present }.train (hmEN k.hmode && k.sink) s.free) } else s)

end Sys2Proof.Machine
end

