-- ==== Sys2Proof/Decode.lean ====
section
/-! DEFINITION. Decoding an instruction's bits by R133 to R142, and the encoder written from the same tables. -/

namespace Sys2Proof

/-- Bits [lo+len-1:lo] of a number. -/
def bf (w lo len : Nat) : Nat := w / 2 ^ lo % 2 ^ len

/-- Fields laid from bit 0 upward, each with its width; a value is cut to its width. -/
def pack : List (Nat × Nat) → Nat
  | [] => 0
  | (n, v) :: fs => v % 2 ^ n + 2 ^ n * pack fs

/-- Why an encoding is no instruction; each is the illegal-instruction trap (R133, R138, R139, R140, R142). -/
inductive Reject where
  /-- LEN = 0b11 (R133). -/
  | lenThree
  /-- No form has this MAJ, minor and LEN, or a field that picks the form is reserved (R139, R142). -/
  | noForm
  /-- A field the form uses holds a value its entry excludes, a negated c0 guard included (R140). -/
  | badField
  /-- A field the form does not use is not zero (R138). -/
  | reserved
  deriving DecidableEq, Repr

/-- The header fields beside opcode and operands (R136). -/
def hdrOf (w : Nat) : Hdr := ⟨.ofNat 3 (bf w 8 3), .ofNat 3 (bf w 11 3), bf w 14 1 == 1⟩

/-- The header's fields from bit 0 up, ahead of the others: length code, major opcode, stall count and guard (R136). -/
def hdrBits (len op : Nat) (h : Hdr) (rest : List (Nat × Nat)) : List (Nat × Nat) :=
  (2, len) :: (6, op) :: (3, h.wait.toNat) :: (3, h.gc.toNat) :: (1, h.gn.toNat) :: rest

namespace Instr

/-- An instruction's fields from bit 0 up, by the format tails of R137 and its entry; an event has none. -/
def fields : Instr → List (Nat × Nat)
  | .nop h => hdrBits 0 0 h [(21, 0), (8, 0), (20, 0)]
  | .trap h a code => hdrBits 0 0 h [(7, 0), (7, a.toNat), (7, 0), (8, 1), (20, code.toNat)]
  | .tret h => hdrBits 0 0 h [(21, 0), (8, 2), (20, 0)]
  | .tren h close => hdrBits 0 0 h [(21, 0), (8, 3), (1, close.toNat), (19, 0)]
  | .mfs h d a n => hdrBits 0 0 h [(7, d.toNat), (7, a.toNat), (7, 0), (8, 4), (12, n.toNat), (8, 0)]
  | .mts h a b n => hdrBits 0 0 h [(7, 0), (7, a.toNat), (7, b.toNat), (8, 5), (12, n.toNat), (8, 0)]
  | .brk h a code => hdrBits 0 0 h [(7, 0), (7, a.toNat), (7, 0), (8, 6), (20, code.toNat)]
  | .waite h d a poll => hdrBits 0 0 h [(7, d.toNat), (7, a.toNat), (7, 0), (8, 7), (1, poll.toNat), (19, 0)]
  | .stop h mode => hdrBits 0 0 h [(21, 0), (8, 8), (2, mode.toNat), (18, 0)]
  | .tlbinv h a kind as =>
    hdrBits 0 0 h [(7, 0), (7, a.toNat), (7, 0), (8, 9), (2, kind.toNat), (2, 0), (4, as.toNat), (12, 0)]
  | .ctxrd h d a slt => hdrBits 0 0 h [(7, d.toNat), (7, a.toNat), (7, 0), (8, 10), (12, slt.toNat), (8, 0)]
  | .ctxwr h a b slt => hdrBits 0 0 h [(7, 0), (7, a.toNat), (7, b.toNat), (8, 11), (12, slt.toNat), (8, 0)]
  | .add h ty d a b => hdrBits 0 1 h [(7, d.toNat), (7, a.toNat), (7, b.toNat), (4, ty.code), (4, 0), (20, 0)]
  | .sub h ty d a b => hdrBits 0 1 h [(7, d.toNat), (7, a.toNat), (7, b.toNat), (4, ty.code), (4, 1), (20, 0)]
  | .mul h ty d a b => hdrBits 0 1 h [(7, d.toNat), (7, a.toNat), (7, b.toNat), (4, ty.code), (4, 2), (20, 0)]
  | .mulh h ty d a b => hdrBits 0 1 h [(7, d.toNat), (7, a.toNat), (7, b.toNat), (4, ty.code), (4, 3), (20, 0)]
  | .div h ty d a b => hdrBits 0 1 h [(7, d.toNat), (7, a.toNat), (7, b.toNat), (4, ty.code), (4, 4), (20, 0)]
  | .rem h ty d a b => hdrBits 0 1 h [(7, d.toNat), (7, a.toNat), (7, b.toNat), (4, ty.code), (4, 5), (20, 0)]
  | .min h ty d a b => hdrBits 0 1 h [(7, d.toNat), (7, a.toNat), (7, b.toNat), (4, ty.code), (4, 6), (20, 0)]
  | .max h ty d a b => hdrBits 0 1 h [(7, d.toNat), (7, a.toNat), (7, b.toNat), (4, ty.code), (4, 7), (20, 0)]
  | .and h ty d a b => hdrBits 0 2 h [(7, d.toNat), (7, a.toNat), (7, b.toNat), (4, ty.code), (4, 0), (20, 0)]
  | .or h ty d a b => hdrBits 0 2 h [(7, d.toNat), (7, a.toNat), (7, b.toNat), (4, ty.code), (4, 1), (20, 0)]
  | .xor h ty d a b => hdrBits 0 2 h [(7, d.toNat), (7, a.toNat), (7, b.toNat), (4, ty.code), (4, 2), (20, 0)]
  | .andn h ty d a b => hdrBits 0 2 h [(7, d.toNat), (7, a.toNat), (7, b.toNat), (4, ty.code), (4, 3), (20, 0)]
  | .shl h ty d a b => hdrBits 0 2 h [(7, d.toNat), (7, a.toNat), (7, b.toNat), (4, ty.code), (4, 4), (20, 0)]
  | .shr h ty d a b => hdrBits 0 2 h [(7, d.toNat), (7, a.toNat), (7, b.toNat), (4, ty.code), (4, 5), (20, 0)]
  | .shra h ty d a b => hdrBits 0 2 h [(7, d.toNat), (7, a.toNat), (7, b.toNat), (4, ty.code), (4, 6), (20, 0)]
  | .rot h ty d a b => hdrBits 0 2 h [(7, d.toNat), (7, a.toNat), (7, b.toNat), (4, ty.code), (4, 7), (20, 0)]
  | .clz h ty d a => hdrBits 0 2 h [(7, d.toNat), (7, a.toNat), (7, 0), (4, ty.code), (4, 8), (20, 0)]
  | .ctz h ty d a => hdrBits 0 2 h [(7, d.toNat), (7, a.toNat), (7, 0), (4, ty.code), (4, 9), (20, 0)]
  | .popc h ty d a => hdrBits 0 2 h [(7, d.toNat), (7, a.toNat), (7, 0), (4, ty.code), (4, 10), (20, 0)]
  | .addi h d a imm => hdrBits 0 3 h [(7, d.toNat), (7, a.toNat), (7, 0), (8, 0), (20, imm.toNat)]
  | .andi h d a imm => hdrBits 0 3 h [(7, d.toNat), (7, a.toNat), (7, 0), (8, 1), (20, imm.toNat)]
  | .ori h d a imm => hdrBits 0 3 h [(7, d.toNat), (7, a.toNat), (7, 0), (8, 2), (20, imm.toNat)]
  | .xori h d a imm => hdrBits 0 3 h [(7, d.toNat), (7, a.toNat), (7, 0), (8, 3), (20, imm.toNat)]
  | .shli h d a amt => hdrBits 0 3 h [(7, d.toNat), (7, a.toNat), (7, 0), (8, 4), (8, amt.toNat), (12, 0)]
  | .shri h d a amt => hdrBits 0 3 h [(7, d.toNat), (7, a.toNat), (7, 0), (8, 5), (8, amt.toNat), (12, 0)]
  | .shrai h d a amt => hdrBits 0 3 h [(7, d.toNat), (7, a.toNat), (7, 0), (8, 6), (8, amt.toNat), (12, 0)]
  | .mov h d a => hdrBits 0 4 h [(7, d.toNat), (7, a.toNat), (7, 0), (8, 0), (20, 0)]
  | .li h d imm => hdrBits 1 4 h [(7, d.toNat), (14, 0), (8, 1), (52, imm.toNat)]
  | .addpc h d imm => hdrBits 1 4 h [(7, d.toNat), (14, 0), (8, 2), (52, imm.toNat)]
  | .sel h d a b c => hdrBits 0 4 h [(7, d.toNat), (7, a.toNat), (7, b.toNat), (8, 3), (7, c.toNat), (13, 0)]
  | .ext h d a pos lenm1 sgn =>
    hdrBits 0 4 h [(7, d.toNat), (7, a.toNat), (7, 0), (8, 4), (7, 0), (6, pos.toNat), (6, lenm1.toNat), (1, sgn.toNat)]
  | .ins h d a b pos lenm1 =>
    hdrBits 0 4 h [(7, d.toNat), (7, a.toNat), (7, b.toNat), (8, 5), (7, 0), (6, pos.toNat), (6, lenm1.toNat), (1, 0)]
  | .cmp h d a b rel ty =>
    hdrBits 0 5 h [(7, d.toNat), (7, a.toNat), (7, b.toNat), (8, 0), (3, rel.toNat), (3, ty.code), (14, 0)]
  | .cmpi h d a rel ty imm =>
    hdrBits 0 5 h [(7, d.toNat), (7, a.toNat), (7, 0), (8, 1), (3, rel.toNat), (3, ty.code), (14, imm.toNat)]
  | .clog h d a b tbl => hdrBits 0 5 h [(7, d.toNat), (7, a.toNat), (7, b.toNat), (8, 2), (4, tbl.toNat), (16, 0)]
  | .padd h ty d a b => hdrBits 0 6 h [(7, d.toNat), (7, a.toNat), (7, b.toNat), (4, ty.code), (4, 0), (20, 0)]
  | .psub h ty d a b => hdrBits 0 6 h [(7, d.toNat), (7, a.toNat), (7, b.toNat), (4, ty.code), (4, 1), (20, 0)]
  | .padds h ty d a b => hdrBits 0 6 h [(7, d.toNat), (7, a.toNat), (7, b.toNat), (4, ty.code), (4, 2), (20, 0)]
  | .psubs h ty d a b => hdrBits 0 6 h [(7, d.toNat), (7, a.toNat), (7, b.toNat), (4, ty.code), (4, 3), (20, 0)]
  | .pmul h ty d a b => hdrBits 0 6 h [(7, d.toNat), (7, a.toNat), (7, b.toNat), (4, ty.code), (4, 4), (20, 0)]
  | .pmin h ty d a b => hdrBits 0 6 h [(7, d.toNat), (7, a.toNat), (7, b.toNat), (4, ty.code), (4, 5), (20, 0)]
  | .pmax h ty d a b => hdrBits 0 6 h [(7, d.toNat), (7, a.toNat), (7, b.toNat), (4, ty.code), (4, 6), (20, 0)]
  | .pshl h ty d a b => hdrBits 0 6 h [(7, d.toNat), (7, a.toNat), (7, b.toNat), (4, ty.code), (4, 7), (20, 0)]
  | .pshr h ty d a b => hdrBits 0 6 h [(7, d.toNat), (7, a.toNat), (7, b.toNat), (4, ty.code), (4, 8), (20, 0)]
  | .pshra h ty d a b => hdrBits 0 6 h [(7, d.toNat), (7, a.toNat), (7, b.toNat), (4, ty.code), (4, 9), (20, 0)]
  | .cvt h ty d a rm src =>
    hdrBits 0 7 h [(7, d.toNat), (7, a.toNat), (7, 0), (4, ty.code), (4, 0), (2, rm.toNat), (4, src.code), (14, 0)]
  | .cvtn h ty d a b rm dir =>
    hdrBits 0 7 h [(7, d.toNat), (7, a.toNat), (7, b.toNat), (4, ty.code), (4, 1), (2, rm.toNat), (1, dir.toNat), (17, 0)]
  | .fadd h ty d a b rm =>
    hdrBits 0 8 h [(7, d.toNat), (7, a.toNat), (7, b.toNat), (4, ty.code), (4, 0), (2, rm.toNat), (18, 0)]
  | .fsub h ty d a b rm =>
    hdrBits 0 8 h [(7, d.toNat), (7, a.toNat), (7, b.toNat), (4, ty.code), (4, 1), (2, rm.toNat), (18, 0)]
  | .fmul h ty d a b rm =>
    hdrBits 0 8 h [(7, d.toNat), (7, a.toNat), (7, b.toNat), (4, ty.code), (4, 2), (2, rm.toNat), (18, 0)]
  | .fma h ty d a b c rm =>
    hdrBits 0 8 h [(7, d.toNat), (7, a.toNat), (7, b.toNat), (4, ty.code), (4, 3), (7, c.toNat), (2, rm.toNat), (11, 0)]
  | .fmin h ty d a b => hdrBits 0 8 h [(7, d.toNat), (7, a.toNat), (7, b.toNat), (4, ty.code), (4, 4), (20, 0)]
  | .fmax h ty d a b => hdrBits 0 8 h [(7, d.toNat), (7, a.toNat), (7, b.toNat), (4, ty.code), (4, 5), (20, 0)]
  | .fsgn h ty d a b sop =>
    hdrBits 0 8 h [(7, d.toNat), (7, a.toNat), (7, b.toNat), (4, ty.code), (4, 6), (2, sop.toNat), (18, 0)]
  | .fcmp h ty d a b rel q =>
    hdrBits 0 9 h [(7, d.toNat), (7, a.toNat), (7, b.toNat), (4, ty.code), (4, 0), (3, rel.toNat), (1, q.toNat), (16, 0)]
  | .fclass h ty d a => hdrBits 0 9 h [(7, d.toNat), (7, a.toNat), (7, 0), (4, ty.code), (4, 1), (20, 0)]
  | .fdiv h ty d a b rm =>
    hdrBits 0 10 h [(7, d.toNat), (7, a.toNat), (7, b.toNat), (4, ty.code), (4, 0), (2, rm.toNat), (18, 0)]
  | .fsqrt h ty d a rm =>
    hdrBits 0 10 h [(7, d.toNat), (7, a.toNat), (7, 0), (4, ty.code), (4, 1), (2, rm.toNat), (18, 0)]
  | .frcp h ty d a rm =>
    hdrBits 0 10 h [(7, d.toNat), (7, a.toNat), (7, 0), (4, ty.code), (4, 2), (2, rm.toNat), (18, 0)]
  | .frsq h ty d a rm =>
    hdrBits 0 10 h [(7, d.toNat), (7, a.toNat), (7, 0), (4, ty.code), (4, 3), (2, rm.toNat), (18, 0)]
  | .fexp2 h ty d a rm =>
    hdrBits 0 10 h [(7, d.toNat), (7, a.toNat), (7, 0), (4, ty.code), (4, 4), (2, rm.toNat), (18, 0)]
  | .flog2 h ty d a rm =>
    hdrBits 0 10 h [(7, d.toNat), (7, a.toNat), (7, 0), (4, ty.code), (4, 5), (2, rm.toNat), (18, 0)]
  | .fsin h ty d a rm =>
    hdrBits 0 10 h [(7, d.toNat), (7, a.toNat), (7, 0), (4, ty.code), (4, 6), (2, rm.toNat), (18, 0)]
  | .fcos h ty d a rm =>
    hdrBits 0 10 h [(7, d.toNat), (7, a.toNat), (7, 0), (4, ty.code), (4, 7), (2, rm.toNat), (18, 0)]
  | .ftanh h ty d a rm =>
    hdrBits 0 10 h [(7, d.toNat), (7, a.toNat), (7, 0), (4, ty.code), (4, 8), (2, rm.toNat), (18, 0)]
  | .br h off => hdrBits 0 12 h [(21, 0), (8, 0), (20, off.toNat)]
  | .j h off => hdrBits 1 12 h [(21, 0), (8, 1), (52, off.toNat)]
  | .jl h d off => hdrBits 0 12 h [(7, d.toNat), (14, 0), (8, 2), (20, off.toNat)]
  | .jr h d a off => hdrBits 0 12 h [(7, d.toNat), (7, a.toNat), (7, 0), (8, 3), (20, off.toNat)]
  | .loop h d a off => hdrBits 0 12 h [(7, d.toNat), (7, a.toNat), (7, 0), (8, 4), (20, off.toNat)]
  | .tsts h d a b off => hdrBits 0 12 h [(7, d.toNat), (7, a.toNat), (7, b.toNat), (8, 5), (7, 0), (13, off.toNat)]
  | .ld h ty d a off => hdrBits 0 16 h [(7, d.toNat), (7, a.toNat), (7, 0), (4, ty.code), (4, 0), (20, off.toNat)]
  | .ldx h ty d a b off =>
    hdrBits 0 16 h [(7, d.toNat), (7, a.toNat), (7, b.toNat), (4, ty.code), (4, 1), (7, 0), (13, off.toNat)]
  | .ldp h ty d a off => hdrBits 0 16 h [(7, d.toNat), (7, a.toNat), (7, 0), (4, ty.code), (4, 2), (20, off.toNat)]
  | .st h ty a b off => hdrBits 0 17 h [(7, 0), (7, a.toNat), (7, b.toNat), (4, ty.code), (4, 0), (20, off.toNat)]
  | .stx h ty a b c off =>
    hdrBits 0 17 h [(7, 0), (7, a.toNat), (7, b.toNat), (4, ty.code), (4, 1), (7, c.toNat), (13, off.toNat)]
  | .stp h ty a b off => hdrBits 0 17 h [(7, 0), (7, a.toNat), (7, b.toNat), (4, ty.code), (4, 2), (20, off.toNat)]
  | .pref h a off => hdrBits 0 18 h [(7, 0), (7, a.toNat), (7, 0), (8, 0), (20, off.toNat)]
  | .cinv h a off => hdrBits 0 18 h [(7, 0), (7, a.toNat), (7, 0), (8, 1), (20, off.toNat)]
  | .cwb h a off => hdrBits 0 18 h [(7, 0), (7, a.toNat), (7, 0), (8, 2), (20, off.toNat)]
  | .amo h ty d a b op =>
    hdrBits 0 19 h [(7, d.toNat), (7, a.toNat), (7, b.toNat), (4, ty.code), (4, 0), (3, op.toNat), (17, 0)]
  | .cas h ty d a b c =>
    hdrBits 0 19 h [(7, d.toNat), (7, a.toNat), (7, b.toNat), (4, ty.code), (4, 1), (7, c.toNat), (13, 0)]
  | .amof h ty d a b => hdrBits 0 19 h [(7, d.toNat), (7, a.toNat), (7, b.toNat), (4, ty.code), (4, 2), (20, 0)]
  | .send h a b pri ef =>
    hdrBits 0 20 h [(7, 0), (7, a.toNat), (7, b.toNat), (8, 0), (7, 0), (1, pri.toNat), (1, ef.toNat), (11, 0)]
  | .recv h d pri => hdrBits 0 20 h [(7, d.toNat), (14, 0), (8, 1), (1, pri.toNat), (19, 0)]
  | .waitm h d => hdrBits 0 20 h [(7, d.toNat), (14, 0), (8, 2), (20, 0)]
  | .putq h a b c e lenm1 ef dev =>
    hdrBits 1 20 h [(7, 0), (7, a.toNat), (7, b.toNat), (8, 3), (7, c.toNat), (7, e.toNat), (12, lenm1.toNat), (1, ef.toNat), (4, dev.toNat), (21, 0)]
  | .sigset h a b imm init =>
    hdrBits 0 21 h [(7, 0), (7, a.toNat), (7, b.toNat), (8, 0), (19, imm.toNat), (1, init.toNat)]
  | .sigadd h a b imm => hdrBits 0 21 h [(7, 0), (7, a.toNat), (7, b.toNat), (8, 1), (20, imm.toNat)]
  | .sigwait h a b imm rel =>
    hdrBits 0 21 h [(7, 0), (7, a.toNat), (7, b.toNat), (8, 2), (18, imm.toNat), (2, rel.toNat)]
  | .sigtest h d a b imm rel =>
    hdrBits 0 21 h [(7, d.toNat), (7, a.toNat), (7, b.toNat), (8, 3), (18, imm.toNat), (2, rel.toNat)]
  | .gaddr h d a => hdrBits 0 22 h [(7, d.toNat), (7, a.toNat), (7, 0), (8, 0), (20, 0)]
  | .saddr h d a => hdrBits 0 22 h [(7, d.toNat), (7, a.toNat), (7, 0), (8, 1), (20, 0)]
  | .spawn h t a b c e off ttype =>
    hdrBits 1 32 h [(7, t.toNat), (7, a.toNat), (7, b.toNat), (8, 0), (7, c.toNat), (7, e.toNat), (29, off.toNat), (6, ttype.toNat), (3, 0)]
  | .spawnq h t a b c e off ttype =>
    hdrBits 1 32 h [(7, t.toNat), (7, a.toNat), (7, b.toNat), (8, 1), (7, c.toNat), (7, e.toNat), (29, off.toNat), (6, ttype.toNat), (3, 0)]
  | .forkr h a b c off ttype lvl =>
    hdrBits 1 32 h [(7, 0), (7, a.toNat), (7, b.toNat), (8, 2), (7, c.toNat), (7, 0), (29, off.toNat), (6, ttype.toNat), (3, lvl.toNat)]
  | .await h a yld => hdrBits 0 32 h [(7, 0), (7, a.toNat), (7, 0), (8, 3), (1, yld.toNat), (19, 0)]
  | .jinit h a b n => hdrBits 0 32 h [(7, 0), (7, a.toNat), (7, b.toNat), (8, 4), (20, n.toNat)]
  | .quit h => hdrBits 0 32 h [(21, 0), (8, 5), (20, 0)]
  | .migrate h d cls => hdrBits 0 32 h [(7, d.toNat), (14, 0), (8, 6), (2, cls.toNat), (18, 0)]
  | .dqinit h a n => hdrBits 0 34 h [(7, 0), (7, a.toNat), (7, 0), (8, 0), (4, n.toNat), (16, 0)]
  | .dqpush h d a b => hdrBits 0 34 h [(7, d.toNat), (7, a.toNat), (7, b.toNat), (8, 1), (20, 0)]
  | .dqpop h d a => hdrBits 0 34 h [(7, d.toNat), (7, a.toNat), (7, 0), (8, 2), (20, 0)]
  | .dqsteal h d a => hdrBits 0 34 h [(7, d.toNat), (7, a.toNat), (7, 0), (8, 3), (20, 0)]
  | .detach h a off => hdrBits 0 34 h [(7, 0), (7, a.toNat), (7, 0), (8, 4), (20, off.toNat)]
  | .qpush h a b ef => hdrBits 0 35 h [(7, 0), (7, a.toNat), (7, b.toNat), (8, 0), (1, ef.toNat), (19, 0)]
  | .qpop h d a => hdrBits 0 35 h [(7, d.toNat), (7, a.toNat), (7, 0), (8, 1), (20, 0)]
  | .qbind h qn fifo mode =>
    hdrBits 0 35 h [(21, 0), (8, 2), (2, qn.toNat), (4, fifo.toNat), (2, mode.toNat), (12, 0)]
  | .ldshp h a sh off => hdrBits 0 40 h [(7, 0), (7, a.toNat), (7, 0), (8, 0), (4, sh.toNat), (16, off.toNat)]
  | .stshp h a sh off => hdrBits 0 40 h [(7, 0), (7, a.toNat), (7, 0), (8, 1), (4, sh.toNat), (16, off.toNat)]
  | .shpset h a sh fld =>
    hdrBits 0 40 h [(7, 0), (7, a.toNat), (7, 0), (8, 2), (4, sh.toNat), (4, fld.toNat), (12, 0)]
  | .shpget h d sh fld => hdrBits 0 40 h [(7, d.toNat), (14, 0), (8, 3), (4, sh.toNat), (4, fld.toNat), (12, 0)]
  | .tadd h xa sd s1 s2 bsc cty rm satm =>
    hdrBits 2 41 h [(7, 0), (7, xa.toNat), (7, 0), (8, 0), (4, sd.toNat), (4, s1.toNat), (4, s2.toNat), (4, 0), (1, bsc.toNat), (3, 0), (4, cty.code), (2, rm.toNat), (1, satm.toNat), (57, 0)]
  | .tsub h xa sd s1 s2 bsc cty rm satm =>
    hdrBits 2 41 h [(7, 0), (7, xa.toNat), (7, 0), (8, 1), (4, sd.toNat), (4, s1.toNat), (4, s2.toNat), (4, 0), (1, bsc.toNat), (3, 0), (4, cty.code), (2, rm.toNat), (1, satm.toNat), (57, 0)]
  | .tmul h xa sd s1 s2 bsc cty rm satm =>
    hdrBits 2 41 h [(7, 0), (7, xa.toNat), (7, 0), (8, 2), (4, sd.toNat), (4, s1.toNat), (4, s2.toNat), (4, 0), (1, bsc.toNat), (3, 0), (4, cty.code), (2, rm.toNat), (1, satm.toNat), (57, 0)]
  | .tfma h xa xb sd s1 s2 s3 bsc csc cty rm =>
    hdrBits 2 41 h [(7, 0), (7, xa.toNat), (7, xb.toNat), (8, 3), (4, sd.toNat), (4, s1.toNat), (4, s2.toNat), (4, s3.toNat), (1, bsc.toNat), (1, csc.toNat), (2, 0), (4, cty.code), (2, rm.toNat), (58, 0)]
  | .tmin h xa sd s1 s2 bsc cty rm =>
    hdrBits 2 41 h [(7, 0), (7, xa.toNat), (7, 0), (8, 4), (4, sd.toNat), (4, s1.toNat), (4, s2.toNat), (4, 0), (1, bsc.toNat), (3, 0), (4, cty.code), (2, rm.toNat), (58, 0)]
  | .tmax h xa sd s1 s2 bsc cty rm =>
    hdrBits 2 41 h [(7, 0), (7, xa.toNat), (7, 0), (8, 5), (4, sd.toNat), (4, s1.toNat), (4, s2.toNat), (4, 0), (1, bsc.toNat), (3, 0), (4, cty.code), (2, rm.toNat), (58, 0)]
  | .tabs h sd s1 cty rm satm =>
    hdrBits 2 41 h [(21, 0), (8, 6), (4, sd.toNat), (4, s1.toNat), (12, 0), (4, cty.code), (2, rm.toNat), (1, satm.toNat), (57, 0)]
  | .tneg h sd s1 cty rm satm =>
    hdrBits 2 41 h [(21, 0), (8, 7), (4, sd.toNat), (4, s1.toNat), (12, 0), (4, cty.code), (2, rm.toNat), (1, satm.toNat), (57, 0)]
  | .tand h xa sd s1 s2 bsc cty rm =>
    hdrBits 2 41 h [(7, 0), (7, xa.toNat), (7, 0), (8, 8), (4, sd.toNat), (4, s1.toNat), (4, s2.toNat), (4, 0), (1, bsc.toNat), (3, 0), (4, cty.code), (2, rm.toNat), (58, 0)]
  | .tor h xa sd s1 s2 bsc cty rm =>
    hdrBits 2 41 h [(7, 0), (7, xa.toNat), (7, 0), (8, 9), (4, sd.toNat), (4, s1.toNat), (4, s2.toNat), (4, 0), (1, bsc.toNat), (3, 0), (4, cty.code), (2, rm.toNat), (58, 0)]
  | .txor h xa sd s1 s2 bsc cty rm =>
    hdrBits 2 41 h [(7, 0), (7, xa.toNat), (7, 0), (8, 10), (4, sd.toNat), (4, s1.toNat), (4, s2.toNat), (4, 0), (1, bsc.toNat), (3, 0), (4, cty.code), (2, rm.toNat), (58, 0)]
  | .tshl h xa sd s1 s2 bsc cty rm =>
    hdrBits 2 41 h [(7, 0), (7, xa.toNat), (7, 0), (8, 11), (4, sd.toNat), (4, s1.toNat), (4, s2.toNat), (4, 0), (1, bsc.toNat), (3, 0), (4, cty.code), (2, rm.toNat), (58, 0)]
  | .tshr h xa sd s1 s2 bsc cty rm arith =>
    hdrBits 2 41 h [(7, 0), (7, xa.toNat), (7, 0), (8, 12), (4, sd.toNat), (4, s1.toNat), (4, s2.toNat), (4, 0), (1, bsc.toNat), (3, 0), (4, cty.code), (2, rm.toNat), (2, 0), (1, arith.toNat), (55, 0)]
  | .tcvt h sd s1 rm =>
    hdrBits 2 42 h [(21, 0), (8, 0), (4, sd.toNat), (4, s1.toNat), (16, 0), (2, rm.toNat), (58, 0)]
  | .tsplit3 h shi sx smid slo =>
    hdrBits 2 42 h [(21, 0), (8, 1), (4, shi.toNat), (4, sx.toNat), (4, smid.toNat), (4, slo.toNat), (68, 0)]
  | .tred h sd s1 cty rm op =>
    hdrBits 2 42 h [(21, 0), (8, 2), (4, sd.toNat), (4, s1.toNat), (12, 0), (4, cty.code), (2, rm.toNat), (2, 0), (2, op.toNat), (54, 0)]
  | .tcmp h xa sd s1 s2 bsc cty rm rel q =>
    hdrBits 2 42 h [(7, 0), (7, xa.toNat), (7, 0), (8, 3), (4, sd.toNat), (4, s1.toNat), (4, s2.toNat), (4, 0), (1, bsc.toNat), (3, 0), (4, cty.code), (2, rm.toNat), (2, 0), (3, rel.toNat), (1, q.toNat), (52, 0)]
  | .tsel h sd s1 s2 s3 =>
    hdrBits 2 42 h [(21, 0), (8, 4), (4, sd.toNat), (4, s1.toNat), (4, s2.toNat), (4, s3.toNat), (68, 0)]
  | .tgath h sd s1 s2 => hdrBits 2 42 h [(21, 0), (8, 5), (4, sd.toNat), (4, s1.toNat), (4, s2.toNat), (72, 0)]
  | .tscat h sd s1 s2 => hdrBits 2 42 h [(21, 0), (8, 6), (4, sd.toNat), (4, s1.toNat), (4, s2.toNat), (72, 0)]
  | .tfill h xa sd => hdrBits 2 42 h [(7, 0), (7, xa.toNat), (7, 0), (8, 7), (4, sd.toNat), (80, 0)]
  | .tcopy h sd s1 => hdrBits 2 42 h [(21, 0), (8, 8), (4, sd.toNat), (4, s1.toNat), (76, 0)]
  | .tsfu h xa sd s1 s2 bsc cty rm fn =>
    hdrBits 2 43 h [(7, 0), (7, xa.toNat), (7, 0), (8, 0), (4, sd.toNat), (4, s1.toNat), (4, s2.toNat), (4, 0), (1, bsc.toNat), (3, 0), (4, cty.code), (2, rm.toNat), (2, 0), (4, fn.toNat), (52, 0)]
  | .mmgang h gsz => hdrBits 0 48 h [(21, 0), (8, 0), (2, gsz.toNat), (18, 0)]
  | .mmldb h sb => hdrBits 2 48 h [(21, 0), (8, 1), (8, 0), (4, sb.toNat), (72, 0)]
  | .mma h sa arow => hdrBits 2 48 h [(21, 0), (8, 2), (4, 0), (4, sa.toNat), (28, 0), (8, arow.toNat), (40, 0)]
  | .mmst h sc rm arow acol =>
    hdrBits 2 48 h [(21, 0), (8, 3), (4, sc.toNat), (20, 0), (2, rm.toNat), (10, 0), (8, arow.toNat), (8, acol.toNat), (32, 0)]
  | .mmz h rl => hdrBits 0 48 h [(21, 0), (8, 4), (1, rl.toNat), (19, 0)]
  | .cpy h xa xb sd s1 act pri =>
    hdrBits 2 49 h [(7, 0), (7, xa.toNat), (7, xb.toNat), (8, 0), (4, sd.toNat), (4, s1.toNat), (16, 0), (3, act.toNat), (1, pri.toNat), (56, 0)]
  | .cpyred h xa xb sd s1 act pri rop =>
    hdrBits 2 49 h [(7, 0), (7, xa.toNat), (7, xb.toNat), (8, 1), (4, sd.toNat), (4, s1.toNat), (16, 0), (3, act.toNat), (1, pri.toNat), (8, 0), (2, rop.toNat), (46, 0)]
  | .cpymm h xa xb sd s1 s2 act pri mop arow =>
    hdrBits 2 49 h [(7, 0), (7, xa.toNat), (7, xb.toNat), (8, 2), (4, sd.toNat), (4, s1.toNat), (4, s2.toNat), (12, 0), (3, act.toNat), (1, pri.toNat), (10, 0), (2, mop.toNat), (4, 0), (8, arow.toNat), (32, 0)]
  | .dgn h a b c act count =>
    hdrBits 0 50 h [(7, 0), (7, a.toNat), (7, b.toNat), (8, 0), (7, c.toNat), (3, act.toNat), (10, count.toNat)]
  | .dgdec h a => hdrBits 0 50 h [(7, 0), (7, a.toNat), (7, 0), (8, 1), (20, 0)]
  | .engfork h a b => hdrBits 0 50 h [(7, 0), (7, a.toNat), (7, b.toNat), (8, 2), (20, 0)]
  | .engrend h fin => hdrBits 0 50 h [(21, 0), (8, 3), (1, fin.toNat), (19, 0)]
  | .rfstart h a => hdrBits 2 51 h [(7, 0), (7, a.toNat), (7, 0), (8, 0), (84, 0)]
  | .rfstat h d a => hdrBits 2 51 h [(7, d.toNat), (7, a.toNat), (7, 0), (8, 1), (84, 0)]
  | .tribin h a b surf nattr cull =>
    hdrBits 2 56 h [(7, 0), (7, a.toNat), (7, b.toNat), (8, 0), (20, 0), (4, surf.toNat), (4, nattr.toNat), (2, cull.toNat), (54, 0)]
  | .rast h a surf zf zw ilk qcap =>
    hdrBits 2 56 h [(7, 0), (7, a.toNat), (7, 0), (8, 1), (20, 0), (4, surf.toNat), (3, zf.toNat), (1, zw.toNat), (1, ilk.toNat), (7, 0), (16, qcap.toNat), (32, 0)]
  | .pxlock h a b => hdrBits 2 56 h [(7, 0), (7, a.toNat), (7, b.toNat), (8, 2), (84, 0)]
  | .pxrel h a b => hdrBits 2 56 h [(7, 0), (7, a.toNat), (7, b.toNat), (8, 3), (84, 0)]
  | .emit h d a b hold => hdrBits 0 57 h [(7, d.toNat), (7, a.toNat), (7, b.toNat), (8, 0), (1, hold.toNat), (19, 0)]
  | .emstat h d a slt => hdrBits 0 57 h [(7, d.toNat), (7, a.toNat), (7, 0), (8, 1), (2, slt.toNat), (18, 0)]
  | .ctxstart h a => hdrBits 0 33 h [(7, 0), (7, a.toNat), (7, 0), (8, 0), (20, 0)]
  | .ctxreap h a => hdrBits 0 33 h [(7, 0), (7, a.toNat), (7, 0), (8, 1), (20, 0)]
  | .ctxsave h d a b free =>
    hdrBits 0 33 h [(7, d.toNat), (7, a.toNat), (7, b.toNat), (8, 2), (1, free.toNat), (19, 0)]
  | .ctxload h d a b => hdrBits 0 33 h [(7, d.toNat), (7, a.toNat), (7, b.toNat), (8, 3), (20, 0)]
  | .ctxstat h d a => hdrBits 0 33 h [(7, d.toNat), (7, a.toNat), (7, 0), (8, 4), (20, 0)]
  | _ => []

/-- An instruction's bits as one number, bit 0 the least significant (R133). -/
def encode (i : Instr) : Nat := pack i.fields

end Instr

/-- An instruction's length in bytes by its LEN field (R133). -/
def lenBytes (w : Nat) : Nat := 8 + 4 * bf w 0 2

/-- An instruction's bytes in memory order (R133, R14). -/
def bytesOfNat : Nat → Nat → List Byte
  | 0, _ => []
  | n + 1, w => .ofNat 8 w :: bytesOfNat n (w / 256)

/-- The number that bytes in memory order stand for (R14). -/
def natOfBytes : List Byte → Nat
  | [] => 0
  | b :: bs => b.toNat + 256 * natOfBytes bs

/-- MAJ 0x00: the minor and LEN pick the form (R141). -/
def buildSys (w mn len : Nat) : Option Instr :=
  match mn, len with
  | 0, 0 => some (.nop (hdrOf w))
  | 1, 0 => some (.trap (hdrOf w) (.ofNat 7 (bf w 22 7)) (.ofNat 20 (bf w 44 20)))
  | 2, 0 => some (.tret (hdrOf w))
  | 3, 0 => some (.tren (hdrOf w) (bf w 44 1 == 1))
  | 4, 0 => some (.mfs (hdrOf w) (.ofNat 7 (bf w 15 7)) (.ofNat 7 (bf w 22 7)) (.ofNat 12 (bf w 44 12)))
  | 5, 0 => some (.mts (hdrOf w) (.ofNat 7 (bf w 22 7)) (.ofNat 7 (bf w 29 7)) (.ofNat 12 (bf w 44 12)))
  | 6, 0 => some (.brk (hdrOf w) (.ofNat 7 (bf w 22 7)) (.ofNat 20 (bf w 44 20)))
  | 7, 0 => some (.waite (hdrOf w) (.ofNat 7 (bf w 15 7)) (.ofNat 7 (bf w 22 7)) (bf w 44 1 == 1))
  | 8, 0 => some (.stop (hdrOf w) (.ofNat 2 (bf w 44 2)))
  | 9, 0 => some (.tlbinv (hdrOf w) (.ofNat 7 (bf w 22 7)) (.ofNat 2 (bf w 44 2)) (.ofNat 4 (bf w 48 4)))
  | 10, 0 => some (.ctxrd (hdrOf w) (.ofNat 7 (bf w 15 7)) (.ofNat 7 (bf w 22 7)) (.ofNat 12 (bf w 44 12)))
  | 11, 0 => some (.ctxwr (hdrOf w) (.ofNat 7 (bf w 22 7)) (.ofNat 7 (bf w 29 7)) (.ofNat 12 (bf w 44 12)))
  | _, _ => none

/-- MAJ 0x01: OP and LEN pick the form, TY its type (R139, R141). -/
def buildIarith (w op len : Nat) (ty : Ty) : Option Instr :=
  match op, len with
  | 0, 0 => some (.add (hdrOf w) ty (.ofNat 7 (bf w 15 7)) (.ofNat 7 (bf w 22 7)) (.ofNat 7 (bf w 29 7)))
  | 1, 0 => some (.sub (hdrOf w) ty (.ofNat 7 (bf w 15 7)) (.ofNat 7 (bf w 22 7)) (.ofNat 7 (bf w 29 7)))
  | 2, 0 => some (.mul (hdrOf w) ty (.ofNat 7 (bf w 15 7)) (.ofNat 7 (bf w 22 7)) (.ofNat 7 (bf w 29 7)))
  | 3, 0 => some (.mulh (hdrOf w) ty (.ofNat 7 (bf w 15 7)) (.ofNat 7 (bf w 22 7)) (.ofNat 7 (bf w 29 7)))
  | 4, 0 => some (.div (hdrOf w) ty (.ofNat 7 (bf w 15 7)) (.ofNat 7 (bf w 22 7)) (.ofNat 7 (bf w 29 7)))
  | 5, 0 => some (.rem (hdrOf w) ty (.ofNat 7 (bf w 15 7)) (.ofNat 7 (bf w 22 7)) (.ofNat 7 (bf w 29 7)))
  | 6, 0 => some (.min (hdrOf w) ty (.ofNat 7 (bf w 15 7)) (.ofNat 7 (bf w 22 7)) (.ofNat 7 (bf w 29 7)))
  | 7, 0 => some (.max (hdrOf w) ty (.ofNat 7 (bf w 15 7)) (.ofNat 7 (bf w 22 7)) (.ofNat 7 (bf w 29 7)))
  | _, _ => none

/-- MAJ 0x02: OP and LEN pick the form, TY its type (R139, R141). -/
def buildIlogic (w op len : Nat) (ty : Ty) : Option Instr :=
  match op, len with
  | 0, 0 => some (.and (hdrOf w) ty (.ofNat 7 (bf w 15 7)) (.ofNat 7 (bf w 22 7)) (.ofNat 7 (bf w 29 7)))
  | 1, 0 => some (.or (hdrOf w) ty (.ofNat 7 (bf w 15 7)) (.ofNat 7 (bf w 22 7)) (.ofNat 7 (bf w 29 7)))
  | 2, 0 => some (.xor (hdrOf w) ty (.ofNat 7 (bf w 15 7)) (.ofNat 7 (bf w 22 7)) (.ofNat 7 (bf w 29 7)))
  | 3, 0 => some (.andn (hdrOf w) ty (.ofNat 7 (bf w 15 7)) (.ofNat 7 (bf w 22 7)) (.ofNat 7 (bf w 29 7)))
  | 4, 0 => some (.shl (hdrOf w) ty (.ofNat 7 (bf w 15 7)) (.ofNat 7 (bf w 22 7)) (.ofNat 7 (bf w 29 7)))
  | 5, 0 => some (.shr (hdrOf w) ty (.ofNat 7 (bf w 15 7)) (.ofNat 7 (bf w 22 7)) (.ofNat 7 (bf w 29 7)))
  | 6, 0 => some (.shra (hdrOf w) ty (.ofNat 7 (bf w 15 7)) (.ofNat 7 (bf w 22 7)) (.ofNat 7 (bf w 29 7)))
  | 7, 0 => some (.rot (hdrOf w) ty (.ofNat 7 (bf w 15 7)) (.ofNat 7 (bf w 22 7)) (.ofNat 7 (bf w 29 7)))
  | 8, 0 => some (.clz (hdrOf w) ty (.ofNat 7 (bf w 15 7)) (.ofNat 7 (bf w 22 7)))
  | 9, 0 => some (.ctz (hdrOf w) ty (.ofNat 7 (bf w 15 7)) (.ofNat 7 (bf w 22 7)))
  | 10, 0 => some (.popc (hdrOf w) ty (.ofNat 7 (bf w 15 7)) (.ofNat 7 (bf w 22 7)))
  | _, _ => none

/-- MAJ 0x03: the minor and LEN pick the form (R141). -/
def buildIimm (w mn len : Nat) : Option Instr :=
  match mn, len with
  | 0, 0 => some (.addi (hdrOf w) (.ofNat 7 (bf w 15 7)) (.ofNat 7 (bf w 22 7)) (.ofNat 20 (bf w 44 20)))
  | 1, 0 => some (.andi (hdrOf w) (.ofNat 7 (bf w 15 7)) (.ofNat 7 (bf w 22 7)) (.ofNat 20 (bf w 44 20)))
  | 2, 0 => some (.ori (hdrOf w) (.ofNat 7 (bf w 15 7)) (.ofNat 7 (bf w 22 7)) (.ofNat 20 (bf w 44 20)))
  | 3, 0 => some (.xori (hdrOf w) (.ofNat 7 (bf w 15 7)) (.ofNat 7 (bf w 22 7)) (.ofNat 20 (bf w 44 20)))
  | 4, 0 => some (.shli (hdrOf w) (.ofNat 7 (bf w 15 7)) (.ofNat 7 (bf w 22 7)) (.ofNat 8 (bf w 44 8)))
  | 5, 0 => some (.shri (hdrOf w) (.ofNat 7 (bf w 15 7)) (.ofNat 7 (bf w 22 7)) (.ofNat 8 (bf w 44 8)))
  | 6, 0 => some (.shrai (hdrOf w) (.ofNat 7 (bf w 15 7)) (.ofNat 7 (bf w 22 7)) (.ofNat 8 (bf w 44 8)))
  | _, _ => none

/-- MAJ 0x04: the minor and LEN pick the form (R141). -/
def buildMove (w mn len : Nat) : Option Instr :=
  match mn, len with
  | 0, 0 => some (.mov (hdrOf w) (.ofNat 7 (bf w 15 7)) (.ofNat 7 (bf w 22 7)))
  | 1, 1 => some (.li (hdrOf w) (.ofNat 7 (bf w 15 7)) (.ofNat 52 (bf w 44 52)))
  | 2, 1 => some (.addpc (hdrOf w) (.ofNat 7 (bf w 15 7)) (.ofNat 52 (bf w 44 52)))
  | 3, 0 => some (.sel (hdrOf w) (.ofNat 7 (bf w 15 7)) (.ofNat 7 (bf w 22 7)) (.ofNat 7 (bf w 29 7)) (.ofNat 7 (bf w 44 7)))
  | 4, 0 => some (.ext (hdrOf w) (.ofNat 7 (bf w 15 7)) (.ofNat 7 (bf w 22 7)) (.ofNat 6 (bf w 51 6)) (.ofNat 6 (bf w 57 6)) (bf w 63 1 == 1))
  | 5, 0 => some (.ins (hdrOf w) (.ofNat 7 (bf w 15 7)) (.ofNat 7 (bf w 22 7)) (.ofNat 7 (bf w 29 7)) (.ofNat 6 (bf w 51 6)) (.ofNat 6 (bf w 57 6)))
  | _, _ => none

/-- MAJ 0x05: the minor and LEN pick the form (R141). -/
def buildCond (w mn len : Nat) : Option Instr :=
  match mn, len with
  | 0, 0 => (Ty.ofCode (bf w 47 3)).map fun ty => .cmp (hdrOf w) (.ofNat 7 (bf w 15 7)) (.ofNat 7 (bf w 22 7)) (.ofNat 7 (bf w 29 7)) (.ofNat 3 (bf w 44 3)) ty
  | 1, 0 => (Ty.ofCode (bf w 47 3)).map fun ty => .cmpi (hdrOf w) (.ofNat 7 (bf w 15 7)) (.ofNat 7 (bf w 22 7)) (.ofNat 3 (bf w 44 3)) ty (.ofNat 14 (bf w 50 14))
  | 2, 0 => some (.clog (hdrOf w) (.ofNat 7 (bf w 15 7)) (.ofNat 7 (bf w 22 7)) (.ofNat 7 (bf w 29 7)) (.ofNat 4 (bf w 44 4)))
  | _, _ => none

/-- MAJ 0x06: OP and LEN pick the form, TY its type (R139, R141). -/
def buildPacked (w op len : Nat) (ty : Ty) : Option Instr :=
  match op, len with
  | 0, 0 => some (.padd (hdrOf w) ty (.ofNat 7 (bf w 15 7)) (.ofNat 7 (bf w 22 7)) (.ofNat 7 (bf w 29 7)))
  | 1, 0 => some (.psub (hdrOf w) ty (.ofNat 7 (bf w 15 7)) (.ofNat 7 (bf w 22 7)) (.ofNat 7 (bf w 29 7)))
  | 2, 0 => some (.padds (hdrOf w) ty (.ofNat 7 (bf w 15 7)) (.ofNat 7 (bf w 22 7)) (.ofNat 7 (bf w 29 7)))
  | 3, 0 => some (.psubs (hdrOf w) ty (.ofNat 7 (bf w 15 7)) (.ofNat 7 (bf w 22 7)) (.ofNat 7 (bf w 29 7)))
  | 4, 0 => some (.pmul (hdrOf w) ty (.ofNat 7 (bf w 15 7)) (.ofNat 7 (bf w 22 7)) (.ofNat 7 (bf w 29 7)))
  | 5, 0 => some (.pmin (hdrOf w) ty (.ofNat 7 (bf w 15 7)) (.ofNat 7 (bf w 22 7)) (.ofNat 7 (bf w 29 7)))
  | 6, 0 => some (.pmax (hdrOf w) ty (.ofNat 7 (bf w 15 7)) (.ofNat 7 (bf w 22 7)) (.ofNat 7 (bf w 29 7)))
  | 7, 0 => some (.pshl (hdrOf w) ty (.ofNat 7 (bf w 15 7)) (.ofNat 7 (bf w 22 7)) (.ofNat 7 (bf w 29 7)))
  | 8, 0 => some (.pshr (hdrOf w) ty (.ofNat 7 (bf w 15 7)) (.ofNat 7 (bf w 22 7)) (.ofNat 7 (bf w 29 7)))
  | 9, 0 => some (.pshra (hdrOf w) ty (.ofNat 7 (bf w 15 7)) (.ofNat 7 (bf w 22 7)) (.ofNat 7 (bf w 29 7)))
  | _, _ => none

/-- MAJ 0x07: OP and LEN pick the form, TY its type (R139, R141). -/
def buildCvt (w op len : Nat) (ty : Ty) : Option Instr :=
  match op, len with
  | 0, 0 => (Ty.ofCode (bf w 46 4)).map fun src => .cvt (hdrOf w) ty (.ofNat 7 (bf w 15 7)) (.ofNat 7 (bf w 22 7)) (.ofNat 2 (bf w 44 2)) src
  | 1, 0 => some (.cvtn (hdrOf w) ty (.ofNat 7 (bf w 15 7)) (.ofNat 7 (bf w 22 7)) (.ofNat 7 (bf w 29 7)) (.ofNat 2 (bf w 44 2)) (bf w 46 1 == 1))
  | _, _ => none

/-- MAJ 0x08: OP and LEN pick the form, TY its type (R139, R141). -/
def buildFarith (w op len : Nat) (ty : Ty) : Option Instr :=
  match op, len with
  | 0, 0 => some (.fadd (hdrOf w) ty (.ofNat 7 (bf w 15 7)) (.ofNat 7 (bf w 22 7)) (.ofNat 7 (bf w 29 7)) (.ofNat 2 (bf w 44 2)))
  | 1, 0 => some (.fsub (hdrOf w) ty (.ofNat 7 (bf w 15 7)) (.ofNat 7 (bf w 22 7)) (.ofNat 7 (bf w 29 7)) (.ofNat 2 (bf w 44 2)))
  | 2, 0 => some (.fmul (hdrOf w) ty (.ofNat 7 (bf w 15 7)) (.ofNat 7 (bf w 22 7)) (.ofNat 7 (bf w 29 7)) (.ofNat 2 (bf w 44 2)))
  | 3, 0 => some (.fma (hdrOf w) ty (.ofNat 7 (bf w 15 7)) (.ofNat 7 (bf w 22 7)) (.ofNat 7 (bf w 29 7)) (.ofNat 7 (bf w 44 7)) (.ofNat 2 (bf w 51 2)))
  | 4, 0 => some (.fmin (hdrOf w) ty (.ofNat 7 (bf w 15 7)) (.ofNat 7 (bf w 22 7)) (.ofNat 7 (bf w 29 7)))
  | 5, 0 => some (.fmax (hdrOf w) ty (.ofNat 7 (bf w 15 7)) (.ofNat 7 (bf w 22 7)) (.ofNat 7 (bf w 29 7)))
  | 6, 0 => some (.fsgn (hdrOf w) ty (.ofNat 7 (bf w 15 7)) (.ofNat 7 (bf w 22 7)) (.ofNat 7 (bf w 29 7)) (.ofNat 2 (bf w 44 2)))
  | _, _ => none

/-- MAJ 0x09: OP and LEN pick the form, TY its type (R139, R141). -/
def buildFcmp (w op len : Nat) (ty : Ty) : Option Instr :=
  match op, len with
  | 0, 0 => some (.fcmp (hdrOf w) ty (.ofNat 7 (bf w 15 7)) (.ofNat 7 (bf w 22 7)) (.ofNat 7 (bf w 29 7)) (.ofNat 3 (bf w 44 3)) (bf w 47 1 == 1))
  | 1, 0 => some (.fclass (hdrOf w) ty (.ofNat 7 (bf w 15 7)) (.ofNat 7 (bf w 22 7)))
  | _, _ => none

/-- MAJ 0x0a: OP and LEN pick the form, TY its type (R139, R141). -/
def buildFsfu (w op len : Nat) (ty : Ty) : Option Instr :=
  match op, len with
  | 0, 0 => some (.fdiv (hdrOf w) ty (.ofNat 7 (bf w 15 7)) (.ofNat 7 (bf w 22 7)) (.ofNat 7 (bf w 29 7)) (.ofNat 2 (bf w 44 2)))
  | 1, 0 => some (.fsqrt (hdrOf w) ty (.ofNat 7 (bf w 15 7)) (.ofNat 7 (bf w 22 7)) (.ofNat 2 (bf w 44 2)))
  | 2, 0 => some (.frcp (hdrOf w) ty (.ofNat 7 (bf w 15 7)) (.ofNat 7 (bf w 22 7)) (.ofNat 2 (bf w 44 2)))
  | 3, 0 => some (.frsq (hdrOf w) ty (.ofNat 7 (bf w 15 7)) (.ofNat 7 (bf w 22 7)) (.ofNat 2 (bf w 44 2)))
  | 4, 0 => some (.fexp2 (hdrOf w) ty (.ofNat 7 (bf w 15 7)) (.ofNat 7 (bf w 22 7)) (.ofNat 2 (bf w 44 2)))
  | 5, 0 => some (.flog2 (hdrOf w) ty (.ofNat 7 (bf w 15 7)) (.ofNat 7 (bf w 22 7)) (.ofNat 2 (bf w 44 2)))
  | 6, 0 => some (.fsin (hdrOf w) ty (.ofNat 7 (bf w 15 7)) (.ofNat 7 (bf w 22 7)) (.ofNat 2 (bf w 44 2)))
  | 7, 0 => some (.fcos (hdrOf w) ty (.ofNat 7 (bf w 15 7)) (.ofNat 7 (bf w 22 7)) (.ofNat 2 (bf w 44 2)))
  | 8, 0 => some (.ftanh (hdrOf w) ty (.ofNat 7 (bf w 15 7)) (.ofNat 7 (bf w 22 7)) (.ofNat 2 (bf w 44 2)))
  | _, _ => none

/-- MAJ 0x0c: the minor and LEN pick the form (R141). -/
def buildBranch (w mn len : Nat) : Option Instr :=
  match mn, len with
  | 0, 0 => some (.br (hdrOf w) (.ofNat 20 (bf w 44 20)))
  | 1, 1 => some (.j (hdrOf w) (.ofNat 52 (bf w 44 52)))
  | 2, 0 => some (.jl (hdrOf w) (.ofNat 7 (bf w 15 7)) (.ofNat 20 (bf w 44 20)))
  | 3, 0 => some (.jr (hdrOf w) (.ofNat 7 (bf w 15 7)) (.ofNat 7 (bf w 22 7)) (.ofNat 20 (bf w 44 20)))
  | 4, 0 => some (.loop (hdrOf w) (.ofNat 7 (bf w 15 7)) (.ofNat 7 (bf w 22 7)) (.ofNat 20 (bf w 44 20)))
  | 5, 0 => some (.tsts (hdrOf w) (.ofNat 7 (bf w 15 7)) (.ofNat 7 (bf w 22 7)) (.ofNat 7 (bf w 29 7)) (.ofNat 13 (bf w 51 13)))
  | _, _ => none

/-- MAJ 0x10: OP and LEN pick the form, TY its type (R139, R141). -/
def buildLoad (w op len : Nat) (ty : Ty) : Option Instr :=
  match op, len with
  | 0, 0 => some (.ld (hdrOf w) ty (.ofNat 7 (bf w 15 7)) (.ofNat 7 (bf w 22 7)) (.ofNat 20 (bf w 44 20)))
  | 1, 0 => some (.ldx (hdrOf w) ty (.ofNat 7 (bf w 15 7)) (.ofNat 7 (bf w 22 7)) (.ofNat 7 (bf w 29 7)) (.ofNat 13 (bf w 51 13)))
  | 2, 0 => some (.ldp (hdrOf w) ty (.ofNat 7 (bf w 15 7)) (.ofNat 7 (bf w 22 7)) (.ofNat 20 (bf w 44 20)))
  | _, _ => none

/-- MAJ 0x11: OP and LEN pick the form, TY its type (R139, R141). -/
def buildStore (w op len : Nat) (ty : Ty) : Option Instr :=
  match op, len with
  | 0, 0 => some (.st (hdrOf w) ty (.ofNat 7 (bf w 22 7)) (.ofNat 7 (bf w 29 7)) (.ofNat 20 (bf w 44 20)))
  | 1, 0 => some (.stx (hdrOf w) ty (.ofNat 7 (bf w 22 7)) (.ofNat 7 (bf w 29 7)) (.ofNat 7 (bf w 44 7)) (.ofNat 13 (bf w 51 13)))
  | 2, 0 => some (.stp (hdrOf w) ty (.ofNat 7 (bf w 22 7)) (.ofNat 7 (bf w 29 7)) (.ofNat 20 (bf w 44 20)))
  | _, _ => none

/-- MAJ 0x12: the minor and LEN pick the form (R141). -/
def buildCache (w mn len : Nat) : Option Instr :=
  match mn, len with
  | 0, 0 => some (.pref (hdrOf w) (.ofNat 7 (bf w 22 7)) (.ofNat 20 (bf w 44 20)))
  | 1, 0 => some (.cinv (hdrOf w) (.ofNat 7 (bf w 22 7)) (.ofNat 20 (bf w 44 20)))
  | 2, 0 => some (.cwb (hdrOf w) (.ofNat 7 (bf w 22 7)) (.ofNat 20 (bf w 44 20)))
  | _, _ => none

/-- MAJ 0x13: OP and LEN pick the form, TY its type (R139, R141). -/
def buildAtomic (w op len : Nat) (ty : Ty) : Option Instr :=
  match op, len with
  | 0, 0 => some (.amo (hdrOf w) ty (.ofNat 7 (bf w 15 7)) (.ofNat 7 (bf w 22 7)) (.ofNat 7 (bf w 29 7)) (.ofNat 3 (bf w 44 3)))
  | 1, 0 => some (.cas (hdrOf w) ty (.ofNat 7 (bf w 15 7)) (.ofNat 7 (bf w 22 7)) (.ofNat 7 (bf w 29 7)) (.ofNat 7 (bf w 44 7)))
  | 2, 0 => some (.amof (hdrOf w) ty (.ofNat 7 (bf w 15 7)) (.ofNat 7 (bf w 22 7)) (.ofNat 7 (bf w 29 7)))
  | _, _ => none

/-- MAJ 0x14: the minor and LEN pick the form (R141). -/
def buildMsg (w mn len : Nat) : Option Instr :=
  match mn, len with
  | 0, 0 => some (.send (hdrOf w) (.ofNat 7 (bf w 22 7)) (.ofNat 7 (bf w 29 7)) (bf w 51 1 == 1) (bf w 52 1 == 1))
  | 1, 0 => some (.recv (hdrOf w) (.ofNat 7 (bf w 15 7)) (bf w 44 1 == 1))
  | 2, 0 => some (.waitm (hdrOf w) (.ofNat 7 (bf w 15 7)))
  | 3, 1 => some (.putq (hdrOf w) (.ofNat 7 (bf w 22 7)) (.ofNat 7 (bf w 29 7)) (.ofNat 7 (bf w 44 7)) (.ofNat 7 (bf w 51 7)) (.ofNat 12 (bf w 58 12)) (bf w 70 1 == 1) (.ofNat 4 (bf w 71 4)))
  | _, _ => none

/-- MAJ 0x15: the minor and LEN pick the form (R141). -/
def buildSig (w mn len : Nat) : Option Instr :=
  match mn, len with
  | 0, 0 => some (.sigset (hdrOf w) (.ofNat 7 (bf w 22 7)) (.ofNat 7 (bf w 29 7)) (.ofNat 19 (bf w 44 19)) (bf w 63 1 == 1))
  | 1, 0 => some (.sigadd (hdrOf w) (.ofNat 7 (bf w 22 7)) (.ofNat 7 (bf w 29 7)) (.ofNat 20 (bf w 44 20)))
  | 2, 0 => some (.sigwait (hdrOf w) (.ofNat 7 (bf w 22 7)) (.ofNat 7 (bf w 29 7)) (.ofNat 18 (bf w 44 18)) (.ofNat 2 (bf w 62 2)))
  | 3, 0 => some (.sigtest (hdrOf w) (.ofNat 7 (bf w 15 7)) (.ofNat 7 (bf w 22 7)) (.ofNat 7 (bf w 29 7)) (.ofNat 18 (bf w 44 18)) (.ofNat 2 (bf w 62 2)))
  | _, _ => none

/-- MAJ 0x16: the minor and LEN pick the form (R141). -/
def buildAddr (w mn len : Nat) : Option Instr :=
  match mn, len with
  | 0, 0 => some (.gaddr (hdrOf w) (.ofNat 7 (bf w 15 7)) (.ofNat 7 (bf w 22 7)))
  | 1, 0 => some (.saddr (hdrOf w) (.ofNat 7 (bf w 15 7)) (.ofNat 7 (bf w 22 7)))
  | _, _ => none

/-- MAJ 0x20: the minor and LEN pick the form (R141). -/
def buildStrand (w mn len : Nat) : Option Instr :=
  match mn, len with
  | 0, 1 => some (.spawn (hdrOf w) (.ofNat 7 (bf w 15 7)) (.ofNat 7 (bf w 22 7)) (.ofNat 7 (bf w 29 7)) (.ofNat 7 (bf w 44 7)) (.ofNat 7 (bf w 51 7)) (.ofNat 29 (bf w 58 29)) (.ofNat 6 (bf w 87 6)))
  | 1, 1 => some (.spawnq (hdrOf w) (.ofNat 7 (bf w 15 7)) (.ofNat 7 (bf w 22 7)) (.ofNat 7 (bf w 29 7)) (.ofNat 7 (bf w 44 7)) (.ofNat 7 (bf w 51 7)) (.ofNat 29 (bf w 58 29)) (.ofNat 6 (bf w 87 6)))
  | 2, 1 => some (.forkr (hdrOf w) (.ofNat 7 (bf w 22 7)) (.ofNat 7 (bf w 29 7)) (.ofNat 7 (bf w 44 7)) (.ofNat 29 (bf w 58 29)) (.ofNat 6 (bf w 87 6)) (.ofNat 3 (bf w 93 3)))
  | 3, 0 => some (.await (hdrOf w) (.ofNat 7 (bf w 22 7)) (bf w 44 1 == 1))
  | 4, 0 => some (.jinit (hdrOf w) (.ofNat 7 (bf w 22 7)) (.ofNat 7 (bf w 29 7)) (.ofNat 20 (bf w 44 20)))
  | 5, 0 => some (.quit (hdrOf w))
  | 6, 0 => some (.migrate (hdrOf w) (.ofNat 7 (bf w 15 7)) (.ofNat 2 (bf w 44 2)))
  | _, _ => none

/-- MAJ 0x21: the minor and LEN pick the form (R141). -/
def buildCtx (w mn len : Nat) : Option Instr :=
  match mn, len with
  | 0, 0 => some (.ctxstart (hdrOf w) (.ofNat 7 (bf w 22 7)))
  | 1, 0 => some (.ctxreap (hdrOf w) (.ofNat 7 (bf w 22 7)))
  | 2, 0 => some (.ctxsave (hdrOf w) (.ofNat 7 (bf w 15 7)) (.ofNat 7 (bf w 22 7)) (.ofNat 7 (bf w 29 7)) (bf w 44 1 == 1))
  | 3, 0 => some (.ctxload (hdrOf w) (.ofNat 7 (bf w 15 7)) (.ofNat 7 (bf w 22 7)) (.ofNat 7 (bf w 29 7)))
  | 4, 0 => some (.ctxstat (hdrOf w) (.ofNat 7 (bf w 15 7)) (.ofNat 7 (bf w 22 7)))
  | _, _ => none

/-- MAJ 0x22: the minor and LEN pick the form (R141). -/
def buildDeque (w mn len : Nat) : Option Instr :=
  match mn, len with
  | 0, 0 => some (.dqinit (hdrOf w) (.ofNat 7 (bf w 22 7)) (.ofNat 4 (bf w 44 4)))
  | 1, 0 => some (.dqpush (hdrOf w) (.ofNat 7 (bf w 15 7)) (.ofNat 7 (bf w 22 7)) (.ofNat 7 (bf w 29 7)))
  | 2, 0 => some (.dqpop (hdrOf w) (.ofNat 7 (bf w 15 7)) (.ofNat 7 (bf w 22 7)))
  | 3, 0 => some (.dqsteal (hdrOf w) (.ofNat 7 (bf w 15 7)) (.ofNat 7 (bf w 22 7)))
  | 4, 0 => some (.detach (hdrOf w) (.ofNat 7 (bf w 22 7)) (.ofNat 20 (bf w 44 20)))
  | _, _ => none

/-- MAJ 0x23: the minor and LEN pick the form (R141). -/
def buildHwq (w mn len : Nat) : Option Instr :=
  match mn, len with
  | 0, 0 => some (.qpush (hdrOf w) (.ofNat 7 (bf w 22 7)) (.ofNat 7 (bf w 29 7)) (bf w 44 1 == 1))
  | 1, 0 => some (.qpop (hdrOf w) (.ofNat 7 (bf w 15 7)) (.ofNat 7 (bf w 22 7)))
  | 2, 0 => some (.qbind (hdrOf w) (.ofNat 2 (bf w 44 2)) (.ofNat 4 (bf w 46 4)) (.ofNat 2 (bf w 50 2)))
  | _, _ => none

/-- MAJ 0x28: the minor and LEN pick the form (R141). -/
def buildShape (w mn len : Nat) : Option Instr :=
  match mn, len with
  | 0, 0 => some (.ldshp (hdrOf w) (.ofNat 7 (bf w 22 7)) (.ofNat 4 (bf w 44 4)) (.ofNat 16 (bf w 48 16)))
  | 1, 0 => some (.stshp (hdrOf w) (.ofNat 7 (bf w 22 7)) (.ofNat 4 (bf w 44 4)) (.ofNat 16 (bf w 48 16)))
  | 2, 0 => some (.shpset (hdrOf w) (.ofNat 7 (bf w 22 7)) (.ofNat 4 (bf w 44 4)) (.ofNat 4 (bf w 48 4)))
  | 3, 0 => some (.shpget (hdrOf w) (.ofNat 7 (bf w 15 7)) (.ofNat 4 (bf w 44 4)) (.ofNat 4 (bf w 48 4)))
  | _, _ => none

/-- MAJ 0x29: the minor and LEN pick the form (R141). -/
def buildTelem (w mn len : Nat) : Option Instr :=
  match mn, len with
  | 0, 2 => (Ty.ofCode (bf w 64 4)).map fun cty => .tadd (hdrOf w) (.ofNat 7 (bf w 22 7)) (.ofNat 4 (bf w 44 4)) (.ofNat 4 (bf w 48 4)) (.ofNat 4 (bf w 52 4)) (bf w 60 1 == 1) cty (.ofNat 2 (bf w 68 2)) (bf w 70 1 == 1)
  | 1, 2 => (Ty.ofCode (bf w 64 4)).map fun cty => .tsub (hdrOf w) (.ofNat 7 (bf w 22 7)) (.ofNat 4 (bf w 44 4)) (.ofNat 4 (bf w 48 4)) (.ofNat 4 (bf w 52 4)) (bf w 60 1 == 1) cty (.ofNat 2 (bf w 68 2)) (bf w 70 1 == 1)
  | 2, 2 => (Ty.ofCode (bf w 64 4)).map fun cty => .tmul (hdrOf w) (.ofNat 7 (bf w 22 7)) (.ofNat 4 (bf w 44 4)) (.ofNat 4 (bf w 48 4)) (.ofNat 4 (bf w 52 4)) (bf w 60 1 == 1) cty (.ofNat 2 (bf w 68 2)) (bf w 70 1 == 1)
  | 3, 2 => (Ty.ofCode (bf w 64 4)).map fun cty => .tfma (hdrOf w) (.ofNat 7 (bf w 22 7)) (.ofNat 7 (bf w 29 7)) (.ofNat 4 (bf w 44 4)) (.ofNat 4 (bf w 48 4)) (.ofNat 4 (bf w 52 4)) (.ofNat 4 (bf w 56 4)) (bf w 60 1 == 1) (bf w 61 1 == 1) cty (.ofNat 2 (bf w 68 2))
  | 4, 2 => (Ty.ofCode (bf w 64 4)).map fun cty => .tmin (hdrOf w) (.ofNat 7 (bf w 22 7)) (.ofNat 4 (bf w 44 4)) (.ofNat 4 (bf w 48 4)) (.ofNat 4 (bf w 52 4)) (bf w 60 1 == 1) cty (.ofNat 2 (bf w 68 2))
  | 5, 2 => (Ty.ofCode (bf w 64 4)).map fun cty => .tmax (hdrOf w) (.ofNat 7 (bf w 22 7)) (.ofNat 4 (bf w 44 4)) (.ofNat 4 (bf w 48 4)) (.ofNat 4 (bf w 52 4)) (bf w 60 1 == 1) cty (.ofNat 2 (bf w 68 2))
  | 6, 2 => (Ty.ofCode (bf w 64 4)).map fun cty => .tabs (hdrOf w) (.ofNat 4 (bf w 44 4)) (.ofNat 4 (bf w 48 4)) cty (.ofNat 2 (bf w 68 2)) (bf w 70 1 == 1)
  | 7, 2 => (Ty.ofCode (bf w 64 4)).map fun cty => .tneg (hdrOf w) (.ofNat 4 (bf w 44 4)) (.ofNat 4 (bf w 48 4)) cty (.ofNat 2 (bf w 68 2)) (bf w 70 1 == 1)
  | 8, 2 => (Ty.ofCode (bf w 64 4)).map fun cty => .tand (hdrOf w) (.ofNat 7 (bf w 22 7)) (.ofNat 4 (bf w 44 4)) (.ofNat 4 (bf w 48 4)) (.ofNat 4 (bf w 52 4)) (bf w 60 1 == 1) cty (.ofNat 2 (bf w 68 2))
  | 9, 2 => (Ty.ofCode (bf w 64 4)).map fun cty => .tor (hdrOf w) (.ofNat 7 (bf w 22 7)) (.ofNat 4 (bf w 44 4)) (.ofNat 4 (bf w 48 4)) (.ofNat 4 (bf w 52 4)) (bf w 60 1 == 1) cty (.ofNat 2 (bf w 68 2))
  | 10, 2 => (Ty.ofCode (bf w 64 4)).map fun cty => .txor (hdrOf w) (.ofNat 7 (bf w 22 7)) (.ofNat 4 (bf w 44 4)) (.ofNat 4 (bf w 48 4)) (.ofNat 4 (bf w 52 4)) (bf w 60 1 == 1) cty (.ofNat 2 (bf w 68 2))
  | 11, 2 => (Ty.ofCode (bf w 64 4)).map fun cty => .tshl (hdrOf w) (.ofNat 7 (bf w 22 7)) (.ofNat 4 (bf w 44 4)) (.ofNat 4 (bf w 48 4)) (.ofNat 4 (bf w 52 4)) (bf w 60 1 == 1) cty (.ofNat 2 (bf w 68 2))
  | 12, 2 => (Ty.ofCode (bf w 64 4)).map fun cty => .tshr (hdrOf w) (.ofNat 7 (bf w 22 7)) (.ofNat 4 (bf w 44 4)) (.ofNat 4 (bf w 48 4)) (.ofNat 4 (bf w 52 4)) (bf w 60 1 == 1) cty (.ofNat 2 (bf w 68 2)) (bf w 72 1 == 1)
  | _, _ => none

/-- MAJ 0x2a: the minor and LEN pick the form (R141). -/
def buildTdata (w mn len : Nat) : Option Instr :=
  match mn, len with
  | 0, 2 => some (.tcvt (hdrOf w) (.ofNat 4 (bf w 44 4)) (.ofNat 4 (bf w 48 4)) (.ofNat 2 (bf w 68 2)))
  | 1, 2 => some (.tsplit3 (hdrOf w) (.ofNat 4 (bf w 44 4)) (.ofNat 4 (bf w 48 4)) (.ofNat 4 (bf w 52 4)) (.ofNat 4 (bf w 56 4)))
  | 2, 2 => (Ty.ofCode (bf w 64 4)).map fun cty => .tred (hdrOf w) (.ofNat 4 (bf w 44 4)) (.ofNat 4 (bf w 48 4)) cty (.ofNat 2 (bf w 68 2)) (.ofNat 2 (bf w 72 2))
  | 3, 2 => (Ty.ofCode (bf w 64 4)).map fun cty => .tcmp (hdrOf w) (.ofNat 7 (bf w 22 7)) (.ofNat 4 (bf w 44 4)) (.ofNat 4 (bf w 48 4)) (.ofNat 4 (bf w 52 4)) (bf w 60 1 == 1) cty (.ofNat 2 (bf w 68 2)) (.ofNat 3 (bf w 72 3)) (bf w 75 1 == 1)
  | 4, 2 => some (.tsel (hdrOf w) (.ofNat 4 (bf w 44 4)) (.ofNat 4 (bf w 48 4)) (.ofNat 4 (bf w 52 4)) (.ofNat 4 (bf w 56 4)))
  | 5, 2 => some (.tgath (hdrOf w) (.ofNat 4 (bf w 44 4)) (.ofNat 4 (bf w 48 4)) (.ofNat 4 (bf w 52 4)))
  | 6, 2 => some (.tscat (hdrOf w) (.ofNat 4 (bf w 44 4)) (.ofNat 4 (bf w 48 4)) (.ofNat 4 (bf w 52 4)))
  | 7, 2 => some (.tfill (hdrOf w) (.ofNat 7 (bf w 22 7)) (.ofNat 4 (bf w 44 4)))
  | 8, 2 => some (.tcopy (hdrOf w) (.ofNat 4 (bf w 44 4)) (.ofNat 4 (bf w 48 4)))
  | _, _ => none

/-- MAJ 0x2b: the minor and LEN pick the form (R141). -/
def buildTsfu (w mn len : Nat) : Option Instr :=
  match mn, len with
  | 0, 2 => (Ty.ofCode (bf w 64 4)).map fun cty => .tsfu (hdrOf w) (.ofNat 7 (bf w 22 7)) (.ofNat 4 (bf w 44 4)) (.ofNat 4 (bf w 48 4)) (.ofNat 4 (bf w 52 4)) (bf w 60 1 == 1) cty (.ofNat 2 (bf w 68 2)) (.ofNat 4 (bf w 72 4))
  | _, _ => none

/-- MAJ 0x30: the minor and LEN pick the form (R141). -/
def buildMatrix (w mn len : Nat) : Option Instr :=
  match mn, len with
  | 0, 0 => some (.mmgang (hdrOf w) (.ofNat 2 (bf w 44 2)))
  | 1, 2 => some (.mmldb (hdrOf w) (.ofNat 4 (bf w 52 4)))
  | 2, 2 => some (.mma (hdrOf w) (.ofNat 4 (bf w 48 4)) (.ofNat 8 (bf w 80 8)))
  | 3, 2 => some (.mmst (hdrOf w) (.ofNat 4 (bf w 44 4)) (.ofNat 2 (bf w 68 2)) (.ofNat 8 (bf w 80 8)) (.ofNat 8 (bf w 88 8)))
  | 4, 0 => some (.mmz (hdrOf w) (bf w 44 1 == 1))
  | _, _ => none

/-- MAJ 0x31: the minor and LEN pick the form (R141). -/
def buildCopy (w mn len : Nat) : Option Instr :=
  match mn, len with
  | 0, 2 => some (.cpy (hdrOf w) (.ofNat 7 (bf w 22 7)) (.ofNat 7 (bf w 29 7)) (.ofNat 4 (bf w 44 4)) (.ofNat 4 (bf w 48 4)) (.ofNat 3 (bf w 68 3)) (bf w 71 1 == 1))
  | 1, 2 => some (.cpyred (hdrOf w) (.ofNat 7 (bf w 22 7)) (.ofNat 7 (bf w 29 7)) (.ofNat 4 (bf w 44 4)) (.ofNat 4 (bf w 48 4)) (.ofNat 3 (bf w 68 3)) (bf w 71 1 == 1) (.ofNat 2 (bf w 80 2)))
  | 2, 2 => some (.cpymm (hdrOf w) (.ofNat 7 (bf w 22 7)) (.ofNat 7 (bf w 29 7)) (.ofNat 4 (bf w 44 4)) (.ofNat 4 (bf w 48 4)) (.ofNat 4 (bf w 52 4)) (.ofNat 3 (bf w 68 3)) (bf w 71 1 == 1) (.ofNat 2 (bf w 82 2)) (.ofNat 8 (bf w 88 8)))
  | _, _ => none

/-- MAJ 0x32: the minor and LEN pick the form (R141). -/
def buildGraph (w mn len : Nat) : Option Instr :=
  match mn, len with
  | 0, 0 => some (.dgn (hdrOf w) (.ofNat 7 (bf w 22 7)) (.ofNat 7 (bf w 29 7)) (.ofNat 7 (bf w 44 7)) (.ofNat 3 (bf w 51 3)) (.ofNat 10 (bf w 54 10)))
  | 1, 0 => some (.dgdec (hdrOf w) (.ofNat 7 (bf w 22 7)))
  | 2, 0 => some (.engfork (hdrOf w) (.ofNat 7 (bf w 22 7)) (.ofNat 7 (bf w 29 7)))
  | 3, 0 => some (.engrend (hdrOf w) (bf w 44 1 == 1))
  | _, _ => none

/-- MAJ 0x33: the minor and LEN pick the form (R141). -/
def buildRefine (w mn len : Nat) : Option Instr :=
  match mn, len with
  | 0, 2 => some (.rfstart (hdrOf w) (.ofNat 7 (bf w 22 7)))
  | 1, 2 => some (.rfstat (hdrOf w) (.ofNat 7 (bf w 15 7)) (.ofNat 7 (bf w 22 7)))
  | _, _ => none

/-- MAJ 0x38: the minor and LEN pick the form (R141). -/
def buildRaster (w mn len : Nat) : Option Instr :=
  match mn, len with
  | 0, 2 => some (.tribin (hdrOf w) (.ofNat 7 (bf w 22 7)) (.ofNat 7 (bf w 29 7)) (.ofNat 4 (bf w 64 4)) (.ofNat 4 (bf w 68 4)) (.ofNat 2 (bf w 72 2)))
  | 1, 2 => some (.rast (hdrOf w) (.ofNat 7 (bf w 22 7)) (.ofNat 4 (bf w 64 4)) (.ofNat 3 (bf w 68 3)) (bf w 71 1 == 1) (bf w 72 1 == 1) (.ofNat 16 (bf w 80 16)))
  | 2, 2 => some (.pxlock (hdrOf w) (.ofNat 7 (bf w 22 7)) (.ofNat 7 (bf w 29 7)))
  | 3, 2 => some (.pxrel (hdrOf w) (.ofNat 7 (bf w 22 7)) (.ofNat 7 (bf w 29 7)))
  | _, _ => none

/-- MAJ 0x39: the minor and LEN pick the form (R141). -/
def buildEmit (w mn len : Nat) : Option Instr :=
  match mn, len with
  | 0, 0 => some (.emit (hdrOf w) (.ofNat 7 (bf w 15 7)) (.ofNat 7 (bf w 22 7)) (.ofNat 7 (bf w 29 7)) (bf w 44 1 == 1))
  | 1, 0 => some (.emstat (hdrOf w) (.ofNat 7 (bf w 15 7)) (.ofNat 7 (bf w 22 7)) (.ofNat 2 (bf w 44 2)))
  | _, _ => none

/-- The form an encoding selects, by MAJ, minor (or OP and TY) and LEN (R136, R139, R141). -/
def build (w : Nat) : Option Instr :=
  match bf w 2 6 with
  | 0 => buildSys w (bf w 36 8) (bf w 0 2)
  | 1 => (Ty.ofCode (bf w 36 4)).bind (buildIarith w (bf w 40 4) (bf w 0 2))
  | 2 => (Ty.ofCode (bf w 36 4)).bind (buildIlogic w (bf w 40 4) (bf w 0 2))
  | 3 => buildIimm w (bf w 36 8) (bf w 0 2)
  | 4 => buildMove w (bf w 36 8) (bf w 0 2)
  | 5 => buildCond w (bf w 36 8) (bf w 0 2)
  | 6 => (Ty.ofCode (bf w 36 4)).bind (buildPacked w (bf w 40 4) (bf w 0 2))
  | 7 => (Ty.ofCode (bf w 36 4)).bind (buildCvt w (bf w 40 4) (bf w 0 2))
  | 8 => (Ty.ofCode (bf w 36 4)).bind (buildFarith w (bf w 40 4) (bf w 0 2))
  | 9 => (Ty.ofCode (bf w 36 4)).bind (buildFcmp w (bf w 40 4) (bf w 0 2))
  | 10 => (Ty.ofCode (bf w 36 4)).bind (buildFsfu w (bf w 40 4) (bf w 0 2))
  | 12 => buildBranch w (bf w 36 8) (bf w 0 2)
  | 16 => (Ty.ofCode (bf w 36 4)).bind (buildLoad w (bf w 40 4) (bf w 0 2))
  | 17 => (Ty.ofCode (bf w 36 4)).bind (buildStore w (bf w 40 4) (bf w 0 2))
  | 18 => buildCache w (bf w 36 8) (bf w 0 2)
  | 19 => (Ty.ofCode (bf w 36 4)).bind (buildAtomic w (bf w 40 4) (bf w 0 2))
  | 20 => buildMsg w (bf w 36 8) (bf w 0 2)
  | 21 => buildSig w (bf w 36 8) (bf w 0 2)
  | 22 => buildAddr w (bf w 36 8) (bf w 0 2)
  | 32 => buildStrand w (bf w 36 8) (bf w 0 2)
  | 33 => buildCtx w (bf w 36 8) (bf w 0 2)
  | 34 => buildDeque w (bf w 36 8) (bf w 0 2)
  | 35 => buildHwq w (bf w 36 8) (bf w 0 2)
  | 40 => buildShape w (bf w 36 8) (bf w 0 2)
  | 41 => buildTelem w (bf w 36 8) (bf w 0 2)
  | 42 => buildTdata w (bf w 36 8) (bf w 0 2)
  | 43 => buildTsfu w (bf w 36 8) (bf w 0 2)
  | 48 => buildMatrix w (bf w 36 8) (bf w 0 2)
  | 49 => buildCopy w (bf w 36 8) (bf w 0 2)
  | 50 => buildGraph w (bf w 36 8) (bf w 0 2)
  | 51 => buildRefine w (bf w 36 8) (bf w 0 2)
  | 56 => buildRaster w (bf w 36 8) (bf w 0 2)
  | 57 => buildEmit w (bf w 36 8) (bf w 0 2)
  | _ => none

/-- Decoding, in the order of steps 2, 3 and 4 of R143. A reserved field is found by encoding the form again: what the
form does not use must be zero (R138). -/
def decode (w : Nat) : Except Reject Instr :=
  if bf w 0 2 = 3 then .error .lenThree
  else match build w with
    | none => .error .noForm
    | some i =>
      if i.wf = false then .error .badField
      else if i.encode = w then .ok i else .error .reserved

/-- Decoding from bytes in memory order: the instruction and the bytes after it (R133). -/
def decodeBytes (bs : List Byte) : Except Reject (Instr × List Byte) :=
  let n := lenBytes (natOfBytes (bs.take 1))
  (decode (natOfBytes (bs.take n))).map fun i => (i, bs.drop n)

/-- The bytes of the instruction whose bits are `w`, zeros above the bits given, up to the longest instruction. -/
def tableBytes (nbits w : Nat) : List Byte := bytesOfNat 16 (w % 2 ^ nbits)

/-- The instruction the decoder reads from a row's word, laid out in memory as R133 says. -/
def decodeTableWord (nbits w : Nat) : Option Instr :=
  match decodeBytes (tableBytes nbits w) with
  | .ok (i, _) => some i
  | .error _ => none

end Sys2Proof
end

