-- ==== Sys2Proof/Machine/Graph.lean ====
section
/-! DEFINITION. Dependence graphs, engine scripts and ENGREND: major 0x32 (R262-R268), and their events. -/

namespace Sys2Proof.Machine

/-! ### Nodes (R262-R265) -/

/-- A node's first word: ACT, CTX, SLOT and LIVE. -/
def State.nodeWord (s : State) (c off : Nat) : Nat := s.loadN (scrKey c off) 4

/-- A node is LIVE. -/
def State.nodeLive (s : State) (c off : Nat) : Bool := (s.nodeWord c off).testBit 31

/-- An address in the issuing core's own scratchpad, aligned: its offset (R263, R267). -/
def State.ownAddr (s : State) (c x p : Nat) (a : Word) (n align : Nat) : Except TrapE Nat :=
  if !s.ownTag c a ∨ a.toNat % align ≠ 0 then .error (kOperand, 0, 0)
  else match s.decodeIn p c x a n true with
    | .ok (.scr _ off) => .ok off
    | .ok _ => .error (kOperand, 0, 0)
    | .error e => .error (engFault e a)

/-- A node's place on any core of the partition. -/
def State.nodePlace (s : State) (c x p : Nat) (a : Word) : Option (Nat × Nat) :=
  match s.decodeIn p c x a 32 true with
  | .ok (.scr core off) => if (fld a 60 4 = 0xC ∨ fld a 60 4 = 0xD) ∧ a.toNat % 32 = 0 then some (core, off) else none
  | _ => none

/-- A live node of any core of the partition (R265). -/
def State.nodeTarget (s : State) (c x p : Nat) (a : Word) : Option (Nat × Nat) :=
  (s.nodePlace c x p a).filter fun n => s.nodeLive n.1 n.2

/-- The lowest free summary slot. -/
def Core.freeSumm (k : Core) : Option Nat := (List.range 64).find? fun i => (k.slots.find i).isNone

/-- A node fires: LIVE clears and its action waits its turn at the graph unit (R264), with the address space of the strand
that is then in the context which wrote the node (log entry 40). -/
def State.fire (s : State) (c off : Nat) : State :=
  let w := s.nodeWord c off
  let x := w / 256 % 16
  let slot := w / 2 ^ 16 % 64
  let key := scrKey c off
  ((s.setBytes key (toBytes 4 (w % 2 ^ 31))).onCore c fun v => { v with
    nodes := v.nodes.filter (· != off)
    fired := v.fired ++ [{ act := w % 8, target := .ofNat 64 (s.loadN (key + 24) 8), arg := .ofNat 64 (s.loadN (key + 16) 8)
                           ctx := x, part := s.partOf c, as := (s.ctx c x).as, summ := v.slots.get 0 slot, slot := slot, off := off
                           stopped := false }] }).plan (.nodeAction c)

/-- The graph unit waits while a record of its own is held for room in the trap queue (R340). -/
def Core.graphBlocked (k : Core) : Bool := k.trapHeld.any fun r => recKind r == 0x11

/-- A decrement reaches a node with an edge's summary; one that is not LIVE discards it with a graph-error record
(R264). -/
def State.nodeDec (s : State) (c off : Nat) (f : Summary) : State :=
  if (s.core c).graphBlocked then s.plan (.nodeDecrement c off f)
  else if !s.nodeLive c off then s.post c 0x11 0 0 0 (.ofNat 64 (0xC * 2 ^ 60 + off))
  else
    let slot := s.nodeWord c off / 2 ^ 16 % 64
    let n : BitVec 32 := .ofNat 32 (s.loadN (scrKey c off + 12) 4) - 1
    let s1 := (s.onCore c fun v => { v with slots := v.slots.put slot (v.slots.get 0 slot ||| f) }).setBytes
      (scrKey c off + 12) (toBytes 4 n.toNat)
    if n = 0 then s1.fire c off else s1

/-- NODE_DECREMENT (R264). -/
def execNodeDecrement (core off : Nat) (delivered : Summary) (s : State) : Res := .next (s.nodeDec core off delivered)

/-- DGN (R263). -/
def dgn (act count : Nat) (v : List Word) (s : State) : Body :=
  let c := s.cur
  let x := s.actor
  match s.ownAddr c x (s.partOf c) (v0 v) 32 32 with
  | .error e => .ofTrap s e
  | .ok off =>
    let s := s.drainOwn (scrKey c off)
    if s.nodeLive c off ∨ 6 ≤ act then .operand s
    else match (s.core c).freeSumm with
      | none => .wait s
      | some i =>
        let w := act + x * 256 + i * 2 ^ 16 + 2 ^ 31
        let s1 := s.setBytes (scrKey c off) (toBytes 4 w ++ toBytes 8 0 ++ toBytes 4 count ++ toBytes 8 (v2 v).toNat ++
          toBytes 8 (v1 v).toNat)
        let s2 := s1.onCore c fun k => { k with slots := k.slots.put i s.me.summ, nodes := k.nodes ++ [off] }
        .done (if count = 0 then s2.fire c off else s2) [] .fall
def execDgn (h : Hdr) (a b c : Opnd) (act : BitVec 3) (count : BitVec 10) (s : State) : Res :=
  .next (s.issue .any h 8 [a, b, c] [] (dgn act.toNat count.toNat))

/-- DGDEC (R265): a Publish, then the decrement of a node that is live once what the Publish waits for has been performed,
with the strand's summary; the strand is interlocked until the node's core accepts it, which a graph unit that waits for
room in the trap queue does not (R340). -/
def dgdec (a : Word) (s : State) : Body :=
  let c := s.cur
  let x := s.actor
  match s.nodePlace c x (s.partOf c) a with
  | none => .operand s
  | some (core, off) =>
    let s1 := (s.publish c x).drain c false (scrKey core off)
    if !s1.nodeLive core off then .operand s1
    else if (s1.core core).graphBlocked then .wait s1
    else .done (s1.nodeDec core off (s1.ctx c x).summ) [] .fall
def execDgdec (h : Hdr) (a : Opnd) (s : State) : Res := .next (s.issue .any h 8 [a] [] fun v s => dgdec (v0 v) s)

/-! ### Starting a script (R266, R267) -/

/-- A script's header is well formed: reserved bits zero, LEN at least 2. -/
def State.headerOk (s : State) (c off : Nat) : Bool :=
  let h := s.loadN (scrKey c off) 24
  decide (h % 2 ^ 128 = 0) && decide (h / 2 ^ 144 = 0) && decide (2 ≤ h / 2 ^ 128)

/-- A script's address and header, checked: its offset (R267). -/
def State.scriptAt (s : State) (c x p : Nat) (a : Word) : Except TrapE Nat :=
  match s.ownAddr c x p a 64 64 with
  | .error _ => .error (kOperand, 0, 0)
  | .ok off => if s.headerOk c off then .ok off else .error (kOperand, 0, 0)

/-- The lowest idle sequencer of a core. -/
def Core.freeSeqr (k : Core) : Option Nat := (List.range 4).find? fun i => (k.seqrs.find i).isNone

/-- A sequencer takes a script, whose header is read now (R267), after what the core has posted, so that the script's
operations come after what its strand has done (R103). -/
def State.takeScript (s : State) (c q off : Nat) (node : Word) (x part as : Nat) (f : Summary) : State :=
  let s := s.settle c
  let key := scrKey c off
  (s.onCore c fun k => { k with sfuWait := k.sfuWait.filter (· != 16 + q), seqrs := k.seqrs.put q {
    off := off, pos := 0, len := s.loadN (key + 16) 2
    h := (List.range 4).map fun i => .ofNat 64 (s.loadN (key + 32 + 8 * i) 8)
    shpt := .ofNat 64 (s.loadN (key + 24) 8), node := node, ctx := x, part := part, as := as, ri := 0, status := 0
    total := 0, summ := f, regs := 0, stopped := false, caught := [] } }).plan (.scriptStart c q)

/-- A script changed. -/
def State.onScript (s : State) (c q : Nat) (f : Script → Script) : State :=
  match (s.core c).seqrs.find q with
  | none => s
  | some r => s.onCore c fun k => { k with seqrs := k.seqrs.put q (f r) }

/-- SCRIPT_START: the sequencer goes to the script's first instruction (R267). -/
def State.scriptStart (s : State) (c q : Nat) : State :=
  match (s.core c).seqrs.find q with
  | none => s
  | some _ => s.plan (.scriptInstruction c q)
def execScriptStart (core seqr : Nat) (s : State) : Res := .next (s.scriptStart core seqr)

/-- ENGFORK (R267). -/
def engfork (a node : Word) (s : State) : Body :=
  let s := s.settle s.cur
  let c := s.cur
  let x := s.actor
  let p := s.partOf c
  match s.scriptAt c x p a with
  | .error e => .ofTrap s e
  | .ok off =>
    if node ≠ 0 ∧ (s.nodeTarget c x p node).isNone then .operand s
    else match (s.core c).freeSeqr with
      | none => .wait s
      | some q => .done (s.takeScript c q off node x p s.me.as s.me.summ) [] .fall
def execEngfork (h : Hdr) (a b : Opnd) (s : State) : Res :=
  .next (s.issue .any h 8 [a, b] [] fun v s => engfork (v0 v) (v1 v) s)

/-! ### The graph unit (R264) -/

/-- A fired action is over: its summary slot is freed. -/
def State.endFired (s : State) (c : Nat) (f : Fired) : State :=
  (s.onCore c fun k => { k with fired := dropFirst (· == f) k.fired, slots := k.slots.del f.slot }).rendezvous c f.ctx

/-- A rejected action stops, and its node's context takes an engine-fault trap (R261), whichever strand holds it by then (log
entry 135). One that its target rejects is not tried again (R260): what is left of it does nothing. -/
def State.stopFired (s : State) (c : Nat) (f : Fired) (e : TrapE) : State :=
  let gone := e.1 == kOperand && f.act != 5
  let g := { f with stopped := true, act := if gone then 0 else f.act }
  (s.onCore c fun k => { k with fired := k.fired.map fun h => if h = f then g else h }).engineFault c
    f.ctx gone (engInfo e 0) 0 (engArg e)

/-- The target of a fired action, checked as an instruction's is (R195, R200, R263): a node of any core of the partition. -/
def State.firedBad (s : State) (c : Nat) (f : Fired) : Option TrapE :=
  match f.act with
  | 1 => s.actionBad c f.ctx f.part f.as 1 f.target
  | 2 => s.actionBad c f.ctx f.part f.as 1 f.target
  | 3 => s.actionBad c f.ctx f.part f.as 2 f.target
  | 4 => match s.decodeIn f.part c f.ctx f.target 32 true with
    | .ok (.scr _ _) => if f.target.toNat % 32 = 0 then none else some (kOperand, 0, 0)
    | _ => some (kOperand, 0, 0)
  | _ => none

/-- The graph unit performs the first action that has not stopped, or waits: for its partition, a full mailbox or a busy
sequencer (R264). A script that it starts is the target of the node's edge, so that its core refreshes first (R108, R128). -/
def State.graphAct (s : State) (c : Nat) : State :=
  let k := s.core c
  let again := fun (s : State) => s.plan (.nodeAction c)
  match k.fired.find? fun f => !f.stopped && f.part == s.partOf c with
  | none => if k.fired.any fun f => !f.stopped then again s else s
  | some f =>
    if k.graphBlocked then again s
    else if f.act = 5 then
      match s.scriptAt c f.ctx f.part f.target with
      | .error e => s.stopFired c f e
      | .ok off => match k.freeSeqr with
        | none => again s
        | some q => ((s.invalidate c f.summ).takeScript c q off f.arg f.ctx f.part f.as f.summ).endFired c f
    else match s.firedBad c f with
    | some e => s.stopFired c f e
    | none =>
      let act := match f.act with | 1 => 1 | 2 => 1 | 3 => 2 | 4 => 3 | _ => 0
      match s.perform c f.ctx f.part f.as act (f.act == 2) f.target f.arg f.summ (byCopy c) 0 with
      | .done s1 => s1.endFired c f
      | .full s1 => again s1
      | .bad s1 e => s1.stopFired c f e

/-- NODE_ACTION (R264). -/
def execNodeAction (core : Nat) (s : State) : Res := .next (s.graphAct core)

/-! ### Running a script (R266) -/

/-- What a script's instruction asks for. -/
inductive SOp where
  | nop
  | tensor (o : TOp)
  | mmz (rl : Bool)
  | mat (o : MOp) (n : Shp)
  | copy (form : Nat) (sd s1 s2 : Shp) (mop arow rop act : Nat) (pri : Bool) (xa xb : Opnd)
  | rend (fin : Bool)
  deriving DecidableEq, Repr

/-- The forms a script may hold (R266). -/
def scriptOp : Instr → Option (Hdr × SOp)
  | .nop h => some (h, .nop)
  | .tadd h xa sd s1 s2 b t rm m => some (h, .tensor (tAB 0 xa sd s1 s2 b t rm m false))
  | .tsub h xa sd s1 s2 b t rm m => some (h, .tensor (tAB 1 xa sd s1 s2 b t rm m false))
  | .tmul h xa sd s1 s2 b t rm m => some (h, .tensor (tAB 2 xa sd s1 s2 b t rm m false))
  | .tfma h xa xb sd s1 s2 s3 b c t rm => some (h, .tensor (tFma xa xb sd s1 s2 s3 b c t rm))
  | .tmin h xa sd s1 s2 b t rm => some (h, .tensor (tAB 4 xa sd s1 s2 b t rm false false))
  | .tmax h xa sd s1 s2 b t rm => some (h, .tensor (tAB 5 xa sd s1 s2 b t rm false false))
  | .tabs h sd s1 t rm m => some (h, .tensor (tA (.lanes 6 t rm.toNat m false) sd s1))
  | .tneg h sd s1 t rm m => some (h, .tensor (tA (.lanes 7 t rm.toNat m false) sd s1))
  | .tand h xa sd s1 s2 b t rm => some (h, .tensor (tAB 8 xa sd s1 s2 b t rm false false))
  | .tor h xa sd s1 s2 b t rm => some (h, .tensor (tAB 9 xa sd s1 s2 b t rm false false))
  | .txor h xa sd s1 s2 b t rm => some (h, .tensor (tAB 10 xa sd s1 s2 b t rm false false))
  | .tshl h xa sd s1 s2 b t rm => some (h, .tensor (tAB 11 xa sd s1 s2 b t rm false false))
  | .tshr h xa sd s1 s2 b t rm ar => some (h, .tensor (tAB 12 xa sd s1 s2 b t rm false ar))
  | .tcvt h sd s1 rm => some (h, .tensor (tA (.cvt rm.toNat) sd s1))
  | .tsplit3 h shi sx smid slo => some (h, .tensor (tABC .split shi sx smid slo))
  | .tred h sd s1 t rm op => some (h, .tensor (tA (.red op.toNat t rm.toNat) sd s1))
  | .tcmp h xa sd s1 s2 b t rm rel q => some (h, .tensor (tKB (.cmp t rel.toNat q rm.toNat) xa sd s1 s2 b))
  | .tsel h sd s1 s2 s3 => some (h, .tensor (tABC .sel sd s1 s2 s3))
  | .tgath h sd s1 s2 => some (h, .tensor (tKB .gath 0 sd s1 s2 false))
  | .tscat h sd s1 s2 => some (h, .tensor (tKB .scat 0 sd s1 s2 false))
  | .tfill h xa sd => some (h, .tensor (tFill xa sd))
  | .tcopy h sd s1 => some (h, .tensor (tA .copy sd s1))
  | .tsfu h xa sd s1 s2 b t rm fn => some (h, .tensor (tSfu xa sd s1 s2 b t rm fn))
  | .mmz h rl => some (h, .mmz rl)
  | .mmldb h sb => some (h, .mat .ldb sb)
  | .mma h sa r => some (h, .mat (.mma r.toNat) sa)
  | .mmst h sc rm r k => some (h, .mat (.st rm.toNat r.toNat k.toNat) sc)
  | .cpy h xa xb sd s1 act pri => some (h, .copy 0 sd s1 0 0 0 0 act.toNat pri xa xb)
  | .cpyred h xa xb sd s1 act pri rop => some (h, .copy 1 sd s1 0 0 0 rop.toNat act.toNat pri xa xb)
  | .cpymm h xa xb sd s1 s2 act pri mop arow => some (h, .copy 2 sd s1 s2 mop.toNat arow.toNat 0 act.toNat pri xa xb)
  | .engrend h fin => some (h, .rend fin)
  | _ => none

/-- The registers a script's operation reads. -/
def SOp.srcs : SOp → List Opnd
  | .tensor o => o.srcs
  | .copy _ _ _ _ _ _ _ act _ xa xb => actSrcs act xa xb
  | _ => []

/-- The value of a script's operand: g0 and h0 to h3 alone. -/
def Script.val (r : Script) (o : Opnd) : Option Word :=
  if o = 0 then some 0 else if 0x40 ≤ o.toNat ∧ o.toNat < 0x44 then some (nth 0 r.h (o.toNat - 0x40)) else none

/-- The address of a script's instruction, as its records name it (R261). -/
def Script.pc (r : Script) : Word := .ofNat 64 (0xC * 2 ^ 60 + r.off + 64 + 4 * r.pos)

/-- A script stops: its owner takes an engine-fault trap (R261, R266). -/
def State.stopScript (s : State) (c q : Nat) (r : Script) (e : TrapE) : State :=
  (s.onScript c q fun r => { r with stopped := true }).engineFault c r.ctx false (engInfo e r.ri) r.pc (engArg e)

/-- A shape record of a script's table, read when the instruction that names it is reached. -/
def State.scriptShape (s : State) (c : Nat) (r : Script) (n : Shp) : Except TrapE (BitVec 512) :=
  let a := r.shpt + .ofNat 64 (64 * n.toNat)
  if !s.ownTag c a then .error (kOperand, 0, 0)
  else do
    let k ← s.scrAt c r.ctx a 64
    .ok (.ofNat 512 (s.loadN k 64))

/-- The shape records an operation names, zero for a source it does not use: those caught when it was accepted, or else
those of the table now (R261, R266). -/
def State.scriptShapes (s : State) (c : Nat) (r : Script) (ns : List (Option Shp)) : Except TrapE (List (BitVec 512)) :=
  if r.caught.isEmpty then read ns else .ok r.caught
where
  /-- The records of the table. -/
  read : List (Option Shp) → Except TrapE (List (BitVec 512))
    | [] => .ok []
    | n :: ns => do
      let w ← match n with | none => .ok 0 | some n => s.scriptShape c r n
      let ws ← read ns
      .ok (w :: ws)

/-- The script goes on to its next instruction. -/
def State.scriptNext (s : State) (c q len : Nat) : State :=
  (s.onScript c q fun r => { r with pos := r.pos + len / 4, ri := 0, status := 0, total := 0, caught := [] }).plan
    (.scriptInstruction c q)

/-- The shapes a tensor operation names. -/
def TOp.named (o : TOp) : List (Option Shp) :=
  [some o.d, if o.useA then some o.a else none, if o.useB && o.xb.isNone then some o.b else none,
    if o.useC && o.xc.isNone then some o.c else none]

/-- A chunk of a script's tensor operation: the checks when it is reached, then a chunk, on the shapes it was accepted with;
a chunk on the special-function unit waits for the turn of its owner's context there (R175). -/
def State.scriptTensor (s : State) (c q : Nat) (r : Script) (o : TOp) (v : List Word) : State :=
  match s.scriptShapes c r o.named with
  | .error e => s.stopScript c q r e
  | .ok ws =>
    let sh := fun (i : Nat) => shapeOf (nth 0 ws i)
    let e : TEnv := { core := c, ctx := r.ctx, d := sh 0, a := sh 1, b := sh 2, c := sh 3
                      vb := if o.xb.isSome then v0 v else 0, vc := if o.xb.isSome then v1 v else v0 v }
    match (if r.caught.isEmpty then s.tCheck o e else none) with
    | some t => s.stopScript c q r t
    | none =>
      if o.onSfu && !(s.core c).sfuTurn (16 + q) then (s.onCore c (·.sfuAsk (16 + q))).plan (.scriptInstruction c q) else
      let s := if o.onSfu then s.onCore c (·.sfuTake (16 + q) none) else s
      let (u, bad) := runChunk o e ⟨s, r.ri, r.status, r.total⟩
      let r1 := { r with ri := u.ri, status := u.st, total := u.total, caught := ws }
      let s1 := u.s.onScript c q fun _ => r1
      match bad with
      | some t => s1.stopScript c q r1 t
      | none =>
        if u.ri < o.count e then s1.plan (.scriptInstruction c q)
        else match s1.putStatus c r.ctx e.d.stat u.st with
          | .error t => s1.stopScript c q r1 t
          | .ok s2 => s2.scriptNext c q 16

/-- A script's engines, claimed as its owner's: none while they are not to be had or another operation runs (R244,
R266). -/
def State.scriptEngine (s : State) (c q : Nat) (r : Script) : Option State :=
  match s.claimGang c (sidOf c r.ctx) r.part with
  | none => none
  | some s1 =>
    if (s1.core c).copies.any (fun e => e.2.seqr == some q && e.2.form == 2 && decide (e.2.phase < 3)) || s1.mxBusy c (4096 + q)
    then none else some s1

/-- A chunk of a script's matrix operation. -/
def State.scriptMatrix (s : State) (c q : Nat) (r : Script) (o : MOp) (n : Shp) : State :=
  match s.scriptEngine c q r with
  | none => s.plan (.scriptInstruction c q)
  | some s0 =>
    let ms := s0.members c
    match s0.scriptShapes c r [some n] with
    | .error e => s.stopScript c q r e
    | .ok ws =>
      let sh := shapeOf (nth 0 ws 0)
      let fresh := r.caught.isEmpty
      match (if fresh then s0.mCheck ms r.ctx o sh else none) with
      | some e => s.stopScript c q r e
      | none =>
        if fresh && !s0.mReady ms r.ctx o sh then s.stopScript c q r (kOperand, 0, 0)
        else
          let (u, bad) := (s0.setRun c (some (4096 + q))).mChunk ms r.ctx o sh r.pc r.ri r.status
          let r1 := { r with ri := u.ri, status := u.st, caught := ws }
          let s1 := u.s.onScript c q fun _ => r1
          let stop := fun (t : TrapE) => (s1.setRun c none).stopScript c q r1 t
          match bad with
          | some t => stop t
          | none =>
            if u.ri < o.count sh then s1.plan (.scriptInstruction c q)
            else
              let stat := match o with | .st _ _ _ => sh.stat | _ => 0
              match (if stat = 0 then .ok s1 else State.stStatus r.ctx stat u.st 0 s1 ms) with
              | .error t => stop t
              | .ok s2 => (s2.setRun c none).scriptNext c q 16

/-- A script's copy: its checks, then a slot (R257). One that finds none free tries again at its next event, and takes no turn
with the strands that wait (R255; log entry 134). -/
def State.scriptCopy (s : State) (c q : Nat) (r : Script) (form : Nat) (sd s1 s2 : Shp) (mop arow rop act : Nat) (pri : Bool)
    (v : List Word) : State :=
  let again := s.plan (.scriptInstruction c q)
  let go : Except TrapE Copy := do
    let d ← s.scriptShape c r sd
    let a ← s.scriptShape c r s1
    let m ← if form = 2 then s.scriptShape c r s2 else .ok 0
    .ok (newCopy form d a m mop arow rop act pri (v0 v) (v1 v) r.ctx r.part r.as r.pc r.summ (some q))
  match go with
  | .error e => s.stopScript c q r e
  | .ok k =>
    match s.copyBad c k with
    | some e => s.stopScript c q r e
    | none =>
      let take := fun (s : State) => match (s.core c).freeSlot with
        | none => again
        | some slot => if s.copyTurn c r.ctx then (s.acceptCopy c slot k).scriptNext c q 16 else again
      if form = 2 then
        match s.claim c (sidOf c r.ctx) r.part with
        | none => again
        | some t => if mop = 1 ∧ 1 < (t.mx c).gang then s.stopScript c q r (kOperand, 0, 0) else take t
      else take s

/-- ENGREND in a script: once its copies have completed it goes on, or ends (R268). -/
def State.scriptRend (s : State) (c q : Nat) (fin : Bool) : State :=
  if (s.core c).copies.any fun e => e.2.seqr == some q then s.plan (.scriptInstruction c q)
  else if fin then s.plan (.scriptEnd c q)
  else s.scriptNext c q 8

/-- An operation of a script runs, in whole or in part. -/
def State.scriptRun (s : State) (c q len : Nat) (r : Script) (o : SOp) (v : List Word) : State :=
  match o with
  | .nop => s.scriptNext c q len
  | .tensor o => s.scriptTensor c q r o v
  | .mmz rl => match s.scriptEngine c q r with
    | none => s.plan (.scriptInstruction c q)
    | some s1 => (s1.mmz r.ctx (s1.members c) rl).scriptNext c q len
  | .mat o n => s.scriptMatrix c q r o n
  | .copy form sd s1 s2 mop arow rop act pri _ _ => s.scriptCopy c q r form sd s1 s2 mop arow rop act pri v
  | .rend fin => s.scriptRend c q fin

/-- The bytes of a script's instruction, within LEN and the scratchpad: the length and the word. -/
def State.scriptFetch (s : State) (c : Nat) (r : Script) : Except TrapE (Nat × Nat) := do
  let bad : TrapE := (kIllegal, 0, 0)
  if r.len ≤ r.pos then .error bad
  else
    let k ← s.scrAt c r.ctx r.pc 4
    let n := lenBytes (s.loadN k 1)
    if 16 < n ∨ r.len < r.pos + n / 4 then .error bad
    else
      let k1 ← s.scrAt c r.ctx r.pc n
      .ok (n, s.loadN k1 n)

/-- SCRIPT_INSTRUCTION: the instruction a script has reached, or its next chunk (R266). -/
def State.scriptStep (s : State) (c q : Nat) : State :=
  match (s.core c).seqrs.find q with
  | none => s
  | some r =>
    if r.stopped then s
    else if s.partOf c ≠ r.part then s.plan (.scriptInstruction c q)
    else match s.scriptFetch c r with
      | .error e => s.stopScript c q r e
      | .ok (n, w) =>
        match (decode w).toOption.bind scriptOp with
        | none => s.stopScript c q r (kIllegal, 0, 0)
        | some (h, o) =>
          if h ≠ ⟨0, 0, false⟩ ∨ o.srcs.any fun a => (r.val a).isNone then s.stopScript c q r (kIllegal, 0, 0)
          else s.scriptRun c q n r o (o.srcs.map fun a => (r.val a).getD 0)
def execScriptInstruction (core seqr : Nat) (s : State) : Res := .next (s.scriptStep core seqr)

/-- SCRIPT_END: the completion node is decremented and the sequencer freed; the script's edge reaches its owner's next
ENGREND (R128, R267). -/
def State.scriptEnd (s : State) (c q : Nat) : State :=
  match (s.core c).seqrs.find q with
  | none => s
  | some r =>
    if r.stopped then s
    else if s.partOf c ≠ r.part then s.plan (.scriptEnd c q)
    else
      let f := r.summ ||| r.regs
      match s.perform c r.ctx r.part r.as (if r.node = 0 then 0 else 3) false r.node 0 f (byCopy c) r.pc with
      | .done s1 => (s1.onCore c fun k => { k with seqrs := k.seqrs.del q }).engineDone c r.ctx f
      | .full s1 => s1.plan (.scriptEnd c q)
      | .bad s1 e => s1.stopScript c q r e
def execScriptEnd (core seqr : Nat) (s : State) : Res := .next (s.scriptEnd core seqr)

/-! ### ENGREND in a strand (R268) -/

/-- ENGREND: parks while anything it waits for is outstanding; then a Refresh with the completion summaries. -/
def engrend (s : State) : Body :=
  let c := s.cur
  let x := s.actor
  if s.engOut c x then .park s .engrend
  else .done ((s.refresh c x s.me.eng).onMe fun k => { k with eng := 0 }) [] .fall
def execEngrend (h : Hdr) (fin : Bool) (s : State) : Res :=
  .next (if fin then s.takeTrap s.cur s.actor kIllegal 0 0 else s.issue .any h 8 [] [] fun _ s => engrend s)

/-! ### Stopped operations given again, and reaping (R261) -/

/-- A context's stopped copies, scripts and actions are given again from their resume indices. Nothing gives those of
context 0 again (log entry 112). -/
def State.regiveAll (s : State) (c x : Nat) : State :=
  let k := s.core c
  let s1 := (k.copies.filter fun e => e.2.ctx == x && e.2.part == s.partOf c).foldl (init := s) fun a e => a.regiveCopy c e.1 e.2
  let s2 := (k.seqrs.filter fun e => e.2.ctx == x && e.2.stopped).foldl (init := s1) fun a e =>
    (a.onScript c e.1 fun r => { r with stopped := false }).plan (.scriptInstruction c e.1)
  let mine := fun (f : Fired) => f.ctx == x && f.stopped
  (k.fired.filter mine).foldl
    (init := s2.onCore c fun k => { k with fired := k.fired.map fun f => if mine f then { f with stopped := false } else f })
    fun a _ => a.plan (.nodeAction c)

/-- A reaped context's copies and scripts end with no action, and its live nodes give up their slots and LIVE (R261). -/
def State.reapEngines (s : State) (c x : Nat) : State :=
  let k := s.core c
  let mine := k.nodes.filter fun o => s.nodeWord c o / 256 % 16 == x
  let gone := (mine.map fun o => s.nodeWord c o / 2 ^ 16 % 64) ++ (k.fired.filter fun f => f.ctx == x && f.stopped).map (·.slot)
  let s1 := mine.foldl (init := s) fun a o => a.setBytes (scrKey c o) (toBytes 4 (a.nodeWord c o % 2 ^ 31))
  s1.onCore c fun k => { k with
    copies := k.copies.filter fun e => !(e.2.ctx == x && e.2.part == s.partOf c)
    seqrs := k.seqrs.filter fun e => e.2.ctx != x
    nodes := k.nodes.filter fun o => !mine.contains o
    slots := k.slots.filter fun e => !gone.contains e.1
    fired := k.fired.filter fun f => !(f.ctx == x && f.stopped) }

end Sys2Proof.Machine
end

