-- ==== Sys2Proof/Machine/Message.lean ====
section
/-! DEFINITION. Mailbox messages and PUTQ: major 0x14 (R195-R199), and the arrival of a message. -/

namespace Sys2Proof.Machine

/-- SEND (R196): the name is checked, an edge message publishes, and the strand waits while the mailbox is full or an
earlier SEND of its core waits for it. -/
def sendMsg (hi ef : Bool) (name payload : Word) (s : State) : Body :=
  let c := s.cur
  let x := s.actor
  let p := s.partOf c
  match s.mailName p name with
  | .error e => .ofTrap s (transFault 0 1 0 e name)
  | .ok aim =>
    let s1 := if ef then s.publishTo c x aim.1 else s
    let wait := Body.wait (s1.onCore c fun k => k.offer x (s.aimOf aim) hi)
    if !(s.core c).offerTurn x (s.aimOf aim) hi then wait
    else match s1.sendMail p c aim hi ⟨payload, if ef then some (s.ctx c x).summ else none⟩ with
      | none => wait
      | some s2 => .done (s2.onCore c fun k => k.unoffer x) [] .fall
def execSend (h : Hdr) (a b : Opnd) (pri ef : Bool) (s : State) : Res :=
  .next (s.issue .any h 8 [a, b] [] fun v s => sendMsg pri ef (v0 v) (v1 v) s)

/-- A message or queue entry is taken: an edge one refreshes first (R108, R197, R220). -/
def takeMsg (m : Msg) (s : State) : Body :=
  .done (match m.summ with | none => s | some f => s.refresh s.cur s.actor f) [m.payload] .fall

/-- RECV and WAITM over the priorities they read, in order (R197). -/
def recvMsg (his : List Bool) (w : Wake) (s : State) : Body :=
  match s.me.grant with
  | some (v, f) => takeMsg ⟨v, f⟩ s
  | none =>
    match his.find? fun hi => !((s.core s.cur).mail hi).isEmpty with
    | none => .park s w
    | some hi =>
      match (s.core s.cur).mail hi with
      | [] => .park s w
      | m :: ms => takeMsg m (s.onCore s.cur fun k => (k.setMail hi ms).refill hi)
def execRecv (h : Hdr) (d : Opnd) (pri : Bool) (s : State) : Res :=
  .next (s.issue .any h 8 [] [(d, none)] fun _ s => recvMsg [pri] (.mail (some pri)) s)
def execWaitm (h : Hdr) (d : Opnd) (s : State) : Res :=
  .next (s.issue .any h 8 [] [(d, none)] fun _ s => recvMsg [true, false] (.mail none) s)

/-- A message that arrives from a copy, a node or another device; while its priority is full it waits at its source
(R196, R255). -/
def execMessageArrival (core : Nat) (hi : Bool) (payload : Word) (delivered : Option Summary) (s : State) : Res :=
  .next (if s.mailRoom core hi then s.deliver core hi ⟨payload, delivered⟩
    else s.plan (.messageArrival core hi payload delivered))

/-! ### PUTQ -/

/-- The partition that owns a queue, in whose tables PUTQ's destination is translated (log entry 12). -/
def State.ownerOf (s : State) (p q : Nat) : Nat :=
  let cs := (List.range 4).filter fun r => (s.hwq q).pmask.getLsbD r && r != p && decide ((s.part r).st ≠ 0)
  nth p cs (Config.owner q % max cs.length 1)

/-- The pages of a range: start and length. -/
def pagesOf (a n : Nat) : List (Nat × Nat) :=
  let k := min n (4096 - a % 4096)
  if n = 0 then [] else if n ≤ k then [(a, n)] else [(a, k), (a + k, n - k)]

/-- Writes a payload in the owner's address space 0, page by page; a page that faults stops it with the trap (R198,
R199). What the core has posted to those bytes before is performed first (R102, R119). A payload that passes the top of the
virtual space goes on at its page 0 (log entry 130). -/
def State.putPages (s : State) (c x own : Nat) : List (Nat × Nat) → List Byte → State × Option TrapE
  | [], _ => (s, none)
  | (a, n) :: ps, bs =>
    let fault := fun (lv stage : Nat) => some (transFault lv 1 stage 7 (.ofNat 64 (a / 4096 * 4096)))
    match s.walkBoth own 0 a with
    | .error (stage, lv, _) => (s, fault lv stage)
    | .ok t =>
      if s.ungranted own (t.mpa + a % t.size) true then (s, fault 0 0)
      else if t.refuses 1 ≠ 0 then (s, fault (s.refusedAt own 0 a 1).2 (s.refusedAt own 0 a 1).1)
      else
        let key := s.mpaKey (t.mpa + a % t.size)
        let s1 := (pieces (n + 1) key n).foldl (init := s) fun b pc =>
          ((b.clearSector c x pc.1).drain c t.hm pc.1).transact pc.1
        let s2 := s1.writeAt own t.hm key (bs.take n) (byStrand c x)
        (s2.mark c x (regionsOf (ownerAddr key) n)).putPages c x own ps (bs.drop n)

/-- Writes a payload to another device, page by page: its tables map each page to a place of its memory that only it knows,
and page `bad` faults there (R199; log entry 104). What the core has sent to those lines before is performed first (R119). -/
def State.putFar (s : State) (c x dev : Nat) (bad : Option Nat) : Nat → List (Nat × Nat) → List Byte → State × Option TrapE
  | _, [], _ => (s, none)
  | i, (a, n) :: ps, bs =>
    let v := Config.farPage s.free
    let s1 := { s with free := s.free + 1 }
    if bad = some i then (s1, some (transFault (v % 4 + 1) 1 (v / 4 % 2 + 1) 7 (.ofNat 64 (a / 4096 * 4096))))
    else
      let mpa := v % 2 ^ 26 * 4096 + a % 4096
      let key := 2 ^ 47 + dev * 2 ^ 42 + mpa
      let s1 := (pieces (n + 1) key n).foldl (init := s1) fun b pc => (b.drain c false pc.1).transact pc.1
      ((s1.setBytes key (bs.take n)).mark c x (regionOf mpa)).putFar c x dev bad (i + 1) ps (bs.drop n)

/-- A PUTQ to another device, whose answer is a free value (log entry 104): 0 the queue takes the entry, 1 it is not open to
the partition, 2 it is full, 3 a page of the destination faults. -/
def putqFar (dst hnd val : Word) (ef : Bool) (dev : Nat) (bs : List Byte) (s : State) : Body :=
  let c := s.cur
  let x := s.actor
  let ans := Config.farAnswer s.free
  let pages := pagesOf dst.toNat bs.length
  let s1 := { s with free := s.free + 1 }
  if ans % 4 = 1 then .operand s1
  else
    let s2 := if ef then s1.publishTo c x dev else s1
    if ans % 4 = 2 then .wait s2
    else
      let bad := if ans % 4 = 3 then some (ans / 4 % pages.length) else none
      match s2.putFar c x dev bad 0 pages bs with
      | (s3, some e) => .ofTrap s3 e
      | (s3, none) =>
        .done (s3.sendEdge c dev ef (.queue dev (handleQ hnd) ⟨val, if ef then some (s3.ctx c x).summ else none⟩)) [] .fall

/-- PUTQ (R198): the traps at issue, the Publish, the wait for room, the payload, then the push. -/
def putq (dst hnd src val : Word) (n : Nat) (ef : Bool) (dev : Nat) (s : State) : Body :=
  let c := s.cur
  let x := s.actor
  let p := s.partOf c
  let here := decide (dev = s.ownDev)
  if fld dst 52 12 ≠ 0 then .ofTrap s (transFault 0 1 0 1 dst)
  else if !here && !(s.otherDev dev && bit ((s.part p).fgrant.get 0 dev) 31) then .ofTrap s (transFault 0 1 0 8 dst)
  else Except.body (s.readRange c x src n 0) fun s1 bs =>
    if fld hnd 14 50 ≠ 0 then .operand s1
    else if !here then putqFar dst hnd val ef dev bs s1
    else if !s1.queueOk p hnd || (s1.hwq (handleQ hnd)).spawn then .operand s1
    else
      let s2 := if ef then s1.publish c x else s1
      let q := handleQ hnd
      if (s2.hwq q).isFull then .wait s2
      else
        match s2.putPages c x (s2.ownerOf p q) (pagesOf dst.toNat n) bs with
        | (s3, some e) => .ofTrap s3 e
        | (s3, none) => .done (s3.qPush q ⟨val, if ef then some (s3.ctx c x).summ else none⟩ (byStrand c x)) [] .fall
def execPutq (h : Hdr) (a b c e : Opnd) (lenm1 : BitVec 12) (ef : Bool) (dev : BitVec 4) (s : State) : Res :=
  .next (s.issue .any h 12 [a, b, c, e] [] fun v s =>
    putq (v0 v) (v1 v) (v2 v) (v3 v) (lenm1.toNat + 1) ef dev.toNat s)

end Sys2Proof.Machine
end

