-- ==== Sys2Proof/Machine/Hwq.lean ====
section
/-! DEFINITION. Hardware queues and queue-register bindings: major 0x23 (R219-R221). -/

namespace Sys2Proof.Machine

/-- A handle fails for QPUSH and QPOP (R101, R219). -/
def State.valueQ (s : State) (h : Word) : Bool := s.queueOk (s.partOf s.cur) h && !(s.hwq (handleQ h)).spawn

/-- QPUSH (R220). -/
def qpush (ef : Bool) (h v : Word) (s : State) : Body :=
  if !s.valueQ h then .operand s
  else
    let c := s.cur
    let x := s.actor
    let s1 := if ef then s.publish c x else s
    if (s1.hwq (handleQ h)).isFull then .wait s1
    else .done (s1.qPush (handleQ h) ⟨v, if ef then some (s1.ctx c x).summ else none⟩ (byStrand c x)) [] .fall
def execQpush (h : Hdr) (a b : Opnd) (ef : Bool) (s : State) : Res :=
  .next (s.issue .any h 8 [a, b] [] fun v s => qpush ef (v0 v) (v1 v) s)

/-- QPOP (R220): takes the oldest entry, or waits at the queue logic. -/
def qpop (h : Word) (s : State) : Body :=
  match s.me.grant with
  | some (v, f) => takeMsg ⟨v, f⟩ s
  | none =>
    if !s.valueQ h then .operand s
    else
      let q := handleQ h
      if (s.hwq q).canPop then takeMsg (s.qFront q) (s.qDrop q)
      else .park (s.onHwq q fun d => { d with pops := d.pops ++ [(s.cur, s.actor)] }) (.qpop q)
def execQpop (h : Hdr) (d a : Opnd) (s : State) : Res :=
  .next (s.issue .any h 8 [a] [(d, none)] fun v s => qpop (v0 v) s)

/-- QUEUE_POP_ASSIGN (R220). -/
def execQueuePopAssign (queue : Nat) (s : State) : Res := .next (s.assignPop queue)

/-- Another queue register of the core holds the role on the FIFO (R221). -/
def Core.roleHeld (k : Core) (x q fifo mode : Nat) : Bool := (k.boundTo fifo mode).any (· != (x, q))

/-- QBIND (R221). -/
def execQbind (h : Hdr) (qn : BitVec 2) (fifo : BitVec 4) (mode : BitVec 2) (s : State) : Res :=
  .next (s.issue .any h 8 [] [] fun _ s =>
    let c := s.cur
    let x := s.actor
    if mode = 0 then .done (s.onCtx c x fun k => { k with q := k.q.del qn.toNat }) [] .fall
    else if (s.core c).roleHeld x qn.toNat fifo.toNat mode.toNat then .operand s
    else .done (s.onCtx c x fun k => { k with q := k.q.put qn.toNat (.ofNat 6 (fifo.toNat + 16 * mode.toNat)) }) [] .fall)

end Sys2Proof.Machine
end

