-- ==== Sys2Proof/Machine/Form.lean ====
section
/-! DEFINITION. How each form issues: who may issue it (R141, R207), its length (R141), the registers it reads and writes
as its entry lists them, and its result's latency (R145). Statements use this table; the machine does not. -/

namespace Sys2Proof.Machine

/-- How a form issues: its gate, header and length, its sources in the order they are read, and its destinations. -/
structure Form where
  gate : Gate
  hdr  : Hdr
  len  : Nat
  srcs : List Opnd
  dsts : List Dst

/-- A form's row; an event has none. -/
def formOf : Instr → Option Form
  | .nop h | .br h _ | .qbind h _ _ _ | .mmgang h _ | .mmz h _ | .engrend h false => some ⟨.any, h, 8, [], []⟩
  | .trap h a _ | .brk h a _ | .pref h a _ | .cinv h a _ | .cwb h a _ | .dqinit h a _ | .ldshp h a _ _
    | .stshp h a _ _ | .shpset h a _ _ | .dgdec h a => some ⟨.any, h, 8, [a], []⟩
  | .tren h _ | .stop h _ => some ⟨.sup, h, 8, [], []⟩
  | .tret h => some ⟨.sup, h, 8, [0x46], []⟩
  | .mfs h d a _ | .waite h d a _ | .ctxrd h d a _ | .ctxstat h d a => some ⟨.sup, h, 8, [a], [(d, none)]⟩
  | .mts h a b _ | .ctxwr h a b _ => some ⟨.sup, h, 8, [a, b], []⟩
  | .tlbinv h a _ _ | .ctxstart h a | .ctxreap h a => some ⟨.sup, h, 8, [a], []⟩
  | .add h _ d a b | .sub h _ d a b | .min h _ d a b | .max h _ d a b | .and h _ d a b | .or h _ d a b
    | .xor h _ d a b | .andn h _ d a b | .shl h _ d a b | .shr h _ d a b | .shra h _ d a b | .rot h _ d a b
    | .ins h d a b _ _ | .cmp h d a b _ _ | .clog h d a b _ | .padd h _ d a b | .psub h _ d a b | .padds h _ d a b
    | .psubs h _ d a b | .pmin h _ d a b | .pmax h _ d a b | .pshl h _ d a b | .pshr h _ d a b | .pshra h _ d a b
    | .fmin h _ d a b | .fmax h _ d a b | .fsgn h _ d a b _ | .fcmp h _ d a b _ _ | .tsts h d a b _ | .dqpush h d a b
    | .emit h d a b _ => some ⟨.any, h, 8, [a, b], [(d, some 1)]⟩
  | .mul h _ d a b | .mulh h _ d a b | .pmul h _ d a b | .cvtn h _ d a b _ _ =>
    some ⟨.any, h, 8, [a, b], [(d, some 2)]⟩
  | .div h _ d a b | .rem h _ d a b => some ⟨.any, h, 8, [a, b], [(d, some 4)]⟩
  | .clz h _ d a | .ctz h _ d a | .popc h _ d a | .addi h d a _ | .andi h d a _ | .ori h d a _ | .xori h d a _
    | .shli h d a _ | .shri h d a _ | .shrai h d a _ | .mov h d a | .ext h d a _ _ _ | .cmpi h d a _ _ _
    | .fclass h _ d a | .jr h d a _ | .loop h d a _ | .gaddr h d a | .saddr h d a =>
    some ⟨.any, h, 8, [a], [(d, some 1)]⟩
  | .li h d _ | .addpc h d _ => some ⟨.any, h, 12, [], [(d, some 1)]⟩
  | .sel h d a b c => some ⟨.any, h, 8, [a, b, c], [(d, some 1)]⟩
  | .cvt h _ d a _ _ => some ⟨.any, h, 8, [a], [(d, some 2)]⟩
  | .fadd h ty d a b _ | .fsub h ty d a b _ | .fmul h ty d a b _ =>
    some ⟨.any, h, 8, [a, b], [(d, some (if ty = .f64 then 3 else 2))]⟩
  | .fma h ty d a b c _ => some ⟨.any, h, 8, [a, b, c], [(d, some (if ty = .f64 then 3 else 2))]⟩
  | .fdiv h _ d a b _ | .ldx h _ d a b _ | .sigtest h d a b _ _ => some ⟨.any, h, 8, [a, b], [(d, none)]⟩
  | .fsqrt h _ d a _ | .frcp h _ d a _ | .frsq h _ d a _ | .fexp2 h _ d a _ | .flog2 h _ d a _ | .fsin h _ d a _
    | .fcos h _ d a _ | .ftanh h _ d a _ | .ld h _ d a _ | .ldp h _ d a _ | .dqpop h d a | .dqsteal h d a
    | .qpop h d a | .emstat h d a _ => some ⟨.any, h, 8, [a], [(d, none)]⟩
  | .j h _ => some ⟨.any, h, 12, [], []⟩
  | .jl h d _ | .shpget h d _ _ => some ⟨.any, h, 8, [], [(d, some 1)]⟩
  | .st h _ a b _ | .stp h _ a b _ | .send h a b _ _ | .sigset h a b _ _ | .sigadd h a b _ | .sigwait h a b _ _
    | .jinit h a b _ | .qpush h a b _ | .engfork h a b => some ⟨.any, h, 8, [a, b], []⟩
  | .stx h _ a b c _ | .dgn h a b c _ _ => some ⟨.any, h, 8, [a, b, c], []⟩
  | .amo h _ d a b _ | .amof h _ d a b => some ⟨.any, h, 8, [a, b], [(d, if d = 0 then some 1 else none)]⟩
  | .cas h _ d a b c => some ⟨.any, h, 8, [a, b, c], [(d, if d = 0 then some 1 else none)]⟩
  | .recv h d _ | .waitm h d => some ⟨.any, h, 8, [], [(d, none)]⟩
  | .putq h a b c e _ _ _ => some ⟨.any, h, 12, [a, b, c, e], []⟩
  | .spawn h t a b c e _ _ | .spawnq h t a b c e _ _ => some ⟨.any, h, 12, [a, b, c, e, t], []⟩
  | .forkr h a b c _ _ _ => some ⟨.user, h, 12, [a, b, c], []⟩
  | .await h a yld => some ⟨if yld then .user else .any, h, 8, [a], []⟩
  | .quit h => some ⟨.user, h, 8, [], []⟩
  | .migrate h d _ => some ⟨.user, h, 8, [], [(d, some 1)]⟩
  | .detach h a _ => some ⟨.user, h, 8, [a], []⟩
  | .tadd h xa _ _ _ bsc _ _ _ | .tsub h xa _ _ _ bsc _ _ _ | .tmul h xa _ _ _ bsc _ _ _ | .tmin h xa _ _ _ bsc _ _
    | .tmax h xa _ _ _ bsc _ _ | .tand h xa _ _ _ bsc _ _ | .tor h xa _ _ _ bsc _ _ | .txor h xa _ _ _ bsc _ _
    | .tshl h xa _ _ _ bsc _ _ | .tshr h xa _ _ _ bsc _ _ _ | .tcmp h xa _ _ _ bsc _ _ _ _ =>
    some ⟨.any, h, 16, if bsc then [xa] else [], []⟩
  | .tfma h xa xb _ _ _ _ bsc csc _ _ =>
    some ⟨.any, h, 16, (if bsc then [xa] else []) ++ if csc then [xb] else [], []⟩
  | .tabs h _ _ _ _ _ | .tneg h _ _ _ _ _ | .tcvt h _ _ _ | .tsplit3 h _ _ _ _ | .tred h _ _ _ _ _ | .tsel h _ _ _ _
    | .tgath h _ _ _ | .tscat h _ _ _ | .tcopy h _ _ | .mmldb h _ | .mma h _ _ | .mmst h _ _ _ _ =>
    some ⟨.any, h, 16, [], []⟩
  | .tfill h xa _ => some ⟨.any, h, 16, [xa], []⟩
  | .tsfu h xa _ _ _ bsc _ _ fn => some ⟨.any, h, 16, if fn = 0 ∧ bsc = true then [xa] else [], []⟩
  | .cpy h xa xb _ _ act _ | .cpyred h xa xb _ _ act _ _ | .cpymm h xa xb _ _ _ act _ _ _ =>
    some ⟨.any, h, 16, if act = 0 then [] else if act = 3 then [xa] else [xa, xb], []⟩
  | .rfstart h a | .rast h a _ _ _ _ _ => some ⟨.any, h, 16, [a], []⟩
  | .rfstat h d a => some ⟨.any, h, 16, [a], [(d, none)]⟩
  | .tribin h a b _ _ _ | .pxlock h a b | .pxrel h a b => some ⟨.any, h, 16, [a, b], []⟩
  | .ctxsave h d a b _ | .ctxload h d a b => some ⟨.sup, h, 8, [a, b], [(d, none)]⟩
  | _ => none

end Sys2Proof.Machine
end

