-- ==== Sys2Proof/Machine/Issue.lean ====
section
/-! DEFINITION. An issue slot up to the point where its instruction runs (R19, R20, R133, R134, R142, R143, R182), and
the passage of time. -/

namespace Sys2Proof.Machine

/-- What a slot comes to: a bubble, or a trap taken before anything issues; or an instruction to run. -/
inductive Slot where
  | bubble (s : State)
  | go (s : State) (i : Instr)

/-- The lines that an instruction cache of 128 KiB holds (R11, R97). -/
def icacheLines : Nat := 1024

/-- An instruction cache with room for one more line: a full one gives up a line, which one the spec leaves open (R97; log
entry 102). -/
def Core.icacheRoom (k : Core) (draw : Nat) : Core :=
  if k.icache.length < 8 * icacheLines then k
  else
    let v := (k.icache[Config.pick draw % k.icache.length]?).elim 0 fun e => e.1 / 8
    { k with icache := k.icache.filter fun e => e.1 / 8 != v }

/-- Bytes from the instruction cache at a machine address, whose line is filled if absent (R97), after what the core has
sent to its home before it (R98, R99). While a line is held, a fetch returns the bytes that it was filled with; without an
edge the spec lets it return the old or the new ones (log entry 102). -/
def State.icacheLoad (s : State) (c : Nat) (hm : Bool) (key n : Nat) : State × Nat :=
  let s1 := if ((s.core c).icache.find (key / 16)).isSome then s
    else
      let s := s.drain c hm key
      { s with free := s.free + 1 }.onCore c fun k =>
        let k1 := k.icacheRoom s.free
        { k1 with icache := (lineOf key).foldl (fun a sec => a.put sec (s.homeSector sec)) k1.icache }
  (s1, ofBytes ((List.range n).map fun i =>
    secByte (((s1.core c).icache.find ((key + i) / 16)).getD (s.homeSector ((key + i) / 16))) ((key + i) % 16)))
where
  /-- The sectors of a line. -/
  lineOf (key : Nat) : List Nat := (List.range 8).map (key / 128 * 8 + ·)

/-- The translation of a fetch at an address (R143, R177): its page's home mode and its location. -/
def State.fetchAt (s : State) (c x : Nat) (pc : Word) : State × Except TrapE (Bool × Nat) :=
  if fld pc 52 12 ≠ 0 then (s, .error (transFault 0 2 0 1 pc))
  else match s.translate c (s.partOf c) (s.ctx c x).as pc.toNat 2 2 with
    | (s1, .error e) => (s1, .error (e.1, e.2.1, pc))
    | (s1, .ok t) => (s1, .ok (t.hm, s1.mpaKey (t.mpa + pc.toNat % t.size)))

/-- Decodes what stands at a location, with the fetch boundary (R134). -/
def State.decodeAt (s : State) (c x : Nat) (hm : Bool) (key : Nat) (pc : Word) : Slot :=
  let o := pc.toNat % 32
  let ill := fun (s : State) => Slot.bubble (s.takeTrap c x kIllegal 0 0)
  if pc.toNat % 4 ≠ 0 then ill s
  else
    let (s1, b) := s.icacheLoad c hm key 1
    let n := lenBytes b
    if b % 4 = 3 ∨ 32 < o + n then ill s1
    else
      let (s2, w) := s1.icacheLoad c hm key n
      match decode w with
      | .ok i => .go s2 i
      | .error _ => ill s2

/-- Fetches the instruction at the pc, passing over a pad (R182). -/
def State.fetch (s : State) (c x : Nat) : Slot :=
  let pc := (s.ctx c x).pc
  match s.fetchAt c x pc with
  | (s1, .error e) => .bubble (s1.takeTrap c x e.1 e.2.1 e.2.2)
  | (s1, .ok (hm, key)) =>
    if pc.toNat % 32 ≠ 28 then s1.decodeAt c x hm key pc
    else
      let (s2, w) := s1.icacheLoad c hm key 4
      if w ≠ 0 then s2.decodeAt c x hm key pc
      else
        let pc1 := pc + 4
        let s3 := s2.onCtx c x fun k => { k with pc := pc1 }
        match s3.fetchAt c x pc1 with
        | (s4, .error e) => .bubble (s4.takeTrap c x e.1 e.2.1 e.2.2)
        | (s4, .ok (hm1, key1)) => s4.decodeAt c x hm1 key1 pc1

/-- A context may not issue in its slot (R20, R21, R343, R347, R359), among the reasons that a variable-latency result that
holds its strand has not landed (R187). A frozen context still ends its current instruction (R347), and a frozen or gated one
the instruction that a CTXSAVE completes (R352). -/
def State.holds (s : State) (c x : Nat) : Bool :=
  let k := s.core c
  let v := k.ctx x
  (v.flight.any fun f => f.ready.isNone && v.blocks.contains f.o) || k.halted || (k.dead && x == 0) ||
    v.fin.isSome || decide (v.st ≠ .ready) || (k.forced != some x && (v.gated || (k.frozen && x != 0 && !v.going)))

/-- The instruction that a strand has issued goes on, without being fetched again (R24, R231, R253). -/
def State.heldBy (s : State) (c x : Nat) : Option Instr := if (s.ctx c x).going then (s.ctx c x).running else none

/-- A wake event or the special-function unit has brought what the strand's instruction waits for: it completes in this
turn, and a trap due before the next instruction comes after it (R24, R261, R280). -/
def State.completing (s : State) (c x : Nat) : Bool := (s.ctx c x).grant.isSome || (s.ctx c x).sfuOut.isSome

/-- An instruction whose variable-latency result holds the strand until it lands, where it goes to a queue register, a
condition register or ff (R187, R217, R301). -/
def blocking : Instr → Bool
  | .ld _ _ _ _ _ | .ldx _ _ _ _ _ _ | .ldp _ _ _ _ _ | .amo _ _ _ _ _ _ | .amof _ _ _ _ _ | .cas _ _ _ _ _ _
    | .recv _ _ _ | .waitm _ _ | .sigtest _ _ _ _ _ _ | .dqpush _ _ _ _ | .dqpop _ _ _ | .dqsteal _ _ _ | .emit _ _ _ _ _ =>
    true
  | _ => false

/-- A slot in which the context that a CTXSAVE completes has acted, its own or one of context 0, is over: the next one of
context 0 is its own again (R352); `b` is the state at its start. A core without a clock edge has had no slot. -/
def State.unforce (s b : State) : State :=
  if b.idle.getLsbD b.cur = true ∨ (b.core b.cur).forced ≠ some b.actor then s
  else s.onCore b.cur fun k => { k with forced := none }

/-- The registers of the results that an instruction has put in flight, `b` being the context as it was, where they hold the
strand: queue, condition and flags registers (R187). -/
def Ctx.blocksOf (k b : Ctx) (i : Instr) : List Opnd :=
  if blocking i then ((k.flight.drop b.flight.length).map (·.o)).filter (!Opnd.shifts ·) else []

/-- After a slot that ran an instruction, `b` being the state in which it ran: one that still holds its strand, or at which
the strand is parked, is kept with the source values that it has read (R24, R140, R147, R231, R253). -/
def State.keepRunning (s b : State) (i : Instr) : State :=
  let c := b.cur
  let x := b.actor
  let k := s.ctx c x
  let s1 := s.onCtx c x fun k => { k with blocks := k.blocksOf (b.ctx c x) i }
  let s2 := if k.going ∨ k.st = .parked then s1.onCtx c x fun k => { k with
      running := some i, vals := if (b.ctx c x).going then k.vals else b.readOps c x [] ((formOf i).elim [] (·.srcs)) }
    else s1
  s2.unforce b

/-- One of the stall turns that a context's last instruction has left is over: every slot of the context is a turn of its
strand, whatever else holds it (R19, R144). -/
def State.stallTurn (s : State) (c x : Nat) : State :=
  if (s.ctx c x).stall = 0 then s else s.onCtx c x fun k => { k with stall := k.stall - 1 }

/-- An instruction that would issue waits for a variable-latency result, to its guard, a source or a destination (R146). -/
def Ctx.awaits (k : Ctx) (i : Instr) : Bool :=
  (formOf i).any fun f => k.varPending (guardOpnd f.hdr) || f.srcs.any k.varPending || f.dsts.any fun d => k.dstPending d.1

/-- An instruction issues: the strand goes on, so that the read of the load before it has been performed (R102, R107), but not
while it waits for a result (R146). -/
def Slot.begin (c x : Nat) : Slot → Slot
  | .bubble s => .bubble s
  | .go s i =>
    let k := s.ctx c x
    .go (if k.reading.isSome && !k.awaits i then s.onCtx c x fun k => { k with reading := none } else s) i

/-- The issue slot of the core whose slot comes next (R20). A core whose clock makes no edge in this round has no slot. -/
def State.slot (s : State) : Slot :=
  if s.idle.getLsbD s.cur then .bubble s else
  let c := s.cur
  let x := s.actor
  let s0 := s.sfuEnd c
  let stalls := (s0.ctx c x).stall ≠ 0
  let s1 := (s0.landFixed c x (s0.core c).turn).stallTurn c (s0.core c).owner
  match (if x = 0 ∧ (s1.core c).halted = false then s1.tryEntry c else none) with
  | some s2 => .bubble s2
  | none =>
    if s1.holds c x then .bubble s1
    else if stalls then .bubble s1
    else Slot.begin c x <| match s1.heldBy c x with
      | some i => .go s1 i
      | none =>
        if (s1.ctx c x).going then s1.fetch c x
        else match s1.takeEtrap c x with
          | some s2 => .bubble s2
          | none => match s1.takeRtrap c x with
            | some s2 => .bubble s2
            | none => s1.fetch c x

/-- The slot is over: the core's cycle passes, and the next core's slot comes. After the last core a mesh cycle passes, and a
round begins in which other clocks may stand still, so that the cores and the mesh keep any pace (R4, R10; log entry 2). -/
def State.tick (s : State) : State :=
  let s1 := if s.idle.getLsbD s.cur then s else s.onCore s.cur fun k => { k with cycle := k.cycle + 1 }
  if s.cur = 191 then
    { s1 with
      cur := 0, mesh := if s.idle.getLsbD 192 then s.mesh else s.mesh + 1
      idle := Config.idleSet s.free, free := s1.free + 1 }
  else { s1 with cur := s.cur + 1 }

/-- The core whose contexts an event moves by a row of R24 that stands above the rows of context 0's instructions. -/
def rowCore : Instr → Option Nat
  | .wake c _ _ _ => some c
  | .placeHead c => some c
  | _ => none

/-- An event would meet, in this cycle, a slot of context 0 that has passed: its row comes first, so it is too late for this
cycle (R17). -/
def State.tooLate (s : State) (e : Instr) : Bool :=
  (rowCore e).elim false fun c => s.powered && decide (c < s.cur) && !s.idle.getLsbD c && (s.core c).cycle % 16 == 1

/-- A freeze or gating holds a context in the state it has (R21, R24, R347). -/
def State.heldStill (s : State) (c x : Nat) : Bool :=
  (s.ctx c x).gated || ((s.core c).frozen && x != 0)

/-- An event would make a parked context ready that a freeze or gating holds as it is: it is kept for the hold's end
(log entry 30). -/
def State.heldBack (s : State) : Instr → Bool
  | .wake c x _ _ => s.heldStill c x && decide ((s.ctx c x).st = .parked)
  | .engineFaultTrap c x => s.heldStill c x && decide ((s.ctx c x).st = .parked)
  | _ => false

/-- The numbers, in the agenda, of the events that may happen now. -/
def State.dueNow (s : State) : List Nat :=
  (List.range s.agenda.length).filter fun i => match s.agenda[i]? with
    | some e => decide (e.due ≤ s.mesh) && !s.tooLate e.ev && !s.heldBack e.ev
    | none => false

/-- The events that the emission engine makes at the very mesh cycle they are due (R288, R298). -/
def timed : Instr → Bool
  | .tileTake _ _ => true
  | .bandCapture _ _ => true
  | .unbindComplete _ _ => true
  | _ => false

/-- The event that cannot wait: of those due at a fixed cycle, the one due first. -/
def State.firstTimed (s : State) : Option Nat :=
  let due := fun (i : Nat) => (s.agenda[i]?).elim 0 (·.due)
  (s.dueNow.filter fun i => (s.agenda[i]?).elim false fun e => timed e.ev).foldl (init := none) fun a i =>
    match a with
    | none => some i
    | some j => if due i < due j then some i else a

/-- An event of the agenda, with the state that has taken it. -/
def State.takeEvent (s : State) (i : Nat) : State × Option Instr :=
  match s.agenda[i]? with
  | none => (s, none)
  | some e => ({ s with agenda := s.agenda.eraseIdx i }, some e.ev)

/-- What comes next: an event that cannot wait; or, where the spec fixes no order (log entry 2), the slot (none) or an event
with the state that has taken it. -/
def State.nextStep (s : State) : State × Option Instr :=
  match s.firstTimed with
  | some i => s.takeEvent i
  | none =>
    let due := s.dueNow
    let n := due.length + (if s.powered then 1 else 0)
    if due = [] then (s, none)
    else
      let s1 := { s with free := s.free + 1 }
      match due[Config.pick s.free % n]? with
      | none => (s1, none)
      | some i => s1.takeEvent i

/-- Where step finds a word placed for it: core 0, context 0, at virtual address 0 of partition 0, which a held
translation maps to machine address 0. -/
def State.placeWord (s : State) (bs : List Byte) : State :=
  let s1 := { s with powered := true, cur := 0, idle := 0, agenda := [] }.setBytes 0 bs
  let s2 := s1.onPart 0 fun p => { p with v := true, st := 1, qmask := 15 }
  let s3 := s2.onCore 0 fun k => { k with
    cycle := k.cycle / 16 * 16, forced := none, halted := false, dead := false, entryDue := []
    icache := k.icache.filter fun e => decide (8 ≤ e.1)
    tlb := { part := 0, as := 0, va := 0, size := 4096, mpa := 0, pa := 0, w := false, x := true, uc := false, hm := false,
             sh := 2, locked := false } :: k.tlb }
  s3.onCtx 0 0 fun k => { k with
    st := .ready, pc := 0, as := 0, gated := false, stall := 0, flight := [], wpend := [], grant := none, etrap := none
    rejected := [], rtrap := none, wake := .none, busy := false, fin := none, sfuOut := none, woken := false, reserved := none
    blocks := [], reading := none }

end Sys2Proof.Machine
end

