-- ==== Sys2Proof/Machine/Refine.lean ====
section
/-! DEFINITION. The refinement loop controllers: major 0x33 (R269-R284), and their events. -/

namespace Sys2Proof.Machine

/-! ### Arithmetic (R273-R275, R277) -/

/-- A code with its sign changed. -/
def Fmt.flip (f : Fmt) (v : Nat) : Nat :=
  let sg := 2 ^ (f.mw + f.ew)
  if v / sg % 2 = 1 then v % sg else v % sg + sg

/-- A code's magnitude. -/
def Fmt.mag (f : Fmt) (v : Nat) : Nat := v % 2 ^ (f.mw + f.ew)

/-- A code is NaN or infinite. -/
def Fmt.wild (f : Fmt) (v : Nat) : Bool := decide ((2 ^ f.ew - 1) * 2 ^ f.mw ≤ f.mag v)

/-- The format a rung works in. -/
def rungFmt (rung : Nat) : Fmt := if rung = 3 then fmtF64 else fmtF32

/-- FMAW with its first factor negated. -/
def fnma (f : Fmt) (a b c : Nat) : Nat × Nat := f.fma 0 (f.flip a) b c

/-- The working value of an f64 element with its flags (R273). At rung 1 a sum of the two parts that f32 does not hold is
rounded to nearest even (log entry 137). -/
def workVal (rung a : Nat) : Nat × Nat :=
  let v := fmtF64.value a
  match rung with
  | 3 => (a, 0)
  | 2 => fmtF32.ofVal 0 v
  | 1 =>
    let h := fmtBf16.ofVal 1 v
    let d := fAdd 0 v (fmtBf16.value h.1).neg
    let m := fmtBf16.ofVal 0 d.1
    let w := fmtF32.finish 0 (fAdd 0 (fmtBf16.value h.1) (fmtBf16.value m.1))
    (w.1, h.2 ||| d.2 ||| m.2 ||| w.2)
  | _ =>
    let h := fmtBf16.ofVal 0 v
    (((fmtF32.ofVal 0 (fmtBf16.value h.1)).1), h.2)

/-- The BF16 terms of a working value (R273). -/
def terms (rung v : Nat) : List Nat :=
  match rung with
  | 0 => [(fmtBf16.ofVal 0 (fmtF32.value v)).1]
  | 1 =>
    let h := (fmtBf16.ofVal 1 (fmtF32.value v)).1
    [h, (fmtBf16.ofVal 0 (fAdd 0 (fmtF32.value v) (fmtBf16.value h).neg).1).1]
  | _ => let t := split3 v; [t.1, t.2.1, t.2.2.1]

/-- The products of a K-group, as pairs of term numbers, in order (R85, R273). -/
def products (rung : Nat) : List (Nat × Nat) :=
  match rung with
  | 0 => [(0, 0)]
  | 1 => [(0, 0), (0, 1), (1, 0)]
  | _ => [(0, 0), (0, 1), (1, 0), (0, 2), (2, 0), (1, 1)]

/-- A matrix of codes being factored, its permutation and the status word of the solve. -/
structure Lu where
  t : List (List Nat)
  perm : List Nat
  st : BitVec 128
  deriving DecidableEq, Repr

def getE (t : List (List Nat)) (i j : Nat) : Nat := nth 0 (nth [] t i) j
def setE (t : List (List Nat)) (i j v : Nat) : List (List Nat) := t.set i ((nth [] t i).set j v)

/-- An entry written, its rounding's flags raised at its row-major index (R277). -/
def Lu.put (l : Lu) (n i j : Nat) (r : Nat × Nat) : Lu := { l with t := setE l.t i j r.1, st := note l.st (i * n + j) r.2 0 }

/-- Two elements of a list exchanged. -/
def swapAt {α : Type} (d : α) (l : List α) (p q : Nat) : List α := (l.set p (nth d l q)).set q (nth d l p)

/-- The integers from `a` up to, and not including, `b`. -/
def between (a b : Nat) : List Nat := (List.range (b - a)).map (a + ·)

/-- One column of a panel that ends at column `e`; false when it breaks down (R274). -/
def Lu.column (l : Lu) (f : Fmt) (n e p : Nat) : Lu × Bool :=
  let col := (between p n).map fun i => getE l.t i p
  let top := col.foldl (fun a v => max a (f.mag v)) 0
  if col.any f.wild || top == 0 then (l, false)
  else
    let q := p + col.findIdx fun v => f.mag v == top
    let l1 : Lu := { l with t := swapAt [] l.t p q, perm := swapAt 0 l.perm p q }
    ((between (p + 1) n).foldl (init := l1) fun l i =>
      let l2 := l.put n i p (f.div 0 (getE l.t i p) (getE l.t p p))
      (between (p + 1) e).foldl (init := l2) fun l j =>
        l.put n i j (fnma f (getE l.t i p) (getE l.t p j) (getE l.t i j)), true)

/-- The columns of a panel, until one breaks down. -/
def Lu.panel (f : Fmt) (n e : Nat) : List Nat → Lu → Lu × Bool
  | [], l => (l, true)
  | p :: ps, l =>
    let (l1, ok) := l.column f n e p
    if ok then Lu.panel f n e ps l1 else (l1, false)

/-- The block row of U (R274). -/
def Lu.blockRow (l : Lu) (f : Fmt) (n c e : Nat) : Lu :=
  (between c e).foldl (init := l) fun l p => (between (p + 1) e).foldl (init := l) fun l i =>
    (between e n).foldl (init := l) fun l j => l.put n i j (fnma f (getE l.t i p) (getE l.t p j) (getE l.t i j))

/-- The trailing update (R274). -/
def Lu.trail (l : Lu) (rung n c e : Nat) : Lu :=
  (between e n).foldl (init := l) fun l i => (between e n).foldl (init := l) fun l j =>
    let rows := (between c e).map fun k => terms rung (getE l.t i k)
    let cols := (between c e).map fun k => terms rung (getE l.t k j)
    (products rung).foldl (init := l) fun l pq =>
      let g := groupSum fmtBf16 fmtBf16 16 (rows.map fun v => fmtBf16.flip (nth 0 v pq.1)) (cols.map fun v => nth 0 v pq.2)
      let r := fmtF32.add 0 (getE l.t i j) g.1
      l.put n i j (r.1, g.2 ||| r.2)

/-- The panels of Factor from column `c` on; `errs` are the array errors its first trailing update meets. The result,
whether it factored, and whether it met them. -/
def Lu.run (rung n : Nat) (errs : List Nat) : Nat → Nat → Lu → Lu × Bool × Bool
  | 0, _, l => (l, true, false)
  | fuel + 1, c, l =>
    if n ≤ c then (l, true, decide (32 < c))
    else
      let f := rungFmt rung
      let e := if rung = 3 then n else min (c + 32) n
      let (l1, ok) := Lu.panel f n e (between c e) l
      if !ok then (l1, false, decide (32 ≤ c))
      else if n ≤ e then (l1, true, decide (32 ≤ c))
      else
        let l2 := l1.blockRow f n c e
        let l3 := if c = 0 then { l2 with st := errs.foldl rerunNote l2.st } else l2
        if c = 0 ∧ errs.contains 2 then (l3, false, true)
        else Lu.run rung n errs fuel e (l3.trail rung n c e)

/-- Factor(rung) on the f64 matrix A (R274). -/
def factor (rung n : Nat) (a : List (List Word)) (st : BitVec 128) (errs : List Nat) : Lu × Bool × Bool :=
  let l : Lu := ⟨a.map fun r => r.map BitVec.toNat, List.range n, st⟩
  let l1 := (List.range n).foldl (init := l) fun l i => (List.range n).foldl (init := l) fun l j =>
    l.put n i j (workVal rung (getE l.t i j))
  Lu.run rung n errs (n + 1) 0 l1

/-- NormInf of f64 codes (R275). -/
def normInf (v : List Nat) : Nat :=
  if v.any fun x => (fmtF64.value x).isNan then fmtF64.nanCode else v.foldl (fun a x => max a (fmtF64.mag x)) 0

/-- Residual (R275). -/
def residual (a : List (List Word)) (b x : List Word) : List Nat :=
  (a.zip b).map fun rb => (rb.1.zip x).foldl (fun s e => (fnma fmtF64 e.1.toNat e.2.toNat s).1) rb.2.toNat

/-- A vector being solved for, with the status word. -/
structure Vec where
  v : List Nat
  st : BitVec 128
  deriving DecidableEq, Repr

/-- Entry `i` written, its flags raised there. -/
def Vec.put (y : Vec) (i : Nat) (r : Nat × Nat) : Vec := ⟨y.v.set i r.1, note y.st i r.2 0⟩

/-- Solve and Update (R275): the new x and the status word. -/
def solveUpdate (rung : Nat) (t : List (List Nat)) (perm : List Nat) (r : List Nat) (x : List Word) (st : BitVec 128) :
    List Word × BitVec 128 :=
  let n := r.length
  let f := rungFmt rung
  let v0 : Vec := (List.range n).foldl (init := ⟨r, st⟩) fun y i =>
    if rung = 3 then y else y.put i (fmtF32.ofVal 0 (fmtF64.value (nth 0 r i)))
  let v1 : Vec := ⟨perm.map (nth 0 v0.v), v0.st⟩
  let step := fun (y : Vec) (i j : Nat) => y.put i (fnma f (getE t i j) (nth 0 y.v j) (nth 0 y.v i))
  let v2 := (List.range n).foldl (init := v1) fun y i => (List.range i).foldl (init := y) fun y j => step y i j
  let v3 := (List.range n).reverse.foldl (init := v2) fun y i =>
    let y1 := (between (i + 1) n).reverse.foldl (init := y) fun y j => step y i j
    y1.put i (f.div 0 (nth 0 y1.v i) (getE t i i))
  let add := fun (xi : Word) (d : Nat) =>
    let w := if rung = 3 then (d, 0) else fmtF64.ofVal 0 (fmtF32.value d)
    let q := fmtF64.add 0 xi.toNat w.1
    (q.1, w.2 ||| q.2)
  let v4 := (List.range n).foldl (init := (⟨x.map BitVec.toNat, v3.st⟩ : Vec)) fun y i => y.put i (add (nth 0 x i) (nth 0 v3.v i))
  (v4.v.map (.ofNat 64 ·), v4.st)

/-! ### The controller's accesses (R281) -/

/-- A slice's controller changed. -/
def State.onRf (s : State) (i : Nat) (f : Refine → Refine) : State := s.onSlice i fun v => { v with rf := f v.rf }

/-- Reads 8 bytes at home for a solve. -/
def State.homeRead (s : State) (r : Refine) (a : Word) : State × Except TrapE Word :=
  match s.placeIn r.part r.as r.core r.ctx a 8 8 0 3 with
  | (s1, .error e) => (s1, .error e)
  | (s1, .ok p) => (s1, .ok (.ofNat 64 (s1.loadN p.key 8)))

/-- Reads a vector of 8-byte entries. -/
def State.readVec (s : State) (r : Refine) (a : Word) : Nat → State × Except TrapE (List Word)
  | 0 => (s, .ok [])
  | n + 1 =>
    match s.homeRead r a with
    | (s1, .error e) => (s1, .error e)
    | (s1, .ok v) => match s1.readVec r (a + 8) n with
      | (s2, .error e) => (s2, .error e)
      | (s2, .ok vs) => (s2, .ok (v :: vs))

/-- Reads the rows of A. -/
def State.readMat (s : State) (r : Refine) (a : Word) : Nat → State × Except TrapE (List (List Word))
  | 0 => (s, .ok [])
  | n + 1 =>
    match s.readVec r a r.n with
    | (s1, .error e) => (s1, .error e)
    | (s1, .ok v) => match s1.readMat r (a + .ofNat 64 r.lda) n with
      | (s2, .error e) => (s2, .error e)
      | (s2, .ok vs) => (s2, .ok (v :: vs))

/-- Writes 8-byte words from an address on, at home; the regions written, and a fault. Only a strand's stores are counted
toward another device (R120). -/
def State.homeStores (s : State) (r : Refine) (a : Word) (f : Summary) : List Word → State × Summary × Option TrapE
  | [] => (s, f, none)
  | v :: vs =>
    match s.placeIn r.part r.as r.core r.ctx a 8 8 1 3 with
    | (s1, .error e) => (s1, f, some e)
    | (s1, .ok p) =>
      (s1.writeAt r.part p.hm p.key (toBytes 8 v.toNat) (byStrand r.core r.ctx)).homeStores r (a + 8) (f ||| p.region) vs

/-- Bytes as 8-byte words. -/
def words : Nat → List Byte → List Word
  | 0, _ => []
  | n + 1, bs => .ofNat 64 (ofBytes (bs.take 8)) :: words n (bs.drop 8)

/-- The workspace's contents: the factors and the permutation of the last rung that factored, and a free value in every
byte that nothing defines (R284). -/
def wsBytes (r : Refine) (draw : Nat) : List Byte :=
  let n := r.n
  let size := ceilDiv (8 * n * n + 32 * n) 256 * 256
  let free := fun (i : Nat) => (.ofNat 8 ((Config.freeWord (draw + i / 8)).toNat / 2 ^ (8 * (i % 8))) : Byte)
  let t := if r.t = [] then [] else r.t.flatMap fun row => row.flatMap fun w => toBytes (if r.trung = 3 then 8 else 4) w.toNat
  let p := if r.t = [] then [] else r.perm.flatMap (toBytes 4)
  t ++ (between t.length (8 * n * n)).map free ++ p ++ (between (8 * n * n + p.length) size).map free

/-! ### The gang (R269) -/

/-- The gang of a slice's solve. -/
def gangOf (i : Nat) (ctrl : Word) : List Nat := (List.range 4).map fun k => 16 * (2 * (i / 4) + fld ctrl 17 1) + 4 * (i % 4) + k

/-- The gang is cleared and released, if the solve still holds it. -/
def State.freeGang (s : State) (i : Nat) (r : Refine) : State :=
  if r.phase ≤ 1 ∨ 5 ≤ r.phase then s
  else (gangOf i r.ctrl).foldl (init := s) fun a m =>
    let b := a.handOver m r.part
    if (b.mx m).owner = some (sidOf r.core r.ctx) then b.mmz r.ctx [m] true else a

/-- A solve stops: its strand takes an engine-fault trap that names the step (R282). -/
def State.stopSolve (s : State) (i step : Nat) (e : TrapE) (rejected : Bool := false) : State :=
  let r := (s.slice i).rf
  (s.onRf i fun r => { r with stopped := true }).engineFault r.core r.ctx rejected (engInfo e step) r.pc (engArg e)

/-! ### The loop (R276) -/

/-- What follows an exit of a rung: an escalation, or the exit writes. An escalation at the limit of passes runs passes beyond
MAXIT, as the loop of R276 has it (log entry 138). -/
def State.rungExit (s : State) (i exit : Nat) : State :=
  let r := (s.slice i).rf
  let act := match exit with
    | 2 => fld r.ctrl 8 2
    | 3 => fld r.ctrl 10 2
    | 4 => fld r.ctrl 12 2
    | _ => 0
  if act = 1 ∧ r.rung < fld r.ctrl 3 3 then
    (s.onRf i fun r => { r with rung := r.rung + 1, esc := r.esc + 1, xs := r.xbest, k := 0, run := 0, phase := 2 }).plan (.refineFactor i)
  else
    (s.onRf i fun r => { r with phase := 4, exit := exit, act := if act = 1 then fld r.ctrl 14 2 else act }).plan (.refineExit i)

/-- b, and x where XIN says so, are read at the start of the loop. -/
def State.solveInit (s : State) (i : Nat) (r : Refine) : State × Except TrapE Refine :=
  if r.bs ≠ [] then (s, .ok r)
  else match s.readVec r r.b r.n with
    | (s1, .error e) => (s1, .error e)
    | (s1, .ok b) =>
      match (if bit r.ctrl 16 then s1.readVec r r.x r.n else (s1, .ok (List.replicate r.n 0))) with
      | (s2, .error e) => (s2, .error e)
      | (s2, .ok x) =>
        let r1 := { r with
          bs := b, xs := x, xbest := x, beta := .ofNat 64 (normInf (b.map BitVec.toNat)), nuBest := .ofNat 64 (fmtF64.infCode false) }
        (s2.onRf i fun _ => r1, .ok r1)

/-- A Factor: the matrix is read, factored, and the workspace written. -/
def State.solveFactor (s : State) (i : Nat) (r0 : Refine) : State :=
  match s.solveInit i r0 with
  | (s1, .error e) => s1.stopSolve i 0 e
  | (s1, .ok r) =>
    match s1.readMat r r.a r.n with
    | (s2, .error e) => s2.stopSolve i 0 e
    | (s2, .ok a) =>
      let gang := gangOf i r.ctrl
      let errs := gang.map fun m => (s2.mx m).err
      let (l, ok, met) := factor r.rung r.n a r.status errs
      let r1 := { r with
        status := l.st
        t := if ok then l.t.map fun row => row.map (.ofNat 64 ·) else r.t
        trung := if ok then r.rung else r.trung
        perm := if ok then l.perm else r.perm }
      let img := wsBytes r1 s2.free
      let (s3, f, bad) := ({ s2 with free := s2.free + img.length / 8 }).homeStores r r.ws r.summ (words (img.length / 8) img)
      match bad with
      | some e => s3.stopSolve i 0 e
      | none =>
        let s4 := if met then
            let ue := s3.ueBefore gang
            let s := if ue = [] then s3
              else { s3 with free := s3.free + 1 }.machineChecks ue ((Config.freeWord s3.free).toNat % 192) r.pc
            gang.foldl (init := s) fun a m => a.onMx m fun v => { v with err := 0 }
          else s3
        let s5 := s4.onRf i fun _ => { r1 with summ := f }
        if ok then (s5.onRf i fun r => { r with phase := 3 }).plan (.refinePass i)
        else (s5.onRf i fun r => { r with fail := r.fail ||| .ofNat 4 (2 ^ r.rung) }).rungExit i 3

/-- A solve's strand has a matrix operation outstanding, on its own core or in the gang: the gang is claimed after it (R127,
R245, R269). -/
def State.mxOutstanding (s : State) (r : Refine) (gang : List Nat) : Bool :=
  s.mxPending r.core r.ctx ||
    (r.core :: gang).any fun m => s.owns m (sidOf r.core r.ctx) r.part && (s.mx m).run.isSome

/-- A gang that a strand leads at its core dissolves (R245). -/
def State.dissolve (s : State) (c x p : Nat) : State :=
  if s.owns c (sidOf c x) p then (s.release x ((s.members c).drop 1)).onMx c fun v => { v with gang := 1 } else s

/-- REFINE_FACTOR: the gang is claimed, as MMGANG claims one, then Factor runs at the current rung (R245, R269, R276). -/
def State.refineFactor (s : State) (i : Nat) : State :=
  let r := (s.slice i).rf
  if r.stopped || !(r.phase == 1 || r.phase == 2) then s
  else if s.partOf r.core ≠ r.part then s.plan (.refineFactor i)
  else if r.phase = 2 then s.solveFactor i r
  else
    let gang := gangOf i r.ctrl
    let sid := sidOf r.core r.ctx
    if s.mxOutstanding r gang then s.plan (.refineFactor i) else
    let s0 := s.dissolve r.core r.ctx r.part
    match s0.claimAll sid r.part gang with
    | none =>
      (gang.foldl (init := s0) fun a m =>
        if a.owns m sid r.part then a else a.awaitMx m (solveName sid) r.pc).plan (.refineFactor i)
    | some s1 =>
      let s2 := gang.foldl (init := s1) fun a m => a.onMx m fun v => { v with
        gang := if m = gang.headD 0 then 4 else 1, waiters := v.waiters.filter (·.1 != solveName sid) }
      (s2.onRf i fun r => { r with phase := 2 }).plan (.refineFactor i)
def execRefineFactor (slice : Nat) (s : State) : Res := .next (s.refineFactor slice)

/-- A product of two f64 codes, exact (R277). -/
def exactMul (a b : Word) : FVal := (fMul (fmtF64.value a.toNat) (fmtF64.value b.toNat)).1

/-- The tests of a pass on its norm (R276): the run length and the exit, 0 for none. -/
def passExit (r : Refine) (nu : Word) : Nat × Nat :=
  let v := fmtF64.value nu.toNat
  let le := fun (a b : FVal) => !a.isNan && !b.isNan && !b.lt a
  let run := if 1 ≤ r.k then if (exactMul r.rho r.nuPrev).lt v then r.run + 1 else 0 else r.run
  if le v (exactMul r.tol r.beta) then (r.run, 1)
  else if fmtF64.wild nu.toNat then (r.run, 3)
  else if decide (1 ≤ r.k) && (exactMul r.delta r.nu0).lt v then (r.run, 3)
  else if r.stag ≤ run then (run, 2)
  else if r.maxit ≤ r.passes + 1 then (run, 4)
  else (run, 0)

/-- REFINE_PASS: one residual, its tests, and the correction (R276). -/
def State.refinePass (s : State) (i : Nat) : State :=
  let r := (s.slice i).rf
  if r.stopped || r.phase != 3 then s
  else if s.partOf r.core ≠ r.part then s.plan (.refinePass i)
  else match s.readMat r r.a r.n with
    | (s1, .error e) => s1.stopSolve i 1 e
    | (s1, .ok a) =>
      let res := residual a r.bs r.xs
      let nu : Word := .ofNat 64 (normInf res)
      let v := fmtF64.value nu.toNat
      let better := !v.isNan && v.lt (fmtF64.value r.nuBest.toNat)
      let (run, exit) := passExit r nu
      let r1 := { r with
        passes := r.passes + 1, pass := r.pass.put r.rung (r.pass.get 0 r.rung + 1), run := run
        xbest := if better then r.xs else r.xbest, nuBest := if better then nu else r.nuBest }
      if exit ≠ 0 then (s1.onRf i fun _ => r1).rungExit i exit
      else
        let (x, st) := solveUpdate r.rung (r.t.map fun row => row.map BitVec.toNat) r.perm res r.xs r.status
        (s1.onRf i fun _ => { r1 with
          nu0 := if r.k = 0 then nu else r.nu0, nuPrev := nu, xs := x, status := st, k := r.k + 1 }).plan (.refinePass i)
def execRefinePass (slice : Nat) (s : State) : Res := .next (s.refinePass slice)

/-- RES, live or final (R272, R283). -/
def Refine.res (r : Refine) (exit : Nat) : Word :=
  .ofNat 64 (exit + r.rung * 16 + r.esc * 256 + r.fail.toNat * 2 ^ 32 + r.passes % 2 ^ 16 * 2 ^ 48)

/-- The exit writes: X, then the results with RES last (R272). -/
def State.exitWrites (s : State) (r : Refine) : State × Summary × Option TrapE :=
  match s.homeStores r r.x r.summ r.xbest with
  | (s1, f, some e) => (s1, f, some e)
  | (s1, f, none) =>
    let pass := toBytes 8 ((List.range 4).foldl (fun a i => a + r.pass.get 0 i % 2 ^ 16 * 2 ^ (16 * i)) 0)
    let st := toBytes 16 r.status.toNat
    match s1.homeStores r (r.blk + 0x68) f
        ([r.nuBest, r.beta, 0] ++ words 2 st ++ words 1 pass ++ List.replicate 13 0) with
    | (s2, g, some e) => (s2, g, some e)
    | (s2, g, none) => s2.homeStores r (r.blk + 0x60) g [r.res r.exit]

/-- The completion action of a solve (R271). -/
def Refine.code (r : Refine) : Nat := if r.act = 3 then 0 else fld r.ctrl 20 3

/-- The exit's action: a completion action, or a trap of the issuing strand; then the controller is idle (R280), after a
node decrement once the node's core has accepted it (R260). An action that its target has rejected is not tried again
(R260). -/
def State.exitAction (s : State) (i : Nat) (r : Refine) : State :=
  let free := fun (s : State) => (s.onRf i fun _ => .reset).engineDone r.core r.ctx r.summ
  if r.phase = 7 then
    if s.decOnWay r.part r.core r.ctx r.tgt r.summ then s.plan (.refineExit i) else free s
  else if r.act = 2 then
    free (s.onCtx r.core r.ctx fun k => { k with rtrap := some (r.blk, r.exit, r.summ) })
  else match s.perform r.core r.ctx r.part r.as r.code (bit r.ctrl 23) r.tgt r.arg r.summ (byStrand r.core r.ctx) r.pc with
    | .done s1 => if r.code = 3 then (s1.onRf i fun r => { r with phase := 7 }).plan (.refineExit i) else free s1
    | .full s1 => s1.plan (.refineExit i)
    | .bad s1 e => (s1.onRf i fun r => { r with act := if e.1 = kOperand then 3 else r.act }).stopSolve i 2 e (e.1 == kOperand)

/-- REFINE_EXIT: the exit writes, the release of the gang, then the action (R276, R280). -/
def State.refineExit (s : State) (i : Nat) : State :=
  let r := (s.slice i).rf
  if r.stopped || decide (r.phase < 4) then s
  else if s.partOf r.core ≠ r.part then s.plan (.refineExit i)
  else if r.phase = 5 ∨ r.phase = 7 then s.exitAction i r
  else match s.exitWrites r with
    | (s1, _, some e) => s1.stopSolve i 2 e
    | (s1, f, none) =>
      let r1 := { r with phase := 5, summ := f }
      ((s1.freeGang i r).onRf i fun _ => r1).exitAction i r1
def execRefineExit (slice : Nat) (s : State) : Res := .next (s.refineExit slice)

/-! ### RFSTART and RFSTAT (R278, R279, R283) -/

/-- A command block's address, checked: tag 0x0, a multiple of 256, translated as a store; `acc` is the ACC of a fault's
syndrome (R279, R283, R337). -/
def State.blockPlace (s : State) (a : Word) (acc : Nat) : State × Except TrapE Place :=
  if a.toNat % 256 ≠ 0 then (s, .error (kAlign, 0, a))
  else if fld a 60 4 ≠ 0 then (s, .error (transFault 0 acc 0 1 a))
  else s.place s.cur s.actor a 256 256 1 acc

/-- The check of a command block's bytes (R279). -/
def State.blockBad (s : State) (c x : Nat) (b : List Byte) : Bool :=
  let q := fun (o n : Nat) => ofBytes ((b.drop o).take n)
  let w := fun (o : Nat) => (.ofNat 64 (q o 8) : Word)
  let ctrl := w 0x40
  let n := q 0x20 4
  let lda := q 0x24 4
  let glob := fun (o m : Nat) => fld (w o) 60 4 == 0 && q o 8 % m == 0
  let pos := fun (o : Nat) => decide (q o 8 < 0x7FF * 2 ^ 52)
  decide (q 0x4C 4 ≠ 0) || decide (q 0x78 8 ≠ 0) || decide (fld ctrl 24 40 ≠ 0) || decide (fld ctrl 18 2 ≠ 0) ||
  decide (fld ctrl 6 2 ≠ 0) || n == 0 || decide (32768 < n) || decide (lda % 8 ≠ 0) || decide (lda < 8 * n) ||
  !(glob 0 8 && glob 8 8 && glob 0x10 8 && glob 0x18 256) ||
  decide (fld ctrl 3 3 < fld ctrl 0 3) || decide (3 < fld ctrl 3 3) ||
  fld ctrl 8 2 == 3 || fld ctrl 10 2 == 3 || fld ctrl 12 2 == 3 || bit ctrl 14 ||
  !(pos 0x28 && pos 0x30 && pos 0x38) || q 0x48 2 == 0 || q 0x4A 2 == 0 || decide (3 < fld ctrl 20 3) ||
  (s.actionBad c x (s.partOf c) (s.ctx c x).as (fld ctrl 20 3) (w 0x50)).isSome

/-- A controller takes a block. -/
def newRefine (b : List Byte) (a : Word) (c x part as : Nat) (pc : Word) (f : Summary) : Refine :=
  let q := fun (o n : Nat) => ofBytes ((b.drop o).take n)
  let w := fun (o : Nat) => (.ofNat 64 (q o 8) : Word)
  { Refine.reset with
    phase := 1, blk := a, core := c, ctx := x, part := part, as := as, pc := pc, a := w 0, b := w 8, x := w 0x10, ws := w 0x18
    n := q 0x20 4, lda := q 0x24 4, tol := w 0x28, rho := w 0x30, delta := w 0x38, ctrl := w 0x40, stag := q 0x48 2
    maxit := q 0x4A 2, tgt := w 0x50, arg := w 0x58, rung := fld (w 0x40) 0 3, summ := f }

/-- RFSTART (R279). -/
def rfstart (a : Word) (s : State) : Body :=
  Except.body (s.blockPlace a 1) fun s1 p =>
    let c := s.cur
    let x := s.actor
    let i := sliceOf c
    if (s1.slice i).rf.phase ≠ 0 then .wait s1
    else
      let s2 := s1.publish c x
      let b := s2.bytes p.key 256
      if s2.blockBad c x b then .operand s2
      else
        let k := s2.ctx c x
        .done ((s2.onRf i fun _ => newRefine b a c x (s2.partOf c) k.as k.pc k.summ).plan (.refineFactor i)) [] .fall
def execRfstart (h : Hdr) (a : Opnd) (s : State) : Res := .next (s.issue .any h 16 [a] [] fun v s => rfstart (v0 v) s)

/-- RFSTAT (R283): a controller that has written its results runs the block no more. -/
def rfstat (a : Word) (s : State) : Body :=
  Except.body (s.blockPlace a 0) fun s1 p =>
    let c := s.cur
    let x := s.actor
    let r := (s1.slice (sliceOf c)).rf
    if r.phase ≠ 0 ∧ r.phase < 5 ∧ r.blk = a ∧ r.part = s1.partOf c ∧ r.as = (s1.ctx c x).as then .done s1 [r.res 0] .fall
    else
      let s2 := (s1.clearSector c x (p.key + 0x60)).drain c p.hm (p.key + 0x60)
      let v : Word := .ofNat 64 (s2.loadN (p.key + 0x60) 8)
      .done (if fld v 0 4 = 0 then s2 else s2.refresh c x fullSummary) [v] .fall
def execRfstat (h : Hdr) (d a : Opnd) (s : State) : Res :=
  .next (s.issue .any h 16 [a] [(d, none)] fun v s => rfstat (v0 v) s)

/-! ### Restarting and reaping (R282) -/

/-- A stopped solve of a context runs its step again: one that has stopped at its action its exit writes, from their start.
What gives a stopped solve of context 0 again the spec does not say: CTXSTART names no context 0, and TRET gives nothing
again (log entry 112). -/
def State.resumeSolve (s : State) (c x : Nat) : State :=
  let i := sliceOf c
  let r := (s.slice i).rf
  if r.phase ≠ 0 ∧ r.core = c ∧ r.ctx = x ∧ r.stopped then
    (s.onRf i fun r => { r with stopped := false, phase := if r.phase = 5 then 6 else r.phase }).plan
      (match r.phase with
       | 3 => .refinePass i
       | 1 => .refineFactor i
       | 2 => .refineFactor i
       | _ => .refineExit i)
  else s

/-- A reaped context's solve ends with no results and no action. -/
def State.reapSolve (s : State) (c x : Nat) : State :=
  let i := sliceOf c
  let r := (s.slice i).rf
  if r.phase ≠ 0 ∧ r.core = c ∧ r.ctx = x then (s.freeGang i r).onRf i fun _ => .reset else s

end Sys2Proof.Machine
end

