-- ==== Sys2Proof/Machine/Signal.lean ====
section
/-! DEFINITION. Signals: major 0x15 (R200-R203), and the release of edge records that another device's home holds
(R120). -/

namespace Sys2Proof.Machine

/-- SIGSET and SIGADD: a Publish, then the update with the issuer's summary, which holds the object's own region (R188,
R201). An update of another device's object is accepted when that device holds it (R120), so that a rejection comes when
it is performed (log entry 103). -/
def sigUpdate (set init : Bool) (a v : Word) (s : State) : Body :=
  Except.body (s.objPlace s.cur s.actor a) fun s1 p =>
    let c := s.cur
    let x := s.actor
    let s2 := s1.publishTo c x (keyDev s1.ownDev p.key)
    let f := (s2.ctx c x).summ ||| p.region
    if s2.isForeign p then
      .done ((s2.mark c x p.region).sendEdge c (keyDev s2.ownDev p.key) true (.signal p.key set init c v f
        (some (x, mkRec kOperand x 0 0 0 0)))) [] .fall
    else match (s2.reachObj c x p).signalAt (s2.partOf c) c p.hm p.key set init v f (byStrand c x) with
      | none => .operand s2
      | some s3 => .done (s3.mark c x p.region) [] .fall
def execSigset (h : Hdr) (a b : Opnd) (i : BitVec 19) (init : Bool) (s : State) : Res :=
  .next (s.issue .any h 8 [a, b] [] fun v s => sigUpdate true init (v0 v) (v1 v + i.signExtend 64) s)
def execSigadd (h : Hdr) (a b : Opnd) (i : BitVec 20) (s : State) : Res :=
  .next (s.issue .any h 8 [a, b] [] fun v s => sigUpdate false false (v0 v) (v1 v + i.signExtend 64) s)

/-- SIGWAIT: completes with a Refresh when the condition holds; else the strand joins the wait list and parks (R202). -/
def sigWait (rel : BitVec 2) (a t : Word) (s : State) : Body :=
  match s.me.grant with
  | some (_, f) => .done (s.refresh s.cur s.actor (f.getD 0)) [] .fall
  | none =>
    Except.body (s.objPlace s.cur s.actor a) fun s1 p =>
      let c := s.cur
      let x := s.actor
      let s1 := s1.reachObj c x p
      let o := s1.obj p.key
      if o.kind ≠ 1 then .operand s1
      else if relHolds rel.toNat o.value t then .done (s1.refresh c x o.summ) [] .fall
      else
        let s2 := { s1 with waits := s1.waits ++ [(p.key, sidOf c x)] }
        .park (s2.relist (s2.partOf c) p.hm p.key (byStrand c x)) (.signal p.key p.hm rel t)
def execSigwait (h : Hdr) (a b : Opnd) (i : BitVec 18) (rel : BitVec 2) (s : State) : Res :=
  .next (s.issue .any h 8 [a, b] [] fun v s => sigWait rel (v0 v) (v1 v + i.signExtend 64) s)

/-- SIGTEST: refreshes only when it reports 1 (R203). -/
def sigTest (rel : Nat) (a t : Word) (s : State) : Body :=
  Except.body (s.objPlace s.cur s.actor a) fun s1 p =>
    let s1 := s1.reachObj s.cur s.actor p
    let o := s1.obj p.key
    if o.kind ≠ 1 then .operand s1
    else if relHolds rel o.value t then .done (s1.refresh s.cur s.actor o.summ) [1] .fall
    else .done s1 [0] .fall
def execSigtest (h : Hdr) (d a b : Opnd) (i : BitVec 18) (rel : BitVec 2) (s : State) : Res :=
  .next (s.issue .any h 8 [a, b] [(d, none)] fun v s => sigTest rel.toNat (v0 v) (v1 v + i.signExtend 64) s)

end Sys2Proof.Machine
end

