-- ==== Sys2Proof/Machine/Strand.lean ====
section
/-! DEFINITION. Creating, joining, moving and retiring strands: major 0x20 (R26-R38, R206-R215). -/

namespace Sys2Proof.Machine

/-- The pc of a child's code (R206). -/
def childPc (pc : Word) (o : BitVec 29) : Word := pc + o.signExtend 64 * 4

/-- A task-type entry is valid (R207). -/
def State.typeOk (s : State) (c : Nat) (t : BitVec 6) : Bool := bit ((s.part (s.partOf c)).ttOf t.toNat) 31

/-- The child a strand hands on: its seeds, the strand's jc, summary and launch (R210). -/
def State.childOf (s : State) (c x : Nat) (pc : Word) (t : BitVec 6) (g1 g2 g3 g4 : Word) : Child :=
  let k := s.ctx c x
  ⟨pc, t, g1, g2, g3, g4, k.jc, k.summ, k.launch⟩

/-- SPAWN: sources g1 to g4 and the core name (R210). -/
def spawnOn (pc : Word) (t : BitVec 6) (v : List Word) (s : State) : Body :=
  let c := s.cur
  let x := s.actor
  let aim := (v4 v).toNat
  if !s.typeOk c t || decide (192 ≤ aim) || !s.inPart (s.partOf c) aim then .operand s
  else
    let s1 := s.publish c x
    let r := s1.childOf c x pc t (v0 v) (v1 v) (v2 v) (v3 v)
    match s1.appendDirect aim (.child r 0) 48 with
    | none => .wait s1
    | some s2 => .done (s2.lineBorn r.launch) [] .fall
def execSpawn (h : Hdr) (t a b c e : Opnd) (o : BitVec 29) (ty : BitVec 6) (s : State) : Res :=
  .next (s.issue .any h 12 [a, b, c, e, t] [] fun v s => spawnOn (childPc s.me.pc o) ty v s)

/-- The dispatchers that a spawn queue feeds look again (R40). -/
def State.wakeFeeds (s : State) (q : Nat) : State :=
  ((s.cores.filter fun e => e.2.feeds.any (·.2 == q)).map Prod.fst).foldl (init := s) fun a c => a.plan (.placeHead c)

/-- SPAWNQ (R210). -/
def spawnTo (pc : Word) (t : BitVec 6) (v : List Word) (s : State) : Body :=
  let c := s.cur
  let x := s.actor
  let q := handleQ (v4 v)
  if !s.typeOk c t || !s.queueOk (s.partOf c) (v4 v) || !(s.hwq q).spawn then .operand s
  else
    let s1 := s.publish c x
    if (s1.hwq q).isFull then .wait s1
    else
      let r := s1.childOf c x pc t (v0 v) (v1 v) (v2 v) (v3 v)
      .done (((s1.qPushBytes q (childEntry r) r.launch (byStrand c x)).wakeFeeds q).lineBorn r.launch) [] .fall
def execSpawnq (h : Hdr) (t a b c e : Opnd) (o : BitVec 29) (ty : BitVec 6) (s : State) : Res :=
  .next (s.issue .any h 12 [a, b, c, e, t] [] fun v s => spawnTo (childPc s.me.pc o) ty v s)

/-! ### The bough tree (R31, R32) -/

/-- The root core of a quadrant. -/
def quadRoot (q : Nat) : Nat := 96 * (q / 2) + 8 * (q % 2)

/-- A core's parent in the device's tree. -/
def parentAll (c : Nat) : Option Nat :=
  let r := rowOf c
  let q := colOf c
  if q % 4 ≠ 0 then some (c - 1)
  else if r % 2 = 1 then some (c - 16)
  else if q % 8 = 4 then some (c - 4)
  else if r % 6 ≠ 0 then some (c - 32)
  else match c with
    | 0 => none
    | 104 => some 96
    | _ => some 0

/-- A core's parent in a partition's tree. -/
def State.parentIn (s : State) (p c : Nat) : Option Nat :=
  match parentAll c with
  | none => none
  | some d =>
    if s.inPart p d then some d
    else
      let root := quadRoot ((ones 4 (s.part p).qmask.toNat).headD 0)
      if c = root then none else some root

/-- The members of a core's group at a level, in ascending number (R26, R27). -/
def State.group (s : State) (p c level : Nat) : List Nat :=
  match level with
  | 1 => [c]
  | 2 => (s.coresOf p).filter fun d => sliceOf d == sliceOf c
  | 3 => (s.coresOf p).filter fun d => quadOf d == quadOf c
  | _ => s.coresOf p

/-- A breadth-first walk of a group's tree; neighbours in ascending number. -/
def State.walkTree (s : State) (p : Nat) (g : List Nat) : Nat → List Nat → List Nat → List Nat
  | 0, _, seen => seen
  | _, [], seen => seen
  | f + 1, c :: queue, seen =>
    let near := g.filter fun d => !seen.contains d && (s.parentIn p d == some c || s.parentIn p c == some d)
    s.walkTree p g f (queue ++ near) (seen ++ near)

/-- A core that a probe recruits: a free user context, and no head (R32). -/
def Core.recruits (k : Core) : Bool :=
  k.head.isNone && (List.range 16).any fun x => decide (0 < x) && decide ((k.ctx x).st = .free)

/-- The recruits of a FORKR by a core: itself, then the cores of the walk that have room, up to the bound (R32). -/
def State.recruit (s : State) (c level n g : Nat) : List Nat :=
  let p := s.partOf c
  let grp := s.group p c level
  let order := s.walkTree p grp (grp.length + 1) [c] [c]
  (order.filter fun d => d == c || (s.core d).recruits).take (min (ceilDiv n g) grp.length)

/-- The first index of a chunk (R32). -/
def chunkStart (n k i : Nat) : Nat := i * n / k

/-! ### FORKR (R211) -/

/-- An instruction that ends its strand's path needs a frame: an illegal-operand trap without a frame list or on a bad
entry, an interlock while the list is empty (R380). -/
def withFrame (s : State) (k : State → Nat → Body) : Body :=
  match s.popFrame (s.partOf s.cur) with
  | .absent => .operand s
  | .empty => .wait s
  | .bad s1 => .operand s1
  | .got s1 pa => k s1 pa

/-- A strand leaves its context as a continuation: the context is freed, and the launch still counts it. -/
def State.leave (s : State) (c x : Nat) : State := (s.freeCtx c x).deadlineDone c x (s.ctx c x).dl

/-- The chunks of a FORKR are handed to the recruits. -/
def State.handChunks (s : State) (r : Child) (n : Nat) (ks : List Nat) : State :=
  (List.range ks.length).foldl (init := s) fun a i =>
    let st := chunkStart n ks.length i
    let e : Child := { r with g1 := .ofNat 64 st, g2 := .ofNat 64 (chunkStart n ks.length (i + 1) - st) }
    (a.handDirect (nth 0 ks i) (.child e 0)).lineBorn r.launch

/-- What comes before a strand leaves its context: its results in flight land, one of the special-function unit among them
(R176), what its core has posted to its own scratchpad is performed, its scratch frame among it (R102), and the completions of
its engine operations come before its Publish, whose edge carries their regions (R129). -/
def State.gather (s : State) (c x : Nat) : State := ((s.landAll c x).drain c false (scrKey c 0)).mark c x (s.ctx c x).eng

/-- FORKR: sources the trip count, the grain and the continuation's jc (R211). -/
def forkr (pc : Word) (t : BitVec 6) (level : Nat) (v : List Word) (s : State) : Body :=
  let c := s.cur
  let x := s.actor
  let k := s.me
  if !s.typeOk c t || v0 v == 0 || v1 v == 0 || k.jc == 0 || s.holdsLock c x then .operand s
  else Except.body (s.objPlace c x k.jc) fun s1 p =>
    let s1 := s1.reachObj c x p
    let o := s1.obj p.key
    if o.kind ≠ 0 ∨ o.cont then .operand s1
    else if s1.anyOut c x then .wait s1
    else withFrame s1 fun s2 f =>
      let g := (s2.landAll c x).gregs c x
      let s3 := ((s2.gather c x).saveCont c x f (k.pc + 12) (v2 v) 1 c).publish c x
      let r := s3.childOf c x pc t 0 0 (nth 0 g 3) (nth 0 g 4)
      let s4 := s3.leave c x
      let n := (v0 v).toNat
      let ks := s4.recruit c level n (v1 v).toNat
      let s5 := s4.setObj (s4.partOf c) p.hm p.key
        { o with value := .ofNat 64 ks.length, summ := 0, full := false, link := .ofNat 64 f, cont := true } (byStrand c x)
      .gone (s5.handChunks r n ks)
def execForkr (h : Hdr) (a b c : Opnd) (o : BitVec 29) (ty : BitVec 6) (lvl : BitVec 3) (s : State) : Res :=
  .next (s.issue .user h 12 [a, b, c] [] fun v s => forkr (childPc s.me.pc o) ty lvl.toNat v s)

/-! ### Join cells (R212-R214) -/

/-- JINIT (R212). -/
def jinit (a n : Word) (s : State) : Body :=
  Except.body (s.objPlace s.cur s.actor a) fun s1 p =>
    let c := s.cur
    let x := s.actor
    let s1 := s1.reachObj c x p
    let o := s1.obj p.key
    if o.cont then .operand s1
    else
      let o1 := { o with value := n, kind := 0, home := c, summ := 0, full := false, link := 0 }
      let s2 := s1.setObj (s1.partOf c) p.hm p.key o1 (byStrand c x)
      .done ((s2.mark c x p.region).onCtx c x fun k => { k with jc := a }) [] .fall
def execJinit (h : Hdr) (a b : Opnd) (n : BitVec 20) (s : State) : Res :=
  .next (s.issue .any h 8 [a, b] [] fun v s => jinit (v0 v) (v1 v + n.setWidth 64) s)

/-- AWAIT completes: the Refresh, then the new jc (R213). -/
def awaitDone (f : Option Summary) (jc : Word) (s : State) : Body :=
  let s1 := match f with | none => s | some g => s.refresh s.cur s.actor g
  .done (s1.onMe fun k => { k with jc := jc, reserved := none }) [] .fall

/-- A yield-mode AWAIT whose cell is reserved: it waits for its engines and a frame, then leaves, and the cell records
the frame, or the continuation is taken up at once when the count is already zero (R213). -/
def awaitLeave (p : Place) (jc : Word) (s : State) : Body :=
  let c := s.cur
  let x := s.actor
  let k := s.me
  let clear := fun (s : State) => s.setObj (s.partOf c) p.hm p.key { s.obj p.key with cont := false, link := 0 } (byStrand c x)
  if s.anyOut c x then .wait s
  else match s.popFrame (s.partOf c) with
    | .absent => .operand ((clear s).onMe fun k => { k with reserved := none })
    | .empty => .wait s
    | .bad s1 => .operand ((clear s1).onMe fun k => { k with reserved := none })
    | .got s1 f =>
      let s2 := (((s1.gather c x).saveCont c x f (k.pc + 8) jc 0 c).publish c x).leave c x
      let o := s2.obj p.key
      let pn := s2.partOf c
      if o.value = 0 then
        .gone ((s2.setObj pn p.hm p.key { o with cont := false, link := 0 } (byStrand c x)).takeUp pn c p.key (.ofNat 64 f) o.summ)
      else .gone (s2.setObj pn p.hm p.key { o with link := .ofNat 64 f, cont := true } (byStrand c x))

/-- AWAIT (R213). -/
def await (yld : Bool) (jc : Word) (s : State) : Body :=
  let c := s.cur
  let x := s.actor
  let k := s.me
  match k.grant with
  | some (_, f) => awaitDone f jc s
  | none =>
    if yld && s.holdsLock c x then .operand s
    else if k.jc = 0 then awaitDone none jc s
    else Except.body (s.objPlace c x k.jc) fun s1 p =>
      if yld && k.reserved == some (p.key, p.hm) then awaitLeave p jc s1
      else
        let s1 := s1.reachObj c x p
        let o := s1.obj p.key
        if o.kind ≠ 0 ∨ o.cont then .operand s1
        else if o.value = 0 then awaitDone (some o.summ) jc s1
        else if yld then
          if !bit (s1.part (s1.partOf c)).frameq 31 then .operand s1
          else
            let s2 := s1.setObj (s1.partOf c) p.hm p.key { o with cont := true, link := 0 } (byStrand c x)
            awaitLeave p jc (s2.onMe fun k => { k with reserved := some (p.key, p.hm) })
        else
          .park (s1.setObj (s1.partOf c) p.hm p.key { o with cont := true, link := parkLink c x } (byStrand c x)) (.cell p.key p.hm)
def execAwait (h : Hdr) (a : Opnd) (yld : Bool) (s : State) : Res :=
  .next (s.issue (if yld then .user else .any) h 8 [a] [] fun v s => await yld (v0 v) s)

/-- The strand's join cell counts it out, here or on the device that holds the cell (R120, R214). -/
def countOut (s : State) (k : State → Body) : Body :=
  let c := s.cur
  let x := s.actor
  let jc := s.me.jc
  if jc = 0 then k s
  else Except.body (s.objPlace c x jc) fun s1 p =>
    let f := (s1.ctx c x).summ
    if s1.isForeign p then k (s1.sendEdge c (keyDev s1.ownDev p.key) true (.join p.key f))
    else k ((s1.reachObj c x p).joinDec (s1.partOf c) c p.hm p.key f (byStrand c x))

/-- QUIT (R214). -/
def quit (s : State) : Body :=
  let c := s.cur
  let x := s.actor
  if s.anyOut c x then .wait s
  else countOut ((s.gather c x).publish c x) fun s1 => .gone ((s1.lockStores c x).endStrand c x)
def execQuit (h : Hdr) (s : State) : Res := .next (s.issue .user h 8 [] [] fun _ s => quit s)

/-! ### MIGRATE (R38, R215) -/

/-- The nearest core of a class in a core's row and partition; the lower column when two are equally near. -/
def State.migrateTo (s : State) (c cls : Nat) : Option Nat :=
  let near := fun d => if colOf c ≤ d then d - colOf c else colOf c - d
  let cs := (List.range 16).filter fun q => s.inPart (s.partOf c) (16 * rowOf c + q) && Machine.classOf s.dev.profile q == cls
  (cs.foldl (init := none) fun a q => match a with
    | none => some q
    | some b => if near q < near b then some q else a).map (16 * rowOf c + ·)

/-- MIGRATE: stays with 0, or leaves with 1 in the saved destination (R215). -/
def migrate (d : Opnd) (cls : Nat) (s : State) : Body :=
  let c := s.cur
  let x := s.actor
  if s.holdsLock c x then .operand s
  else if s.classOf c = cls then .done s [0] .fall
  else match s.migrateTo c cls with
    | none => .done s [0] .fall
    | some aim =>
      if s.anyOut c x then .wait s
      else withFrame s fun s1 f =>
        let k := s1.ctx c x
        let s2 := (((s1.gather c x).landAll c x).putResult c x (d, some 1) 1)
        let s3 := (s2.saveCont c x f (k.pc + 8) k.jc 3 aim).publish c x
        .gone ((s3.leave c x).handDirect aim (.cont f (k.summ ||| k.eng) k.launch false))
def execMigrate (h : Hdr) (d : Opnd) (cls : BitVec 2) (s : State) : Res :=
  .next (s.issue .user h 8 [] [(d, some 1)] fun _ s => migrate d cls.toNat s)

end Sys2Proof.Machine
end

