-- ==== Sys2Proof/Machine/Supervisor.lean ====
section
/-! DEFINITION. What context 0 does to its core: TRET, TREN, WAITE, STOP, TLBINV, CTXRD, CTXWR and major 0x21 (R336,
R344-R355). -/

namespace Sys2Proof.Machine

/-! ### TRET, TREN, WAITE, STOP (R344, R346, R347) -/

/-- TRET reads h6 as a source, so that it waits for a result to it (R146, R344). -/
def execTret (h : Hdr) (s : State) : Res :=
  .next (s.issue .sup h 8 [0x46] [] fun v s => .done (s.trapReturn s.cur) [] (.jump (v0 v)))
def execTren (h : Hdr) (close : Bool) (s : State) : Res :=
  .next (s.issue .sup h 8 [] [] fun _ s => .done (s.onCore s.cur fun k => { k with winOpen := !close }) [] .fall)

/-- An address in the issuing core's own scratchpad, aligned to `n`, for an access of `size` bytes (R346, R349). -/
def State.bufferAt (s : State) (a : Word) (n size acc : Nat) : Except TrapE Nat :=
  if a.toNat % n ≠ 0 then .error (kAlign, 0, a)
  else if !s.ownTag s.cur a then .error (transFault 0 acc 0 1 a)
  else match s.decodeAddr s.cur s.actor a size (acc == 1) with
    | .ok (.scr c off) => .ok (scrKey c off)
    | .ok _ => .error (transFault 0 acc 0 1 a)
    | .error e => .error (transFault 0 acc 0 e a)

/-- Removes the first element equal to a value. -/
def dropWord (w : Word) : List Word → List Word := dropFirst (· == w)

/-- WAITE (R346). -/
def waite (poll : Bool) (a : Word) (s : State) : Body :=
  let c := s.cur
  match s.bufferAt a 32 32 1 with
  | .error e => .ofTrap s e
  | .ok key =>
    match (s.core c).trapq with
    | [] => if poll then .done s [0] .fall else .park s .waite
    | r :: rs =>
      let pre := recKind r == 0x13
      let s1 := ((s.drainOwn key).setBytes key (toBytes 32 r.toNat)).onCore c fun k => { k with
        trapq := rs
        asked := if pre then false else k.asked
        entryDue := if pre then dropWord (recWord r) k.entryDue else k.entryDue }
      .done ((if pre then s1.plan (.placeHead c) else s1).admitHeld c) [recWord r] .fall
def execWaite (h : Hdr) (d a : Opnd) (poll : Bool) (s : State) : Res :=
  .next (s.issue .sup h 8 [a] [(d, none)] fun v s => waite poll (v0 v) s)

/-- STOP: 0 freezes, 1 thaws, 2 starts the halt tree and freezes (R347). -/
def execStop (h : Hdr) (mode : BitVec 2) (s : State) : Res :=
  .next (s.issue .sup h 8 [] [] fun _ s =>
    let s1 := s.onCore s.cur fun k => { k with frozen := mode != 1#2 }
    .done (if mode = 2 then s1.plan (.haltTree (s.partOf s.cur)) else s1) [] .fall)

/-! ### TLBINV (R336) -/

/-- TLBINV: 0 a page of an address space, 1 an address space, 2 all (R336). -/
def tlbinv (kind as : Nat) (a : Word) (s : State) : Body :=
  if kind = 0 ∧ fld a 52 12 ≠ 0 then .operand s
  else
    let p := s.partOf s.cur
    let va := a.toNat
    let m := fun (t : Tlb) =>
      if kind = 0 then t.as == as && decide (t.va ≤ va) && decide (va < t.va + t.size)
      else kind == 2 || t.as == as
    .done (s.removeTlb s.cur p m) [] .fall
def execTlbinv (h : Hdr) (a : Opnd) (kind : BitVec 2) (as : BitVec 4) (s : State) : Res :=
  .next (s.issue .sup h 8 [a] [] fun v s => tlbinv kind.toNat as.toNat (v0 v) s)

/-! ### CTXRD and CTXWR (R348) -/

/-- A state's code (R355). -/
def CtxState.code : CtxState → Nat
  | .free => 0
  | .ready => 1
  | .parked => 2
  | .trapped => 3
  | .stopped => 4

/-- A wake condition as the device encodes it (R59; log entry 4). -/
def Wake.word : Wake → Word
  | .none => 0
  | .cell a _ => Config.wakeCode 1 a
  | .signal a _ r t => Config.wakeCode (2 + r.toNat) (a * 2 ^ 64 + t.toNat)
  | .mail p => Config.wakeCode 6 (p.elim 0 fun b => 1 + b2n b)
  | .fifo ss ds => Config.wakeCode 7 ((ss ++ ds).foldl (fun a o => 128 * a + o.toNat) ss.length)
  | .qpop q => Config.wakeCode 8 q
  | .pxlock o q n => Config.wakeCode 9 (o + q * 2 ^ 8 + n * 2 ^ 48)
  | .engrend => Config.wakeCode 10 0
  | .prim n => Config.wakeCode 11 n
  | .waite => Config.wakeCode 12 0

/-- The wake condition of a context, 0 when it is not parked. -/
def Ctx.wakeWord (k : Ctx) : Word :=
  if k.st = .parked ∨ (k.st = .stopped ∧ k.resume = .parked) then k.wake.word else 0

/-- A frame's base and size in the 32 bits of R353 (log entry 15). -/
def frameField (base size : Nat) : Nat := size % 2 ^ 16 + base % 2 ^ 16 * 2 ^ 16

/-- A register a context selector may name: a listed specifier, within the window (R46, R348). -/
def selReg (x : Nat) (k : Ctx) (n : Nat) : Bool :=
  if n < 0x40 then decide (n < k.winSize x)
  else decide (n < 0x4A) || (decide (0x4C ≤ n) && decide (n < 0x57)) || (decide (0x60 ≤ n) && decide (n < 0x68))

/-- The value a selector names, none for one that is not listed (R348). -/
def State.ctxSel (s : State) (c x sel : Nat) : Option Word :=
  let k := s.ctx c x
  if sel < 0x80 then
    if !selReg x k sel then none
    else if 0x4C ≤ sel ∧ sel < 0x50 then some (.ofNat 64 ((k.q.get 0 (sel - 0x4C)).toNat * 4))
    else some (s.regOp c x [] (.ofNat 7 sel))
  else match sel with
    | 0x80 => some k.pc
    | 0x81 => some (.ofNat 64 (k.st.code + 8 * k.resume.code))
    | 0x82 => some k.wakeWord
    | 0x83 => some (.ofNat 64 k.ttype.toNat)
    | 0x84 => some (.ofNat 64 k.winBase)
    | 0x85 => some (.ofNat 64 (frameField k.fbase k.fsize))
    | 0x86 => some (.ofNat 64 k.ri)
    | n =>
      if 0x90 ≤ n ∧ n < 0xA0 then some (.ofNat 64 (fld k.summ (64 * (n - 0x90)) 64))
      else if 0x100 ≤ n ∧ n < 0x180 then some (.ofNat 64 (fld (k.shapes.get 0 ((n - 0x100) / 8)) (64 * (n % 8)) 64))
      else none

/-- A context that CTXRD and CTXWR may name (R348). -/
def State.ctxOpen (s : State) (c : Nat) (a : Word) : Bool :=
  let k := s.ctx c a.toNat
  decide (0 < a.toNat) && decide (a.toNat < 16) && (k.st == .stopped || k.st == .trapped)

def execCtxrd (h : Hdr) (d a : Opnd) (slt : BitVec 12) (s : State) : Res :=
  .next (s.issue .sup h 8 [a] [(d, none)] fun v s =>
    if !s.ctxOpen s.cur (v0 v) then .operand s
    else
      let s1 := s.landAll s.cur (v0 v).toNat
      match s1.ctxSel s.cur (v0 v).toNat slt.toNat with
      | none => .operand s
      | some w => .done s1 [w] .fall)

/-- A new pc for a context: its resume index and partial state clear; a wait it would resume is withdrawn, and it
resumes READY (R60, R348). -/
def State.redirect (s : State) (c x : Nat) (pc : Word) : State :=
  let k := s.ctx c x
  let s1 := if k.st = .stopped ∧ k.resume = .parked then s.withdraw c x else s.onCore c (·.unask x)
  s1.onCtx c x fun v => { v with
    pc := pc, ri := 0, status := 0, total := 0, grant := none, woken := false, busy := false
    resume := if k.st = .stopped ∧ k.resume = .parked then .ready else v.resume }

/-- A write that a selector names; none where it is not allowed (R348). -/
def State.ctxPut (s : State) (c x sel : Nat) (v : Word) : Option State :=
  let k := s.ctx c x
  if sel < 0x80 then
    if !selReg x k sel then none
    else if 0x4C ≤ sel ∧ sel < 0x50 then
      let q := sel - 0x4C
      let b : BitVec 6 := .ofNat 6 (fld v 2 6)
      let mode := b.toNat / 16
      if fld v 0 2 ≠ 0 ∨ fld v 8 56 ≠ 0 ∨ mode = 3 ∨ (mode ≠ 0 ∧ (s.core c).roleHeld x q (b.toNat % 16) mode) then none
      else some (s.onCtx c x fun k => { k with q := if mode = 0 then k.q.del q else k.q.put q b })
    else match sel with
      | 0x48 => some (s.onCtx c x fun k => { k with w0 := v })
      | 0x49 => some (s.onCtx c x fun k => { k with w1 := v })
      | 0x54 => some (s.onCtx c x fun k => { k with jc := v })
      | 0x56 => if v &&& ~~~0x1F001F#64 ≠ 0 then none else some (s.onCtx c x fun k => { k with ff := v })
      | n => if 0x50 ≤ n ∧ n < 0x56 then none else some (s.putReg c x (.ofNat 7 n) v)
  else if sel = 0x80 then some (s.redirect c x v)
  else if sel = 0x86 then some (s.onCtx c x fun k => { k with ri := v.toNat })
  else if 0x90 ≤ sel ∧ sel < 0xA0 then
    some (s.onCtx c x fun k => { k with summ := setFld k.summ (64 * (sel - 0x90)) 64 v.toNat })
  else if 0x100 ≤ sel ∧ sel < 0x180 then
    let n := (sel - 0x100) / 8
    some (s.onCtx c x fun k => { k with shapes := k.shapes.put n (setFld (k.shapes.get 0 n) (64 * (sel % 8)) 64 v.toNat) })
  else none

def execCtxwr (h : Hdr) (a b : Opnd) (slt : BitVec 12) (s : State) : Res :=
  .next (s.issue .sup h 8 [a, b] [] fun v s =>
    if !s.ctxOpen s.cur (v0 v) then .operand s
    else match (s.landAll s.cur (v0 v).toNat).ctxPut s.cur (v0 v).toNat slt.toNat (v1 v) with
      | none => .operand s
      | some s1 => .done s1 [] .fall)

/-! ### CTXSTART and CTXREAP (R350, R351) -/

/-- A context that the CTX group may name. -/
def ctxName (a : Word) : Bool := decide (0 < a.toNat) && decide (a.toNat < 16)

/-- A strand goes on from its resume state, its fixed-latency results landed (R147), its stopped operations given again
(R350). A trap that is due for one of them is still taken at the strand's next turn (R261; log entry 59). -/
def State.startCtx (s : State) (c x : Nat) (st : CtxState) : State :=
  let k := s.ctx c x
  let s1 := (s.landFixed c x ((s.core c).turn + 4)).onCtx c x fun v => { v with st := st, resume := .free }
  let s2 := (s1.regiveAll c x).resumeSolve c x
  if st ≠ .parked then s2
  else match k.wake with
    | .mail _ => (s2.offerMail c true).offerMail c false
    | .prim n => s2.offerPrim c n
    | .fifo _ _ => if (s2.core c).fifoReady x then s2.wakeOnce c x else s2
    | _ => s2

def ctxstart (a : Word) (s : State) : Body :=
  let c := s.cur
  let x := a.toNat
  let k := s.ctx c x
  if !ctxName a then .operand s
  else match k.st with
    | .free => .operand s
    | .trapped => .done (s.startCtx c x .ready) [] .fall
    | .stopped => .done (s.startCtx c x (if k.resume = .trapped then .ready else k.resume)) [] .fall
    | _ => .done s [] .fall
def execCtxstart (h : Hdr) (a : Opnd) (s : State) : Res := .next (s.issue .sup h 8 [a] [] fun v s => ctxstart (v0 v) s)

/-- A context is reaped (R351). -/
def State.reap (s : State) (c x : Nat) : State :=
  let s1 := (((s.withdraw c x).leaveRast c x).reapEngines c x).reapSolve c x
  ((s1.writebackAll c (byStrand c 0)).lockStores c x).endStrand c x

def ctxreap (a : Word) (s : State) : Body :=
  if !ctxName a || (s.ctx s.cur a.toNat).st == .free then .operand s else .done (s.reap s.cur a.toNat) [] .fall
def execCtxreap (h : Hdr) (a : Opnd) (s : State) : Res := .next (s.issue .sup h 8 [a] [] fun v s => ctxreap (v0 v) s)

/-! ### CTXSAVE (R352, R353) -/

/-- Runs a meaning in a context of a core, out of its slot. -/
def State.asCtx (s : State) (c x : Nat) (f : State → Res) : State :=
  let n := (s.core c).cycle
  match f ({ s with cur := c }.onCore c fun k => { k with cycle := n / 16 * 16 + x }) with
  | .next t => { t.onCore c fun k => { k with cycle := n } with cur := s.cur }
  | _ => s

/-- A strand whose wait is satisfied completes the instruction that waits (R352), which is not fetched again: a wait of R24,
or for the special-function unit. -/
def State.completeWait (s : State) (c x : Nat) : State :=
  match (s.ctx c x).running with
  | some (.recv h d pri) => s.asCtx c x (execRecv h d pri)
  | some (.waitm h d) => s.asCtx c x (execWaitm h d)
  | some (.qpop h d a) => s.asCtx c x (execQpop h d a)
  | some (.await h a yld) => s.asCtx c x (execAwait h a yld)
  | some (.sigwait h a b imm rel) => s.asCtx c x (execSigwait h a b imm rel)
  | some (.pxlock h a b) => s.asCtx c x (execPxlock h a b)
  | some (.engrend h fin) => s.asCtx c x (execEngrend h fin)
  | some (.rast h a surf zf zw ilk qcap) => s.asCtx c x (execRast h a surf zf zw ilk qcap)
  | some (.emit h d a b hold) => s.asCtx c x (execEmit h d a b hold)
  | some (.fdiv h ty d a b rm) => s.asCtx c x (execFdiv h ty d a b rm)
  | some (.fsqrt h ty d a rm) => s.asCtx c x (execFsqrt h ty d a rm)
  | some (.frcp h ty d a rm) => s.asCtx c x (execFrcp h ty d a rm)
  | some (.frsq h ty d a rm) => s.asCtx c x (execFrsq h ty d a rm)
  | some (.fexp2 h ty d a rm) => s.asCtx c x (execFexp2 h ty d a rm)
  | some (.flog2 h ty d a rm) => s.asCtx c x (execFlog2 h ty d a rm)
  | some (.fsin h ty d a rm) => s.asCtx c x (execFsin h ty d a rm)
  | some (.fcos h ty d a rm) => s.asCtx c x (execFcos h ty d a rm)
  | some (.ftanh h ty d a rm) => s.asCtx c x (execFtanh h ty d a rm)
  | _ => s

/-- A wake event on its way reaches its context now. -/
def State.wakeNow (s : State) (c x : Nat) : State :=
  match s.agenda.find? fun e => match e.ev with | .wake c' x' _ _ => c' == c && x' == x | _ => false with
  | some e => match e.ev with
    | .wake _ _ v d => (s.unwake c x).wakeCtx c x v d
    | _ => s
  | none => s

/-- What comes before a save: the special-function unit ends what it serves, results land, an engine instruction that has run
completes, a satisfied wait completes, and a cell reserved by an AWAIT is given back (R61, R176, R213, R352). -/
def State.readySave (s : State) (c x : Nat) : State :=
  let s1 := (((s.sfuSettle c x).landAll c x).tensorDone c x).matrixDone c x
  let s2 := if s1.satisfied c x || s1.completing c x then (s1.wakeNow c x).completeWait c x else s1
  let s3 := s2.landAll c x
  let s4 := if (s3.mx c).run = some (runStrand c x) then s3.setRun c none else s3
  match (s4.ctx c x).reserved with
  | some a => (s4.unjoin c x a.1 a.2).onCtx c x fun k => { k with reserved := none, busy := false }
  | none => s4.onCtx c x fun k => { k with busy := false }

/-- A wait of AWAIT on its cell, or of QPOP at its queue, which any save cancels: the instruction issues again (R208,
R220). -/
def Wake.cancels : Wake → Bool
  | .cell _ _ | .qpop _ => true
  | _ => false

/-- A save cancels such a wait of a parked strand, which is then READY at its instruction (R208; log entry 107). -/
def State.cancelWait (s : State) (c x : Nat) : State :=
  let k := s.ctx c x
  if k.st = .parked ∧ k.wake.cancels then (s.withdraw c x).onCtx c x fun v => { v with st := .ready } else s

/-- The 2,048 bytes of a context image (R353). -/
def State.image (s : State) (c x : Nat) (resume : CtxState) (held : Bool) : List Byte :=
  let k := s.ctx c x
  let qs := (List.range 4).foldl (fun a i => a + (k.q.get 0 i).toNat * 4 * 2 ^ (8 * i)) 0
  let w268 := k.c.toNat / 2 * 2 + resume.code * 2 ^ 8 + k.ttype.toNat * 2 ^ 16 + k.winBase % 32 * 2 ^ 24 + k.win.toNat * 2 ^ 30
    + qs * 2 ^ 32
  let w270 := frameField k.fbase k.fsize + c * 2 ^ 32 + b2n held * 2 ^ 40
  let wake : Word := if resume = .parked then k.wake.word else 0
  wordBytes (s.gregs c x ++ (List.range 8).map (k.h.get 0) ++ [k.w0, k.w1, k.pc, k.jc, k.ff, .ofNat 64 w268, .ofNat 64 w270,
    .ofNat 64 k.ri, wake]) ++ toBytes 16 k.status.toNat ++ toBytes 8 k.total.toNat ++ List.replicate 96 0#8 ++
  toBytes 128 k.summ.toNat ++ List.replicate 128 0#8 ++ (List.range 16).flatMap fun i => toBytes 64 (k.shapes.get 0 i).toNat

/-- CTXSAVE with FREE = 0: the strand becomes STOPPED with its state as resume state. -/
def State.saveKeep (s : State) (x key : Nat) : State :=
  let c := s.cur
  let s := s.cancelWait c x
  let st := (s.ctx c x).st
  ((s.drainOwn key).setBytes key (s.image c x st false)).onCtx c x fun k => { k with st := .stopped, resume := st }

/-- CTXSAVE with FREE = 1: the wait is withdrawn, the image written, the context freed and the frame held, with the
records that are due to the strand (log entry 136). -/
def State.saveFree (s : State) (x key : Nat) : State :=
  let c := s.cur
  let st := (s.ctx c x).st
  let s1 := s.withdraw c x
  let k := s1.ctx c x
  let s2 := (s1.drainOwn key).setBytes key (s1.image c x (if st = .trapped then .trapped else .ready) true)
  (s2.onCore c fun v => { v with held := v.held ++ [{
    addr := key, fbase := k.fbase, fsize := k.fsize, launch := k.launch, as := k.as, chk := k.chk, dl := k.dl, eng := k.eng
    rast := k.rastOn, etraps := k.etraps }] }).freeCtx c x

/-- A strand's wait at its queue registers has been satisfied: its wake event has reached it or is on its way (R53, R352). -/
def State.queueWoken (s : State) (c x : Nat) : Bool :=
  let k := s.ctx c x
  k.woken || (s.wakePending c x && match k.wake with | .fifo _ _ => true | _ => false)

/-- CTXSAVE (R352). An instruction woken at its queue registers is completed in the next slot of context 0, and the save
goes on after it. -/
def ctxsave (free : Bool) (a b : Word) (s : State) : Body :=
  let c := s.cur
  let x := a.toNat
  if !ctxName a then .operand s
  else match s.bufferAt b 256 2048 1 with
    | .error e => .ofTrap s e
    | .ok key =>
      let st := (s.ctx c x).st
      if st = .free ∨ st = .stopped then .operand s
      else if s.queueWoken c x then .wait ((s.wakeNow c x).onCore c fun k => { k with forced := some x })
      else
        let s1 := s.readySave c x
        if (s1.ctx c x).st = .free then .done s1 [2] .fall
        else if !free then .done (s1.saveKeep x key) [0] .fall
        else if s.anyOut c x || (s.ctx c x).rtrap.isSome || s.claims c x || s.holdsLock c x then .done s [1] .fall
        else .done (s1.saveFree x key) [0] .fall
def execCtxsave (h : Hdr) (d a b : Opnd) (free : Bool) (s : State) : Res :=
  .next (s.issue .sup h 8 [a, b] [(d, none)] fun v s => ctxsave free (v0 v) (v1 v) s)

/-! ### CTXLOAD and CTXSTAT (R354, R355) -/

/-- The state that a code names. -/
def stateOf (n : Nat) : CtxState :=
  match n with
  | 2 => .parked
  | 3 => .trapped
  | _ => .ready

/-- The binding of a queue register in an image. -/
def imageBinding (bs : List Byte) (q : Nat) : BitVec 6 := .ofNat 6 (frameByte bs (0x26C + q) / 4)

/-- An image's binding conflicts with a queue register of the core. -/
def State.bindingClash (s : State) (c x : Nat) (bs : List Byte) : Bool :=
  (List.range 4).any fun q =>
    let b := (imageBinding bs q).toNat
    b / 16 != 0 && ((s.core c).roleHeld x q (b % 16) (b / 16) ||
      (List.range q).any fun r => (imageBinding bs r).toNat == b)

/-- An image's fields enter a context whose window stands (R354). -/
def State.loadImage (s : State) (c x g : Nat) (m : Held) (bs : List Byte) : State :=
  let w := (frameWord bs 77).toNat
  let k0 := s.ctx c x
  let qs := (List.range 4).foldl (init := ([] : NMap (BitVec 6))) fun a q =>
    let b := imageBinding bs q
    if b.toNat / 16 = 0 then a else NMap.put a q b
  let sh := (List.range 16).foldl (init := ([] : NMap (BitVec 512))) fun a i =>
    NMap.put a i (.ofNat 512 (ofBytes ((bs.drop (0x400 + 64 * i)).take 64)))
  let s1 := s.setCtx c x { Ctx.reset with
    st := .stopped, resume := stateOf (w / 2 ^ 8 % 8), ttype := .ofNat 6 (w / 2 ^ 16), as := m.as, chk := m.chk, dl := m.dl
    win := .ofNat 2 (w / 2 ^ 30), winBase := g, fbase := m.fbase, fsize := m.fsize, launch := m.launch, eng := m.eng, rastOn := m.rast
    rejected := m.etraps, gated := k0.gated }
  let s2 := s1.onCore c fun k => (List.range (16 * (w / 2 ^ 30 % 4 + 1))).foldl (init := k) fun a i =>
    if i = 0 then a else a.setEntry (64 + 16 * g + i) (frameWord bs i)
  s2.onCtx c x fun k => { k with
    h := (List.range 8).foldl (fun a i => a.putD 0 i (frameWord bs (64 + i))) []
    w0 := frameWord bs 72, w1 := frameWord bs 73, pc := frameWord bs 74, jc := frameWord bs 75, ff := frameWord bs 76
    c := .ofNat 8 (w % 256 / 2 * 2 + 1), q := qs, ri := (frameWord bs 79).toNat
    status := .ofNat 128 (ofBytes ((bs.drop 0x288).take 16)), total := frameWord bs 83
    summ := .ofNat 1024 (ofBytes ((bs.drop 0x300).take 128)), shapes := sh }

/-- CTXLOAD (R354). -/
def ctxload (a b : Word) (s : State) : Body :=
  let c := s.cur
  let x := a.toNat
  if !ctxName a then .operand s
  else match s.bufferAt b 256 2048 0 with
    | .error e => .ofTrap s e
    | .ok key =>
      let s := s.drainOwn key
      let bs := s.bytes key 2048
      let w270 := (frameWord bs 78).toNat
      let mine := fun (m : Held) => m.addr == key && w270 % 2 ^ 41 == frameField m.fbase m.fsize + c * 2 ^ 32 + 2 ^ 40
      match (s.core c).held.find? mine with
      | none => .operand s
      | some m =>
        if (s.ctx c x).st ≠ .free then .done s [1] .fall
        else match (s.core c).findWindow ((frameWord bs 77).toNat / 2 ^ 30 % 4 + 1) with
          | none => .done s [2] .fall
          | some g =>
            if s.bindingClash c x bs then .done s [3] .fall
            else .done ((s.loadImage c x g m bs).onCore c fun k => { k with held := dropFirst mine k.held }) [0] .fall
def execCtxload (h : Hdr) (d a b : Opnd) (s : State) : Res :=
  .next (s.issue .sup h 8 [a, b] [(d, none)] fun v s => ctxload (v0 v) (v1 v) s)

/-- CTXSTAT's result (R355); context 0's window is of 64 registers (R48). -/
def State.ctxStatus (s : State) (c x : Nat) : Word :=
  let k := s.ctx c x
  .ofNat 64 (k.st.code + 8 * k.resume.code + 2 ^ 6 * b2n (s.anyOut c x) + 2 ^ 7 * b2n (s.claims c x) + 2 ^ 8 * b2n (s.holdsLock c x) +
    2 ^ 9 * b2n k.gated + 2 ^ 10 * b2n ((s.core c).frozen && x != 0) + 2 ^ 16 * k.ttype.toNat + 2 ^ 24 * (k.winBase % 32) +
    2 ^ 30 * (if x = 0 then 3 else k.win.toNat) + 2 ^ 32 * (s.core c).held.length)
def execCtxstat (h : Hdr) (d a : Opnd) (s : State) : Res :=
  .next (s.issue .sup h 8 [a] [(d, none)] fun v s =>
    if 16 ≤ (v0 v).toNat then .operand s else .done s [s.ctxStatus s.cur (v0 v).toNat] .fall)

end Sys2Proof.Machine
end

