-- ==== Sys2Proof/Machine/SysReg.lean ====
section
/-! DEFINITION. System registers (R326-R331), MFS and MTS, and the writes of single registers as steps of their own. -/

namespace Sys2Proof.Machine

/-! ### Reading (R327, R330) -/

/-- The capability headers of the TX192 (R330). -/
def State.capability (s : State) (i : Nat) : Word :=
  let d := s.dev
  let info := match i with
    | 0 => d.heads.toNat
    | 1 => d.number.toNat + 16 * b2n d.domain
    | 2 => b2n d.cxlCache + 2 * b2n d.cxlMem
    | _ => d.profile.toNat
  .ofNat 64 (info + (i + 1) * 2 ^ 32 + 2 ^ 48 + (if i < 3 then 0x801 + i else 0) * 2 ^ 52)

/-- COREID, PARTID and FIFOCTL. -/
def State.coreId (s : State) (c : Nat) : Word :=
  .ofNat 64 (c + sliceOf c * 2 ^ 8 + quadOf c * 2 ^ 16 + s.classOf c * 2 ^ 20 + s.ownDev * 2 ^ 24)
def State.partId (s : State) (p : Nat) : Word := .ofNat 64 (p + (s.part p).qmask.toNat * 16)
def Core.fifoState (k : Core) : Word :=
  .ofNat 64 ((List.range 16).foldl (fun a f => if k.fifos.get [] f = [] then a else a + 2 ^ f) 0)

/-- A system register's value for a core and a partition; none for a number that is not listed (R327). A capability number
past the four headers has no stated value: log entry 3. -/
def State.sysRead (s : State) (c p n : Nat) : Option (State × Word) :=
  let k := s.core c
  let v := s.part p
  let some_ := fun (w : Word) => some (s, w)
  if 0x30 ≤ n ∧ n < 0x40 then some_ (v.s1root.get 0 (n - 0x30))
  else if 0x50 ≤ n ∧ n < 0x60 then some_ (v.surfAddr.get 0 (n - 0x50) ||| .ofNat 64 (v.surfRes.get 0 (n - 0x50)))
  else if 0x100 ≤ n ∧ n < 0x140 then some_ (v.ttOf (n - 0x100))
  else if 0x800 ≤ n ∧ n < 0x804 then some_ (s.capability (n - 0x800))
  else if 0x804 ≤ n then some ({ s with free := s.free + 1 }, Config.freeWord s.free)
  else match n with
    | 0x000 => some_ 0x800
    | 0x001 => some_ (s.coreId c)
    | 0x002 => some_ (s.partId p)
    | 0x010 => some_ k.carve
    | 0x011 => some_ k.frame
    | 0x012 => some_ k.fifoState
    | 0x013 => some_ v.trapvec
    | 0x014 => some_ k.feedq
    | 0x018 => some_ 0
    | 0x020 => some_ v.pwbase
    | 0x021 => some_ v.pwsize
    | 0x022 => some_ v.frameq
    | 0x023 => some_ v.scrwin
    | 0x040 => some_ v.s2root
    | _ => none

def execMfs (h : Hdr) (d a : Opnd) (n : BitVec 12) (s : State) : Res :=
  .next (s.issue .sup h 8 [a] [(d, none)] fun v s =>
    match s.sysRead s.cur (s.partOf s.cur) (((v0 v).toNat + n.toNat) % 4096) with
    | none => .operand s
    | some (s1, w) => .done s1 [w] .fall)

/-! ### Writing single registers -/

/-- The bits of a register that are not reserved (R327, R329, R332). -/
def sysBits (n : Nat) : Word :=
  if 0x30 ≤ n ∧ n < 0x40 then 0x0000FFFFFFFF8001
  else if 0x50 ≤ n ∧ n < 0x60 then ~~~0x30#64
  else if 0x100 ≤ n ∧ n < 0x140 then 0x80FFFF03
  else match n with
    | 0x001 => 0x0FFFFFFF
    | 0x002 => 0xF3
    | 0x010 => 0x107
    | 0x011 => 0x87FF07FF
    | 0x012 => 0xFFFFFFFF
    | 0x013 => 0x000FFFFFFFFFFFE1
    | 0x014 => ~~~0x4000400040004000#64
    | 0x020 => 0x000FFFFFFFFFFFFF
    | 0x021 => 0x3F
    | 0x022 => 0x80003FFF
    | 0x023 => 0x87FF07FF
    | 0x040 => 0x0000FFFFFFFF8001
    | _ => ~~~0#64

/-- Contexts 1 to 15 are FREE. -/
def Core.idleUsers (k : Core) : Bool := k.taken.isEmpty

/-- A surface with tiles owned by a core is bound. -/
def State.ownsTiles (s : State) (c : Nat) : Bool :=
  s.parts.any fun p => p.2.surfs.any fun u => mapCount u.2.desc u.2.map c != 0

/-- A write of CARVE may take effect (R91). -/
def State.carveOk (s : State) (c : Nat) (v : Word) : Bool :=
  let k := s.core c
  let p := s.partOf c
  let size := 256 * (fld v 0 3 + 1)
  let w := (s.part p).scrwin
  decide (fld v 0 3 ≤ 5) && v &&& ~~~0x107#64 == 0 && k.idleUsers && k.copies.isEmpty && k.mx.run.isNone && k.primOut.isEmpty &&
  !s.ownsTiles c && decide (k.faBase + k.faSize ≤ size) && (!bit w 31 || decide (fld w 16 11 ≤ size)) && (s.twinOf p).isNone

/-- CARVE_WRITE: the scratchpad is resized and the L1 emptied, or ERR is set (R90, R91). -/
def State.writeCarve (s : State) (c : Nat) (v : Word) : State :=
  let err := bit (s.core c).carve 8 && !bit v 8
  if !s.carveOk c v then s.onCore c fun k => { k with carve := k.carve ||| 0x100 }
  else
    let n := fld v 0 3
    (s.writebackAll c (byStrand c 0)).onCore c fun k => { k with
      carve := .ofNat 64 (n + 256 * b2n err), l1 := [], scratch := k.scratch.filter fun e => decide (e.1 < 262144 * (n + 1)) }
def execCarveWrite (core : Nat) (v : Word) (s : State) : Res := .next (s.writeCarve core v)

/-- FRAME_WRITE (R328). -/
def State.writeFrameReg (s : State) (c : Nat) (v : Word) : State :=
  let k := s.core c
  let err := bit k.frame 31 && !bit v 31
  if v &&& ~~~0x87FF07FF#64 ≠ 0 ∨ !k.idleUsers ∨ k.scratchSize < 1024 * (fld v 16 11 + fld v 0 11) then
    s.onCore c fun k => { k with frame := k.frame ||| 0x80000000 }
  else (s.onCore c fun k => { k with frame := (v &&& 0x07FF07FF#64) ||| (if err then 0x80000000 else 0) }).plan (.placeHead c)
def execFrameWrite (core : Nat) (v : Word) (s : State) : Res := .next (s.writeFrameReg core v)

/-- FIFO_FLUSH: each FLUSH bit empties its FIFO; strands parked on it stay parked (R328). What wakes one that was
parked on a full FIFO is the next move of a FIFO of the core, or CTXSTART (log entry 118). -/
def State.flushFifos (s : State) (c : Nat) (v : Word) : State :=
  s.onCore c fun k => { k with fifos := k.fifos.filter fun e => !bit v (16 + e.1) }
def execFifoFlush (core : Nat) (v : Word) (s : State) : Res := .next (s.flushFifos core v)

/-- The translation of a trap vector's page, when it is present, pinned and fetchable (R341). -/
def State.vectorPage (s : State) (p : Nat) (v : Word) : Option Tlb :=
  let a := fld v 5 47 * 32
  match s.walk1 p 0 a, s.walkBoth p 0 a with
  | .ok l, .ok t => if bit l.entry 52 ∧ t.x then some t else none
  | _, _ => none

/-- A partition's locked translations are reloaded (R335). -/
def State.lockVector (s : State) (p : Nat) (t : Option Tlb) : State :=
  let mine := fun (e : Tlb) => e.locked && e.part == p
  let new := (t.map fun t => { t with locked := true }).toList
  (s.coresOf p).foldl (init := s) fun a c => a.onCore c fun k => { k with
    tlb := (new ++ k.tlb.filter (!mine ·)).take 64 }

/-- TRAPVEC_WRITE; none when the vector may not be set (R341). A record that waits for an entry may then make it. -/
def State.writeTrapvec (s : State) (p : Nat) (v : Word) : Option State :=
  let t := s.vectorPage p v
  if bit v 0 ∧ t.isNone then none
  else
    let s1 := (s.onPart p fun q => { q with trapvec := v }).lockVector p (if bit v 0 then t else none)
    let due := (s.coresOf p).filter fun c => s.home p c == c && !(s.core c).entryDue.isEmpty
    some (if bit v 0 then due.foldl (init := s1) fun a c => a.plan (.vectoredEntry c) else s1)
def execTrapvecWrite (part : Nat) (v : Word) (s : State) : Res := .next ((s.writeTrapvec part (v &&& sysBits 0x13)).getD s)

/-- A queue field names a queue of a kind defined for a partition (R380). -/
def State.queueIs (s : State) (p h : Nat) (spawn : Bool) : Bool := s.queueOk p (.ofNat 64 h) && (s.hwq h).spawn == spawn

/-- FEEDQ_WRITE; none for a field that names no spawn queue of the partition (R380). -/
def State.writeFeedq (s : State) (c : Nat) (v : Word) : Option State :=
  let ok := (List.range 4).all fun i => !bit v (16 * i + 15) || s.queueIs (s.partOf c) (fld v (16 * i) 14) true
  if ok then some ((s.onCore c fun k => { k with feedq := v }).plan (.placeHead c)) else none
def execFeedqWrite (core : Nat) (v : Word) (s : State) : Res := .next ((s.writeFeedq core (v &&& sysBits 0x14)).getD s)

/-- FRAMEQ_WRITE; none for a handle that names no value queue of the partition (R380). -/
def State.writeFrameq (s : State) (p : Nat) (v : Word) : Option State :=
  if bit v 31 ∧ !s.queueIs p (fld v 0 14) false then none else some (s.onPart p fun q => { q with frameq := v })
def execFrameqWrite (part : Nat) (v : Word) (s : State) : Res := .next ((s.writeFrameq part (v &&& sysBits 0x22)).getD s)

/-- FWDREC: firmware takes a copy of a record in the core's scratchpad, once it runs (R377); none for an offset that is
misaligned or outside it (R337). -/
def State.writeFwdrec (s : State) (c : Nat) (v : Word) : Option State :=
  let o := v.toNat
  if o % 32 ≠ 0 ∨ 2 ^ 21 ≤ o ∨ !s.scrOk (s.partOf c) c o 32 then none
  else some (s.onDev fun d => { d with fwd := d.fwd ++ [(c, .ofNat 256 (s.loadN (scrKey c o) 32))] })
/-- A device-level write of FWDREC: what firmware is to take while it is down waits for it (R377). -/
def State.takeFwdrec (s : State) (c : Nat) (v : Word) : State :=
  if !s.dev.fwUp ∧ (s.writeFwdrec c v).isSome then s.plan (.fwdrec c v) else (s.writeFwdrec c v).getD s
def execFwdrec (core : Nat) (v : Word) (s : State) : Res := .next (s.takeFwdrec core v)

/-- FAULT_RESOLVED: firmware, once it runs, removes the translations that the mapping affected and posts the resolved record
that names the strand (R337, R377). -/
def State.faultResolved (s : State) (c x : Nat) : State :=
  let hit := fun (e : Nat × BitVec 256) => e.1 == c && recCtx e.2 == x
  if !s.dev.fwUp then s.plan (.faultResolved c x)
  else match s.dev.fwd.find? hit with
  | none => s
  | some e =>
    let a := fld e.2 192 64
    ((s.onDev fun d => { d with fwd := dropFirst hit d.fwd }).dropTlb (s.partOf c) fun t =>
      decide (t.va ≤ a) && decide (a < t.va + t.size)).post c 0x12 x 0 0 0
def execFaultResolved (core ctx : Nat) (s : State) : Res := .next (s.faultResolved core ctx)

/-- PRIVATE_WINDOW_WRITE: PWBASE or PWSIZE, checked as a pair; none when the check fails (R327). -/
def State.writeWindow (s : State) (p : Nat) (isSize : Bool) (v : Word) : Option State :=
  let q := s.part p
  let n := (if isSize then v else q.pwsize).toNat
  let b := (if isSize then q.pwbase else v).toNat
  if (n ≠ 0 ∧ n < 12) ∨ 32 < n ∨ b % 2 ^ n ≠ 0 then none
  else some (s.onPart p fun q => if isSize then { q with pwsize := v } else { q with pwbase := v })
def execPrivateWindowWrite (part : Nat) (isSize : Bool) (v : Word) (s : State) : Res :=
  .next ((s.writeWindow part isSize (v &&& sysBits (if isSize then 0x21 else 0x20))).getD s)

/-- S1ROOT_WRITE: the root, and the address space's translations go, as `tlbinv.as` of core `c` removes them (R331). -/
def State.writeS1root (s : State) (c p as : Nat) (v : Word) : State :=
  (s.onPart p fun q => { q with s1root := q.s1root.putD 0 as v }).removeTlb c p fun t => t.as == as
def execS1rootWrite (part as : Nat) (v : Word) (s : State) : Res :=
  .next (s.writeS1root (s.firstCore part) part as (v &&& sysBits 0x30))

/-- TASK_TYPE_WRITE; none for a frame above 64 KiB (R329). -/
def State.writeType (s : State) (p n : Nat) (v : Word) : Option State :=
  if 64 < ttFrame v then none
  else
    let s1 := s.onPart p fun q => { q with tt := q.tt.putD 0 n v }
    some (((s.coresOf p).filter fun c => (s.core c).head.isSome).foldl (init := s1) fun a c => a.plan (.placeHead c))
def execTaskTypeWrite (part n : Nat) (v : Word) (s : State) : Res := .next ((s.writeType part n (v &&& sysBits 0x100)).getD s)

/-! ### MTS (R326, R331) -/

/-- A register that context 0 may only read: a write has no effect (R331). -/
def sysRo (n : Nat) : Bool := n == 0 || n == 1 || n == 2 || n == 0x23 || n == 0x40 || decide (0x800 ≤ n)

/-- A write of a listed register by its number, its reserved bits already tested; none for a breach of a stated limit. -/
def State.sysWrite (s : State) (c p n : Nat) (v : Word) : Option State :=
  if sysRo n then some s
  else if 0x30 ≤ n ∧ n < 0x40 then some (s.writeS1root c p (n - 0x30) v)
  else if 0x50 ≤ n ∧ n < 0x60 then some (s.writeSurfBind p (n - 0x50) v)
  else if 0x100 ≤ n ∧ n < 0x140 then s.writeType p (n - 0x100) v
  else match n with
    | 0x010 => some (s.writeCarve c v)
    | 0x011 => some (s.writeFrameReg c v)
    | 0x012 => some (s.flushFifos c v)
    | 0x013 => s.writeTrapvec p v
    | 0x014 => s.writeFeedq c v
    | 0x018 => s.writeFwdrec c v
    | 0x020 => s.writeWindow p false v
    | 0x021 => s.writeWindow p true v
    | 0x022 => s.writeFrameq p v
    | _ => some s

/-- A number that R327 lists. -/
def sysListed (n : Nat) : Bool :=
  n == 0 || n == 1 || n == 2 || (decide (0x10 ≤ n) && decide (n ≤ 0x14)) || n == 0x18 || (decide (0x20 ≤ n) && decide (n ≤ 0x23)) ||
  (decide (0x30 ≤ n) && decide (n ≤ 0x40)) || (decide (0x50 ≤ n) && decide (n < 0x60)) ||
  (decide (0x100 ≤ n) && decide (n < 0x140)) || (decide (0x800 ≤ n) && decide (n < 0x1000))

/-- MTS: a set reserved bit is a breach of every register but CARVE and FRAME, whose writes set ERR (R326). A rebind of a
surface holds the strand until the unbind before it has completed (R288, R328), and FWDREC until firmware has taken the record
(R337). -/
def mts (n : Nat) (v : Word) (s : State) : Body :=
  let c := s.cur
  let p := s.partOf c
  let surf := n - 0x50
  let bind := decide (0x50 ≤ n) && decide (n < 0x60)
  let pending := fun (s : State) => (s.surfAt p surf).elim false fun u => u.unbind.isSome
  let done := fun (s : State) => Body.done (s.onMe fun k => { k with busy := false }) [] .fall
  if !sysListed n then .operand s
  else if bind && s.me.busy then if pending s then .wait s else done s
  else if n != 0x10 && n != 0x11 && v &&& ~~~(sysBits n) != 0 then .operand s
  else match s.sysWrite c p n v with
    | none => .operand s
    | some s1 =>
      if n == 0x018 && !s.dev.fwUp then .wait s
      else if bind && v &&& ~~~63#64 != 0 && pending s1 then .wait (s1.onMe fun k => { k with busy := true }) else done s1
def execMts (h : Hdr) (a b : Opnd) (n : BitVec 12) (s : State) : Res :=
  .next (s.issue .sup h 8 [a, b] [] fun v s => mts (((v0 v).toNat + n.toNat) % 4096) (v1 v) s)

end Sys2Proof.Machine
end

