-- ==== Sys2Proof/Machine/Partition.lean ====
section
/-! DEFINITION. The halt tree (R359), partitions (R382-R384), twins and their swaps (R360-R363), and the partition's error
signal (R368). -/

namespace Sys2Proof.Machine

/-! ### The error signal (R368) -/

/-- A signal updated from device level, at a global address of a partition's address space, with a full summary: 0, or
the queue error code 4 for an address that fails and 5 for an object that rejects the update (R368, R371). An object of
another device is updated there in the same step, for no core's stores come before the update (R120; log entry 140). -/
def State.deviceSignal (s : State) (p as : Nat) (a : Word) (set : Bool) (v : Word) (f : Summary) : State × Nat :=
  let c := s.firstCore p
  if a.toNat % 256 ≠ 0 ∨ fld a 60 4 ≠ 0 then (s, 4)
  else match s.placeIn p as c 0 a 256 256 1 1 with
    | (s1, .error _) => (s1, 4)
    | (s1, .ok pl) =>
      let s2 := s1.transact pl.key
      match s2.signalAt p c pl.hm pl.key set false v f (byHost 0) with
        | none => (s2, 5)
        | some s3 => (s3, 0)

/-- A report of firmware: the partition's error signal, if it can take it, and an event of KIND 7. -/
def State.report (s : State) (p : Nat) (v : Word) : State :=
  let a := (s.part p).perrsig
  (if a = 0 then s else (s.deviceSignal p 0 a true v fullSummary).1).event srcFirmware 7 (v.setWidth 128)

/-! ### Events of a halted partition -/

/-- The core whose partition an event acts for; copies are left out, which go on (R360). -/
def evCore : Instr → Option Nat
  | .placeHead c => some c
  | .wake c _ _ _ => some c
  | .resultLands c _ => some c
  | .directListAppend c => some c
  | .messageArrival c _ _ _ => some c
  | .tensorCompletion c _ => some c
  | .matrixCompletion c _ => some c
  | .engineFaultTrap c _ => some c
  | .nodeDecrement c _ _ => some c
  | .nodeAction c => some c
  | .scriptStart c _ => some c
  | .scriptEnd c _ => some c
  | .scriptInstruction c _ => some c
  | .primitiveMessage c _ => some c
  | .pxlockGrant c => some c
  | .vectoredEntry c => some c
  | _ => none

/-- The slice whose controller an event steps. -/
def evSlice : Instr → Option Nat
  | .refineFactor i => some i
  | .refinePass i => some i
  | .refineExit i => some i
  | _ => none

/-- An event acts for a partition that cores hold. -/
def State.evOf (s : State) (p : Nat) (e : Pend) : Bool :=
  match evCore e.ev, evSlice e.ev with
  | some c, _ => s.partOf c == p && (s.part p).hasQuad (quadOf (c % 256))
  | _, some i => (s.slice i).rf.part == p && decide ((s.slice i).rf.phase ≠ 0)
  | _, _ => false

/-- The wake events on their way to a partition's contexts reach them: what they bring is part of the contexts' state, so
that a swap leaves no wake event without its wait (R208, R213, R220). -/
def State.wakeAll (s : State) (p : Nat) : State :=
  (s.coresOf p).foldl (init := s) fun a c => (List.range 16).foldl (init := a) fun b x => b.wakeNow (b.home p c) x

/-- A partition's events wait until it runs again (R361). -/
def State.holdEvents (s : State) (p : Nat) : State :=
  { s with agenda := s.agenda.filter (!s.evOf p ·) }.onPart p fun q => { q with held := q.held ++ s.agenda.filter (s.evOf p) }

/-! ### The halt (R359) -/

/-- A core halts at a slot boundary: in-flight results land and the special-function unit ends what it serves, and engine
instructions that have run complete; others stop as at a save (R61, R176, R360). The counts go to its heartwood image. -/
def State.haltCore (s : State) (c : Nat) : State :=
  let s1 := (List.range 16).foldl (init := s) fun a x =>
    ((((a.sfuSettle c x).landAll c x).tensorDone c x).matrixDone c x).onCtx c x fun k => { k with busy := k.sfuOut.isSome }
  let s2 := s1.onCore c fun k => { k with
    halted := true, mx := { k.mx with run := k.mx.run.bind fun r => if r < 8192 then none else some r } }
  let k := s2.core c
  s2.onCore (heartKey c) fun v => { v with counts := (k.issued, k.msgOut, k.msgIn) }

/-- Every core of a running partition halts. -/
def State.haltPart (s : State) (p : Nat) : State :=
  if (s.part p).st ≠ 1 then s
  else ((s.coresOf p).foldl (init := s) State.haltCore).onPart p fun q => { q with st := 3 }

/-- A partition halts, and its events wait (R359, R361). -/
def State.haltHold (s : State) (p : Nat) : State := (s.haltPart p).holdEvents p

/-- Firmware's records and reports of double faults, made once the halt is complete and firmware runs (R343, R377): h6 and h7
as the halt has left them. -/
def State.reportFaults (s : State) (p : Nat) : State :=
  if !s.dev.fwUp then s else
  ((s.part p).dfaults).foldl (init := s.onPart p fun q => { q with dfaults := [] }) fun a d =>
    let k := a.ctx (a.home p d.1) 0
    (a.onDev fun v => { v with reports := v.reports ++ [(d.1, k.h.get 0 6, k.h.get 0 7, d.2)] }).report p
      (.ofNat 64 (0xFFF * 2 ^ 48 + d.1))

/-! ### Swaps (R360-R363) -/

/-- A sid of a core's register state, renamed to its heartwood image or back. -/
def flipSid (out : Bool) (n : Nat) : Nat := if out then n + 4096 else n - 4096

/-- The locks and lock requests of a core, with their strands renamed. -/
def Core.rename (k : Core) (out : Bool) : Core := { k with
  locks := k.locks.map fun l => { l with holder := l.holder.map (flipSid out) }
  lockReqs := k.lockReqs.map fun r => (flipSid out r.1, r.2) }

/-- A scratchpad offset lies in the tile area of a bound surface. -/
def State.inTiles (s : State) (c off : Nat) : Bool :=
  s.parts.any fun p => p.2.surfs.any fun u =>
    decide (sdBase u.2.desc ≤ off) && decide (off < sdBase u.2.desc + reserved u.2.desc u.2.map c * sdRec u.2.desc)

/-- A core's bytes after a swap in spill mode: those of the incoming partition, but the tile areas stay. -/
def State.mixScratch (s : State) (c : Nat) (cur new : NMap Byte) : NMap Byte :=
  (cur.filter fun e => s.inTiles c e.1).foldl (init := new.filter fun e => !s.inTiles c e.1) fun m e => NMap.put m e.1 e.2

/-- The gating of a core's contexts, which the power controller owns, kept under other register state. -/
def Core.keepGates (old new : Core) : Core :=
  (List.range 16).foldl (init := new) fun k x =>
    if (old.ctx x).gated = (k.ctx x).gated then k else k.setCtx x { k.ctx x with gated := (old.ctx x).gated }

/-- What a core holds after its register state is exchanged with image `b`, gated bits included (R59): the caches empty, the
TLB, the engines, the carve and the watchpoints, which are device-level registers, kept (R357, R360). -/
def State.enterCore (s : State) (c : Nat) (spill : Bool) (b : Core) : Core :=
  let a := s.core c
  { b.rename false with
    cycle := a.cycle, scratch := if spill then s.mixScratch c a.scratch b.scratch else a.scratch, carve := a.carve
    l1 := [], icache := [], tlb := a.tlb, mx := { a.mx with waiters := [], run := none }, copies := a.copies
    lastCopy := a.lastCopy, copySeq := a.copySeq, copyWait := [], sent := a.sent, waddr := a.waddr, wctl := a.wctl }

/-- The image of the register state that a core gives up: its mailboxes go to the spill rings (R360, R363). -/
def State.leaveCore (s : State) (c : Nat) (spill : Bool) : Core :=
  let a := s.core c
  { a.rename true with
    scratch := if spill then a.scratch.filter fun e => !s.inTiles c e.1 else []
    l1 := [], icache := [], tlb := [], mx := .reset, copies := [], copyWait := [], sent := []
    sfuWait := [], offers := [], waddr := [], wctl := [], counts := (s.core (heartKey c)).counts
    mail0 := [], mail1 := [], spill0 := a.mail0 ++ a.spill0, spill1 := a.mail1 ++ a.spill1
    ring0 := (a.ring0 + 1024 - a.mail0.length) % 1024, ring1 := (a.ring1 + 1024 - a.mail1.length) % 1024 }

/-- Names of contexts of a set of cores kept outside them: the outgoing ones now name images, the incoming ones cores. -/
def State.renameOut (s : State) (cs : List Nat) : State :=
  let flip := fun (c : Nat) => if cs.contains c then c + 256 else if 256 ≤ c ∧ cs.contains (c - 256) then c - 256 else c
  { s with
    waits := s.waits.map fun w => if w.2 < 2 ^ 20 then (w.1, flip (w.2 / 16) * 16 + w.2 % 16) else w
    dev := { s.dev with hwq := s.dev.hwq.map fun e => (e.1, { e.2 with pops := e.2.pops.map fun r => (flip r.1, r.2) }) }
    agenda := s.agenda.map fun e => match e.ev with | .wake c x v d => { e with ev := .wake (flip c) x v d } | _ => e }

/-- Messages wait for the strands of a core that comes in. -/
def State.offerAll (s : State) (c : Nat) : State :=
  let s1 := s.onCore c fun k => (k.refill true).refill false
  (List.range 16).foldl (init := s1) fun a _ => (a.offerMail c true).offerMail c false

/-- The refinement controllers of a partition's slices change hands. -/
def State.swapSolves (s : State) (out inc : Nat) : State :=
  let is := (List.range 24).filter fun i => (s.slice i).rf.part == out && decide ((s.slice i).rf.phase ≠ 0)
  let s1 := s.onPart out fun q => { q with solves := is.map fun i => (i, (s.slice i).rf) }
  let s2 := is.foldl (init := s1) fun a i => a.onSlice i fun v => { v with rf := .reset }
  ((s.part inc).solves.foldl (init := s2) fun a e => a.onSlice e.1 fun v => { v with rf := e.2 }).onPart inc
    fun q => { q with solves := [] }

/-- The incoming partition restarts from its heartwood state (R360). -/
def State.restart (s : State) (p : Nat) : State :=
  let cs := s.coresOf p
  let s1 := { s with agenda := s.agenda ++ (s.part p).held }.onPart p fun q => { q with held := [] }
  let s2 := cs.foldl (init := s1) fun a c =>
    (((a.offerAll c).plan (.placeHead c)).plan (.directListAppend c)).admitHeld c
  if cs.any fun c => (s2.core c).dead then
    (cs.foldl (init := s2) fun a c => a.onCore c fun k => { k with halted := true }).onPart p fun q => { q with st := 3 }
  else cs.foldl (init := s2) fun a c => a.onCore c fun k => { k with halted := false }

/-- A swap is a save: a QPOP that has been assigned its entry completes, and a wait that a save cancels is withdrawn, a
reserved cell given back (R208, R213, R220). -/
def State.swapSave (s : State) (c : Nat) : State :=
  (List.range 16).foldl (init := s) fun a x =>
    let a1 := match (a.ctx c x).running with
      | some (.qpop _ _ _) => if a.satisfied c x then ((a.wakeNow c x).completeWait c x).landAll c x else a
      | _ => a
    let a2 := a1.cancelWait c x
    match (a2.ctx c x).reserved with
    | some r => (a2.unjoin c x r.1 r.2).onCtx c x fun k => { k with reserved := none }
    | none => a2

/-- What a swap writes to the outgoing partition's spill area: the mailbox rings and, in spill mode, the scratchpad but for
the tile areas (R360, R363); `c` is the core and its image has been made. -/
def State.writeSpill (s : State) (p c : Nat) (spill : Bool) (scratch : NMap Byte) : State :=
  let k := s.core (heartKey c)
  let ring := fun (hi : Bool) (a : State) => (List.range (k.spill hi).length).foldl (init := a) fun b i =>
    match (k.spill hi)[i]? with
    | some m => b.homeWrite p false (s.spillBase p c + (if hi then 0x30000 else 0x54000) + 144 * ((k.ring hi + i) % 1024))
        (spillEntry m) (byStrand c 0)
    | none => b
  let s1 := ring false (ring true s)
  if spill then (List.range ((s.core c).scratchSize / 16)).foldl (init := s1) fun a i =>
    if s.inTiles c (16 * i) then a
    else a.homeWrite p false (s.spillBase p c + 0x78000 + 16 * i) ((List.range 16).map fun j => scratch.get 0 (16 * i + j))
      (byStrand c 0)
  else s1

/-- Every core of a pair of twins exchanges its register state; `out` goes out, or is gone when `save` is off (R360,
R362). -/
def State.exchange (s : State) (out inc : Nat) (spill save : Bool) : State :=
  let cs := s.coresOf inc
  let s0 := if save then cs.foldl (init := s.wakeAll out) State.swapSave else s
  let s1 := cs.foldl (init := (s0.holdEvents out).swapSolves out inc) fun a c => a.writebackAll c (byStrand c 0)
  let s2 := cs.foldl (init := s1) fun a c =>
    let img := a.leaveCore c spill
    let k := a.enterCore c spill (a.core (heartKey c))
    let b := { a with cores := if save then (a.cores.put c k).put (heartKey c) img else (a.cores.put c k).del (heartKey c) }
    if save then b.writeSpill out c spill (a.core c).scratch else b
  let s3 := (s2.renameOut cs).onPart out fun q => { q with st := if save then 2 else 0, swapping := false }
  let s4 := s3.onPart inc fun q => { q with st := 1 }
  (s4.restart inc).event srcFirmware 9 (.ofNat 128 (out + inc * 4))

/-- A copy of a partition in progress on one of its cores. -/
def State.copying (s : State) (p : Nat) : Bool :=
  (s.coresOf p).any fun c => (s.core c).copies.any fun e => e.2.part == p && !e.2.stopped

/-- A swap that has begun goes on once the outgoing partition is halted; in spill mode its copies complete first. -/
def State.trySwap (s : State) (out : Nat) : State :=
  match s.twinOf out with
  | none => s.onPart out fun q => { q with swapping := false }
  | some t =>
    let spill := (s.part out).spill
    if (spill ∧ s.copying out) ∨ !s.dev.fwUp then s.plan (.haltTree out) else s.exchange out t spill true

/-- HALT_TREE: the partition's cores halt and its double faults are reported; a swap that waits for the halt goes on
(R343, R359, R360). -/
def execHaltTree (part : Nat) (s : State) : Res :=
  let s1 := (((s.haltPart part).wakeAll part).holdEvents part).reportFaults part
  .next (if (s1.part part).swapping then s1.trySwap part else s1)

/-- A swap of a partition and its twin may start: neither is being swapped or ended (R362). -/
def State.canSwap (s : State) (p : Nat) : Bool :=
  let busy := fun (q : Part) => q.swapping || q.ending
  (s.twinOf p).elim false fun t => !busy (s.part p) && !busy (s.part t)

/-- PARTITION_SWAP: the twin in place goes out and the other comes in; one that may not start sets RES alone (R362). Firmware
swaps, once it runs (R377). -/
def State.swap (s : State) (p : Nat) : State :=
  if !s.dev.fwUp then s.plan (.partitionSwap p)
  else if !s.canSwap p then s.onPart p fun q => { q with res := 6 }
  else
    let out := if (s.part p).st = 2 then (s.twinOf p).getD p else p
    (s.onPart out fun q => { q with swapping := true }).plan (.haltTree out)
def execPartitionSwap (part : Nat) (s : State) : Res := .next (s.swap part)

/-! ### Starting (R382) -/

/-- The QMASK values a partition may have. -/
def maskOk (m : Nat) : Bool := [1, 2, 4, 8, 3, 12, 5, 10, 15].contains m

/-- A core's start state: context 0 at PARTPC with its window open. -/
def startCore (pc : Word) : Core :=
  Core.setCtx { Core.reset with winOpen := true } 0 { Ctx.reset with st := .ready, pc := pc }

/-- A core is cleared for a partition that starts: what it has posted and written goes home first, and its counts toward
other devices stay (R120). Its cycle count starts from 0 (R19). -/
def State.clearCore (s : State) (c : Nat) (pc : Word) : State :=
  let s1 := (s.writebackAll c (byStrand c 0)).drainIf fun e => e.core == c
  let k := s1.core c
  { s1 with cores := (s1.cores.put c (k.keepGates { startCore pc with sent := k.sent })) }

/-- The spill areas of two partitions of one QMASK are set and apart (R363). -/
def spillsOk (a b : Part) (n : Nat) : Bool :=
  a.spillbase != 0 && b.spillbase != 0 && !overlap a.spillbase.toNat (2 ^ 21 * n) b.spillbase.toNat (2 ^ 21 * n)

/-- The scratchpad windows of two partitions are in force and apart. -/
def windowsOk (a b : Part) : Bool :=
  let lo := fun (p : Part) => fld p.scrwin 0 11
  let hi := fun (p : Part) => fld p.scrwin 16 11
  bit a.scrwin 31 && bit b.scrwin 31 && (decide (hi a ≤ lo b) || decide (hi b ≤ lo a))

/-- The running partition that a QMASK makes a partition the twin of, if any: it is the only one whose quadrants the
QMASK meets, and has no twin yet. -/
def State.mate (s : State) (p m : Nat) : Option Nat :=
  (List.range 4).find? fun r => decide (r ≠ p) && decide ((s.part r).st = 1) && (s.part r).qmask.toNat == m && (s.twinOf r).isNone

/-- A QMASK meets the quadrants of another partition. -/
def State.taken (s : State) (p m : Nat) : Bool :=
  (List.range 4).any fun r => decide (r ≠ p) && decide ((s.part r).st ≠ 0) && (s.part r).qmask.toNat &&& m != 0

/-- The result of the checks of a start, in the order of RES, for a partition whose fields already stand (R362, R382). -/
def State.startCode (s : State) (p : Nat) : Nat :=
  let q := s.part p
  let m := q.qmask.toNat
  let mate := s.mate p m
  if !maskOk m then 1
  else if s.taken p m ∧ mate.isNone then 2
  else if !bit q.s2root 0 then 3
  else if bit q.trapvec 0 ∧ (s.vectorPage p q.trapvec).isNone then 4
  else if q.ending then 5
  else match mate with
    | none => 0
    | some r =>
      let v := s.part r
      if !spillsOk v q (48 * popc 4 m) ∨ ((!v.spill ∨ !q.spill) ∧ !windowsOk v q) then 6 else 0

/-- A partition forms: it runs on its quadrants, or as a twin it is formed swapped out (R362, R382). -/
def State.form (s : State) (p : Nat) : State :=
  let q := s.part p
  let cs := (List.range 192).filter fun c => q.qmask.getLsbD (quadOf c)
  match s.mate p q.qmask.toNat with
  | some _ =>
    let s1 := { s with cores := cs.foldl (init := s.cores) fun m c => m.put (heartKey c) (startCore q.pc) }.onPart p fun q =>
      { q with v := true, st := 2, res := 0 }
    s1.lockVector p (if bit q.trapvec 0 then s1.vectorPage p q.trapvec else none)
  | none =>
    let s1 := (cs.foldl (init := s) fun a c => a.clearCore c q.pc).dropTlb p fun _ => true
    let s2 := s1.onPart p fun q => { q with v := true, st := 1, res := 0, held := [], solves := [], dfaults := [] }
    s2.lockVector p (if bit q.trapvec 0 then s2.vectorPage p q.trapvec else none)

/-- A start that waits for firmware does not come (R377). -/
def State.unstart (s : State) (p : Nat) : State :=
  { s with agenda := s.agenda.filter fun e => match e.ev with | .partitionStart q _ => q != p | _ => true }

/-- PARTITION_START: a write of PARTDEF with V = 1. A partition that is formed takes the new SPILL only, and one that is
ending is refused; a start that fails a check is reported (R368, R382). Firmware forms it, once it runs (R377). -/
def State.startPart (s : State) (p : Nat) (v : Word) : State :=
  if (s.part p).st ≠ 0 then
    if (s.part p).ending then s.onPart p fun q => { q with res := 5 } else s.onPart p fun q => { q with spill := bit v 27 }
  else
    let s1 := (s.unstart p).onPart p fun q => { q with qmask := .ofNat 4 (fld v 4 4), spill := bit v 27 }
    if !s.dev.fwUp then (s1.onPart p fun q => { q with v := true }).plan (.partitionStart p v)
    else match s1.startCode p with
    | 0 => s1.form p
    | e =>
      let c := ((List.range 192).filter fun c => (s1.part p).qmask.getLsbD (quadOf c)).headD 0
      (s1.onPart p fun q => { q with v := false, res := e }).report p (.ofNat 64 (0xFFF * 2 ^ 48 + c))
def execPartitionStart (part : Nat) (v : Word) (s : State) : Res := .next (s.startPart part v)

/-! ### Ending (R383) -/

/-- The launches of the strands that a core holds in no context: the children of its lists and its head, and the images whose
frames it holds. A continuation in a list is its frame's. -/
def Core.lines (k : Core) : List Nat :=
  (k.head.toList ++ k.direct ++ k.directHeld).filterMap (fun e => match e with | .child r _ => some r.launch | _ => none) ++
    k.held.map (·.launch)

/-- Every user context of a core, or of an image, is reaped, its trap records go, and so do the children of its dispatcher and
its held images, which end (R371, R383; log entry 144). -/
def State.reapCore (s : State) (c : Nat) : State :=
  let s1 := (s.core c).taken.foldl (init := (s.writebackAll c (byStrand c 0)).withdraw c 0) fun a x => a.reap c x
  (s1.onCore c fun k => { k with
    trapq := [], trapHeld := [], entryDue := [], head := none, direct := [], directHeld := [], held := [] }).endLines
    (s1.core c).lines

/-- What an ended partition leaves nowhere: its spilled engine contents, its held events and the continuations in its frames,
which end (R371; log entry 144). -/
def State.forget (s : State) (p : Nat) : State :=
  let mine := fun (e : Nat × Cont) => e.1 / 2 ^ 48 == p
  State.endLines (ns := (s.conts.filter mine).map (·.2.launch)) <| { s with
    mxSpill := s.mxSpill.filter fun e => e.1 / 256 != p
    conts := s.conts.filter (!mine ·)
    cores := s.cores.map fun (e : Nat × Core) => if e.2.mx.lastPart = some p then (e.1, { e.2 with mx := { Matrix.reset with
      lastPart := some p, lastRel := e.2.mx.lastRel, waiters := e.2.mx.waiters, err := e.2.mx.err } }) else e }.onPart p
    fun q => { q with held := [], solves := [] }

/-- A partition's reaped state: its user contexts end, with the events of its strands. -/
def State.reapPart (s : State) (p : Nat) : State :=
  let s1 := (s.coresOf p).foldl (init := s.holdEvents p) fun a c => a.reapCore (a.home p c)
  let s2 := (s1.coresOf p).foldl (init := s1) fun a c => a.onCore c fun k => { k with
    copies := k.copies.filter fun e => e.2.part != p || e.2.launch != 0 }
  ((s2.holdEvents p).forget p)

/-- Unbinds every surface of a partition that is not yet unbinding. -/
def State.unbindAll (s : State) (p : Nat) : State :=
  (s.part p).surfs.foldl (init := s) fun a u => if u.2.unbind = some 0 then a else a.unbindSurf p u.1 0

/-- The last step of an end: a swapped-out twin loses its images, one in place leaves its cores to its twin, if it has
one, in the mode that its SPILL selected (R362); QMASK and SPILL are then as they were last written. -/
def State.endPart (s : State) (p : Nat) : State :=
  let off := fun (s : State) => s.onPart p fun q => { q with
    v := false, st := 0, ending := false, swapping := false, next := none
    qmask := (q.next.map Prod.fst).getD q.qmask, spill := (q.next.map Prod.snd).getD q.spill }
  if (s.part p).st = 2 then
    off { s with cores := (s.coresOf p).foldl (init := s.cores) fun m c => m.del (heartKey c) }
  else match s.twinOf p with
    | none => off s
    | some t => off (s.exchange p t (s.part p).spill false)

end Sys2Proof.Machine
end

