-- ==== Sys2Proof/Machine/Cp.lean ====
section
/-! DEFINITION. Hardware-queue definitions (R380), host queues, packets, launches, slots, interrupts and firmware failure
(R364-R379), and the end of a partition (R383). -/

namespace Sys2Proof.Machine

/-! ### Interrupts (R376) -/

/-- The MSI-X table's words: a vector's address, then its data and control; a vector starts masked, as the standard has
it. -/
def Dev.msixWord (d : Dev) (i : Nat) : Word := d.msix.get (if i % 2 = 1 then 0x100000000 else 0) i
def Dev.masked (d : Dev) (v : Nat) : Bool := bit (d.msixWord (2 * v + 1)) 32

/-- A vector's message is sent, or pends while it is masked. -/
def State.sendMsi (s : State) (v : Nat) : State :=
  s.onDev fun d => if d.masked v then { d with pba := d.pba.put v true } else { d with msgs := d.msgs ++ [v] }

/-- Coalescing registers: COUNT 1 and TIMER 1 at reset. -/
def Dev.coalOf (d : Dev) (v : Nat) : Word := d.coal.get 0x1001 v

/-- The timer of a vector stops. -/
def State.stopTimer (s : State) (v : Nat) : State :=
  { s with agenda := s.agenda.filter fun e => match e.ev with | .coalescingTimer w => w != v | _ => true }

/-- The message of a vector is sent and HELD returns to 0. -/
def State.flushVector (s : State) (v : Nat) : State :=
  ((s.onDev fun d => { d with coal := d.coal.put v (setFld (d.coalOf v) 56 8 0) }).stopTimer v).sendMsi v

/-- The mesh cycles of a number of microseconds: the mesh runs at 1.8 GHz (R5). -/
def micros (n : Nat) : Nat := 1800 * n

/-- MSIX_EVENT (R376). -/
def State.msixEvent (s : State) (v : Nat) : State :=
  let c := s.dev.coalOf v
  let held := fld c 56 8 + 1
  if fld c 0 8 ≤ held then s.flushVector v
  else
    let s1 := s.onDev fun d => { d with coal := d.coal.put v (setFld c 56 8 held) }
    if held = 1 then s1.planAt (s.mesh + micros (fld c 12 10)) (.coalescingTimer v) else s1
def execMsixEvent (vec : Nat) (s : State) : Res := .next (s.msixEvent vec)

/-- COALESCING_TIMER (R376). -/
def execCoalescingTimer (vec : Nat) (s : State) : Res :=
  .next (if fld (s.dev.coalOf vec) 56 8 = 0 then s else s.flushVector vec)

/-! ### Hardware queues (R380) -/

/-- QUEUE_DEFINE: a write of V = 1 (R380). -/
def State.defineQueue (s : State) (stack idx : Nat) (desc : BitVec 256) : State :=
  let n := fld desc 24 5
  let base := fld desc 192 64
  let ok := bit desc 31 && !(s.hwq (stack * 4096 + idx)).v && decide (4 ≤ n) && decide (n ≤ 20) &&
    decide (base % (256 * 2 ^ n) = 0) && decide (base / 2 ^ 38 = 0) && decide (base / 2 ^ 36 = stack) &&
    fld desc 32 32 == 0 && fld desc 0 20 == 0
  if !ok then s
  else s.onHwq (stack * 4096 + idx) fun _ => { HwQ.reset with
    rbase := .ofNat 64 base, v := true, spawn := bit desc 30, remote := bit desc 29, log2n := n, pmask := .ofNat 4 (fld desc 20 4) }
def execQueueDefine (stack idx : Nat) (desc : BitVec 256) (s : State) : Res := .next (s.defineQueue stack idx desc)

/-- A FEEDQ or FRAMEQ register names a queue. -/
def State.queueNamed (s : State) (q : Nat) : Bool :=
  (s.cores.any fun e => (List.range 4).any fun i => bit e.2.feedq (16 * i + 15) && fld e.2.feedq (16 * i) 14 == q) ||
  s.parts.any fun p => bit p.2.frameq 31 && fld p.2.frameq 0 14 == q

/-- A write of V = 0 is accepted: no pop request waits at the queue and no register names it (R380). -/
def State.canUndefine (s : State) (q : Nat) : Bool := (s.hwq q).pops.isEmpty && !s.queueNamed q

/-- QUEUE_UNDEFINE: a write of V = 0; the entries are discarded, and the strands that its spawn records would have become
count as ended for their launches (R371, R380; log entry 144). -/
def State.undefineQueue (s : State) (q : Nat) : State :=
  if !s.canUndefine q then s
  else (s.onHwq q fun d => { d with v := false, count := 0, lin := [] }).endLines (s.hwq q).lin
def execQueueUndefine (stack idx : Nat) (s : State) : Res := .next (s.undefineQueue (stack * 4096 + idx))

/-! ### Host queues (R365, R366) -/

/-- A machine-physical address that names memory, the reserved bits of an aperture address included (R118, R385). -/
def mpaOk (a : Nat) : Bool := mpaNames a == 0

/-- A range of `n` bytes of machine memory whose first and last byte name memory, in one of its regions. -/
def mpaRange (a n : Nat) : Bool := mpaOk a && mpaOk (a + n - 1) && decide (a / 2 ^ 42 = (a + n - 1) / 2 ^ 42 ∨ a / 2 ^ 46 = 1)

/-- A range that a queue of a partition reads packets from: where it lies in another device's aperture, the partition has a
grant to it (R368, R385, R391). -/
def State.ringOk (s : State) (p a n : Nat) : Bool :=
  mpaRange a n && !s.ungranted p a false && !s.ungranted p (a + n - 1) false

/-- The slot that holds a queue. -/
def State.slotOf (s : State) (q : Nat) : Option Nat := (s.dev.hslots.find? fun e => e.2.queue == q).map Prod.fst

def State.onSlot (s : State) (i : Nat) (f : HSlot → HSlot) : State :=
  match s.dev.hslots.find i with
  | none => s
  | some h => s.onDev fun d => { d with hslots := d.hslots.put i (f h) }

/-- The place of a queue's descriptor. -/
def State.descKey (s : State) (q : Nat) : Nat := s.mpaKey (s.dev.qdbase.toNat + 64 * q)

/-- A queue's descriptor: as the slot that holds it has loaded it, or in memory. -/
def State.queueDesc (s : State) (q : Nat) : BitVec 512 :=
  match (s.slotOf q).bind s.dev.hslots.find with
  | some h => h.desc
  | none => .ofNat 512 (s.loadN (s.descKey q) 64)

/-- Fields of a descriptor. -/
def qdBase (d : BitVec 512) : Nat := fld d 0 64
def qdLog (d : BitVec 512) : Nat := fld d 64 5
def qdPart (d : BitVec 512) : Nat := fld d 102 2
def qdAs (d : BitVec 512) : Nat := fld d 104 4
def qdV (d : BitVec 512) : Bool := bit d 127
def qdErrsig (d : BitVec 512) : Word := .ofNat 64 (fld d 448 64)
def qdRptr (d : BitVec 512) : BitVec 32 := .ofNat 32 (fld d 160 32)
def qdWptr (d : BitVec 512) : BitVec 32 := .ofNat 32 (fld d 128 32)

/-- A queue that can be served: its descriptor is valid, with a ring of 16 to 65,536 entries. -/
def qdDefined (d : BitVec 512) : Bool := qdV d && decide (4 ≤ qdLog d) && decide (qdLog d ≤ 16)

/-- Entries submitted (R366). -/
def HSlot.submitted (h : HSlot) : Nat := (h.wptr - h.rptr).toNat

/-- ST of a slot's queue (R365). -/
def HSlot.st (h : HSlot) : Nat :=
  if h.halted then 3 else if h.wcond.isSome then 2 else if h.submitted = 0 && h.bufs.isEmpty then 0 else 1

/-- The home mode of the page of the signal that a slot waits for. -/
def HSlot.homeMode (h : HSlot) : Bool := h.wcond.elim false (·.2.1)

/-- The RO fields of a descriptor from a slot (R365). -/
def HSlot.writeBack (h : HSlot) (d : BitVec 512) : BitVec 512 :=
  setFld (setFld (setFld (setFld d 160 32 h.rptr.toNat) 128 32 h.wptr.toNat) 116 4 h.err) 114 2
    (if h.halted then 3 else if h.submitted = 0 then 0 else 1)

/-- Bytes written at home by the command processor, for a partition; a home watchpoint names the host as their writer (R358;
log entry 110). -/
def State.cpPut (s : State) (p key : Nat) (bs : List Byte) : State := s.homeWrite p false key bs (byHost 0)

/-- A descriptor written in memory by the command processor. -/
def State.putDesc (s : State) (q : Nat) (d : BitVec 512) : State := s.cpPut (qdPart d) (s.descKey q) (toBytes 64 d.toNat)

/-! ### Errors (R368) -/

/-- An error of a queue is reported: its error signal, or else its partition's, and an event on EVEC. -/
def State.queueError (s : State) (q code : Nat) (pos : BitVec 32) : State :=
  let d := s.queueDesc q
  let p := qdPart d
  let v := code * 2 ^ 32 + pos.toNat
  let (s1, r) := if qdErrsig d = 0 then (s, 4) else s.deviceSignal p (qdAs d) (qdErrsig d) true (.ofNat 64 v) fullSummary
  let s2 := if r = 0 ∨ (s1.part p).perrsig = 0 then s1
    else (s1.deviceSignal p 0 (s1.part p).perrsig true (.ofNat 64 (q * 2 ^ 48 + v)) fullSummary).1
  s2.plan (.msixEvent (fld s2.dev.cpcfg 16 8))

/-- The packet of a queue that halts: a LAUNCH whose strands are being dealt goes on until it is dispatched (log entry 119);
any other is not dispatched, and one in a buffer leaves the queue at the INDIRECT in its ring (R368, R374). -/
def HSlot.stop (h : HSlot) : HSlot :=
  if h.next.isSome then h else { h with bufs := [], number := 0, words := [], wcond := none, woken := false }

/-- A queue halts, and the buffers that its packet was nested in are reported with the error (R368, R374; log entry 79). -/
def State.haltIn (s : State) (i code : Nat) (bufs : List Buf) : State :=
  match s.dev.hslots.find i with
  | none => s
  | some h =>
    (((s.onSlot i fun h => { h.stop with halted := true, err := code }).unwait (qdPart h.desc) h.homeMode (waiterSlot i)).onDev
      fun d => { d with nesting := d.nesting.put h.queue bufs }).queueError h.queue code h.rptr

/-- A queue halts at its next packet. -/
def State.haltSlot (s : State) (i code : Nat) : State := s.haltIn i code ((s.dev.hslots.find i).elim [] (·.bufs))

/-! ### Packets (R367) -/

/-- The place of a slot's next packet entry, `k` entries on: in the buffer it runs, or in its ring. -/
def HSlot.entry (h : HSlot) (k : Nat) : Nat :=
  match h.bufs with
  | b :: _ => b.base + 64 * (b.pos + k)
  | [] => qdBase h.desc + 64 * ((h.rptr.toNat + k) % 2 ^ qdLog h.desc)

/-- The entries a slot may start now. -/
def HSlot.ready (h : HSlot) : Nat :=
  match h.bufs with
  | b :: _ => b.count - b.pos
  | [] => if h.closing then 0 else h.submitted

/-- The words of a slot's next packet, `n` entries of it. -/
def State.packet (s : State) (h : HSlot) (n : Nat) : List Word :=
  (List.range n).flatMap fun k => (List.range 8).map fun j => .ofNat 64 (s.loadN (s.mpaKey (h.entry k) + 8 * j) 8)

/-- The header of a slot's next packet. -/
def State.header (s : State) (h : HSlot) : Word := nth 0 (s.packet h 1) 0
def pkType (w : Word) : Nat := fld w 0 8
def pkBar (w : Word) : Bool := bit w 8

/-- The entries of a packet type. -/
def pkLen (t : Nat) : Nat := if t = 1 then 2 else 1

/-- The words of a packet have ones only where a mask has. -/
def maskedBy (ws : List Word) (ms : List Word) : Bool :=
  (List.range ws.length).all fun i => nth 0 ws i &&& ~~~(nth 0 ms i) == 0

/-- The bits each packet type may set, word by word. -/
def pkMask (t : Nat) : List Word :=
  let a : Word := ~~~0#64
  let ev : Word := 0x1FF
  match t with
  | 1 => [0x7FFF01FF ||| 0x3F0000, a, a, a, a, a, a, 0, a, a, a, a, a, a, ev, 0]
  | 2 => [0x301FF, a, a, ev, 0, 0, 0, 0]
  | 3 => [0x301FF, a, a, 0, 0, 0, 0, 0]
  | 4 => [0x1FF, a, 0xFFFF, 0, 0, 0, 0, 0]
  | 5 => [0x1FF, a, a, a, a, a, a, ev]
  | _ => [0x1FF, 0, 0, 0, 0, 0, 0, 0]

/-- A buffer that has run its last packet ends; the INDIRECT before it is then dispatched. Whether the ring moves on. -/
def popBufs : List Buf → List Buf × Bool
  | [] => ([], true)
  | b :: bs => if b.pos + 1 < b.count then ({ b with pos := b.pos + 1 } :: bs, false) else popBufs bs

/-- A packet of `n` entries is dispatched; a queue that has halted meanwhile leaves its buffers (R374). -/
def HSlot.advance (h : HSlot) (n : Nat) : HSlot :=
  let h1 := { h with number := 0, words := [], next := none, woken := false }
  let keep := fun (bs : List Buf) => if h.halted then [] else bs
  match h.bufs with
  | [] => { h1 with rptr := h.rptr + .ofNat 32 n }
  | b :: bs =>
    if b.pos + n < b.count then { h1 with bufs := keep ({ b with pos := b.pos + n } :: bs) }
    else
      let (r, ring) := popBufs bs
      { h1 with bufs := keep r, rptr := if ring then h.rptr + 1 else h.rptr }

/-! ### Handles (R369, R370) -/

/-- A handle's place in the partition's table, and its fields. -/
def State.handleKey (s : State) (p i : Nat) : Nat := s.mpaKey ((s.part p).htbase.toNat + 32 * i)
def State.lastw (s : State) (p i : Nat) : Nat := s.loadN (s.handleKey p i + 16) 4
def State.nrd (s : State) (p i : Nat) : Nat := s.loadN (s.handleKey p i + 20) 4

/-- The handles of a packet, each an index with its ACC: a LAUNCH's NH, or the non-zero ones of a COPY's word. -/
def pkHandles (ws : List Word) : List (Nat × Nat) :=
  let h := nth 0 ws 0
  let one := fun (w : Word) (j : Nat) => fld w (16 * j) 16
  let hs := if pkType h = 1 then (List.range (fld h 26 5)).map fun j => one (nth 0 ws (8 + j / 4)) (j % 4)
    else ((List.range 4).map (one (nth 0 ws 4))).filter (· ≠ 0)
  hs.map fun v => (v % 4096, v / 2 ^ 14)

/-- A reserved bit of a handle is set. -/
def pkHandleRsv (ws : List Word) : Bool :=
  let h := nth 0 ws 0
  let words := if pkType h = 1 then (List.range (min 16 (fld h 26 5))).map fun j => fld (nth 0 ws (8 + j / 4)) (16 * (j % 4)) 16
    else (List.range 4).map fun j => fld (nth 0 ws 4) (16 * j) 16
  words.any fun v => v / 4096 % 4 != 0

/-- Every handle is free for its access. -/
def State.handlesFree (s : State) (p : Nat) (hs : List (Nat × Nat)) : Bool :=
  hs.all fun h => s.lastw p h.1 == 0 && (decide (h.2 / 2 % 2 = 0) || s.nrd p h.1 == 0)

/-- The handles are acquired for a launch. -/
def State.acquire (s : State) (p n : Nat) (hs : List (Nat × Nat)) : State :=
  hs.foldl (init := s) fun a h =>
    if h.2 / 2 % 2 = 1 then a.cpPut p (a.handleKey p h.1 + 16) (toBytes 4 n)
    else a.cpPut p (a.handleKey p h.1 + 20) (toBytes 4 (a.nrd p h.1 + 1))

/-- The handles of a completed launch are released (R371). -/
def State.releaseHandles (s : State) (p : Nat) (hs : List (Nat × Nat)) : State :=
  hs.foldl (init := s) fun a h =>
    if h.2 / 2 % 2 = 1 then a.cpPut p (a.handleKey p h.1 + 16) (toBytes 4 0)
    else a.cpPut p (a.handleKey p h.1 + 20) (toBytes 4 (a.nrd p h.1 - 1))

/-- The summary of a launch: the regions of its handles' ranges; full with none of them or with more than 512 bits set
(R124). -/
def State.handleSummary (s : State) (p : Nat) (hs : List (Nat × Nat)) : Summary :=
  let f := hs.foldl (init := 0) fun f h =>
    let k := s.handleKey p h.1
    let n := s.loadN (k + 8) 8
    f ||| (if n = 0 then 0 else regionsOf (s.loadN k 8) n)
  if hs = [] ∨ 512 < summaryCount f then fullSummary else f

/-! ### Choosing what to serve (R375, R379) -/

/-- The fallback scheduler runs. -/
def Dev.fallback (d : Dev) : Bool := !d.fwUp && bit d.cpcfg 1

/-- A launch or copy of a queue is outstanding. -/
def State.outstanding (s : State) (q : Nat) : Bool := s.dev.launches.any fun e => e.2.queue == q

/-- A slot's packet may start or go on. While firmware is down with FALLEN = 0 only the packets of an INDIRECT that is in
progress do (R379). -/
def State.servable (s : State) (h : HSlot) : Bool :=
  !h.halted && h.wcond.isNone && h.next.isNone &&
  if h.number ≠ 0 then s.handlesFree (qdPart h.desc) (pkHandles h.words)
  else
    let w := s.header h
    decide (pkLen (pkType w) ≤ h.ready || (pkType w = 1 ∧ h.bufs ≠ [] ∧ 0 < h.ready)) && !(pkBar w && s.outstanding h.queue) &&
    (s.dev.fwUp || (s.dev.fallback && pkType w != 5 && pkType w != 0) || (!s.dev.fallback && h.bufs != []))

/-- The slot the dispatcher serves next: the highest priority, and round-robin among equals. -/
def State.cpNext (s : State) : Option Nat :=
  let order := (List.range 64).map fun k => (s.dev.lastSlot + 1 + k) % 64
  let pri := fun (h : HSlot) => if s.dev.fwUp then h.pri else 0
  order.foldl (init := none) fun a i =>
    match s.dev.hslots.find i with
    | none => a
    | some h => if !s.servable h then a else match a.bind s.dev.hslots.find with
      | none => some i
      | some b => if pri b < pri h then some i else a

/-- The event that starts a slot's packet; a packet of an illegal type halts its queue where a NOP would have run. -/
def State.packetEvent (s : State) (i : Nat) : Instr :=
  match s.dev.hslots.find i with
  | none => .nopPacket i
  | some h => match pkType (if h.number ≠ 0 then nth 0 h.words 0 else s.header h) with
    | 1 => .launch i
    | 2 => .signal i
    | 3 => .waitPacket i
    | 4 => .indirect i
    | 5 => .copyPacket i
    | _ => .nopPacket i

/-- The slot of a packet event. -/
def evSlot : Instr → Option Nat
  | .nopPacket i => some i
  | .launch i => some i
  | .signal i => some i
  | .waitPacket i => some i
  | .indirect i => some i
  | .copyPacket i => some i
  | _ => none

/-- The dispatcher looks for a packet to start. -/
def State.kick (s : State) : State :=
  match s.cpNext with
  | none => s
  | some i => if s.agenda.any fun e => evSlot e.ev == some i then s else s.plan (s.packetEvent i)

/-- A packet of a given type that the dispatcher may start in a slot is given its meaning; otherwise nothing starts. The
ring address is checked first (R368). -/
def State.start (s : State) (i : Nat) (isType : Nat → Bool) (f : State → HSlot → List Word → State) : State :=
  match s.dev.hslots.find i with
  | none => s
  | some h =>
    if s.cpNext ≠ some i ∨ h.number ≠ 0 ∨ !isType (pkType (s.header h)) then s.kick
    else
      let s1 := s.onDev fun d => { d with lastSlot := i }
      let t := pkType (s.header h)
      let n := pkLen t
      let ok := h.bufs != [] || (s.ringOk (qdPart h.desc) (qdBase h.desc) (64 * 2 ^ qdLog h.desc) &&
        decide (qdBase h.desc % (64 * 2 ^ qdLog h.desc) = 0))
      let ws := s.packet h n
      (if !ok then s1.haltSlot i 4
       else if 6 ≤ t ∨ h.ready < n ∨ !maskedBy ws (pkMask t) then s1.haltSlot i 1
       else f s1 h ws).kick

/-- A slot's packet is dispatched. -/
def State.dispatched (s : State) (i n : Nat) : State := s.onSlot i (·.advance n)

/-! ### NOP, SIGNAL, WAIT and INDIRECT (R372, R374) -/

/-- NOP_PACKET. -/
def execNopPacket (slot : Nat) (s : State) : Res :=
  .next (s.start slot (fun t => t == 0 || decide (6 ≤ t)) fun s _ _ => s.dispatched slot 1)

/-- A packet's completion event. -/
def State.vecEvent (s : State) (w : Word) : State := if bit w 8 then s.plan (.msixEvent (fld w 0 8)) else s

/-- SIGNAL: SIGSET or SIGADD with a full summary, then its event. -/
def State.signalPacket (s : State) (i : Nat) (h : HSlot) (ws : List Word) : State :=
  let op := fld (nth 0 ws 0) 16 2
  if 2 ≤ op then s.haltSlot i 1
  else match s.deviceSignal (qdPart h.desc) (qdAs h.desc) (nth 0 ws 1) (op == 0) (nth 0 ws 2) fullSummary with
    | (s1, 0) => (s1.dispatched i 1).vecEvent (nth 0 ws 3)
    | (s1, e) => s1.haltSlot i e
def execSignal (slot : Nat) (s : State) : Res := .next (s.start slot (· == 2) fun s h ws => s.signalPacket slot h ws)

/-- WAIT: dispatched when its condition holds; else the slot joins the object's wait list. -/
def State.waitPacket (s : State) (i : Nat) (h : HSlot) (ws : List Word) : State :=
  let p := qdPart h.desc
  let a := nth 0 ws 1
  let rel := fld (nth 0 ws 0) 16 2
  if a.toNat % 256 ≠ 0 ∨ fld a 60 4 ≠ 0 then s.haltSlot i 4
  else match s.placeIn p (qdAs h.desc) (s.firstCore p) 0 a 256 256 1 1 with
    | (s1, .error _) => s1.haltSlot i 4
    | (s1, .ok pl) =>
      let o := s1.obj pl.key
      if o.kind ≠ 1 then s1.haltSlot i 5
      else if relHolds rel o.value (nth 0 ws 2) then
        (s1.onSlot i fun h => { h with summ := h.summ ||| o.summ }).dispatched i 1
      else
        let s2 := { s1 with waits := s1.waits ++ [(pl.key, waiterSlot i)] }
        (s2.onSlot i fun h => { h with wcond := some (pl.key, pl.hm, rel, nth 0 ws 2) }).relist p pl.hm pl.key (byHost 0)

/-- WAIT_PACKET: a WAIT that an update has satisfied is dispatched; another one is tested (R372). -/
def execWaitPacket (slot : Nat) (s : State) : Res :=
  .next (if (s.dev.hslots.find slot).any (·.woken) then (s.dispatched slot 1).kick
    else s.start slot (· == 3) fun s h ws => s.waitPacket slot h ws)

/-- The ring and the buffers that a slot is running, as ranges. -/
def HSlot.running (h : HSlot) : List (Nat × Nat) :=
  (qdBase h.desc, 64 * 2 ^ qdLog h.desc) :: h.bufs.map fun b => (b.base, 64 * b.count)

/-- INDIRECT (R374). -/
def State.indirectPacket (s : State) (i : Nat) (h : HSlot) (ws : List Word) : State :=
  let a := (nth 0 ws 1).toNat
  let n := fld (nth 0 ws 2) 0 16
  if n = 0 then s.haltSlot i 1
  else if a % 64 ≠ 0 ∨ !s.ringOk (qdPart h.desc) a (64 * n) then s.haltSlot i 4
  else if h.running.any fun r => overlap a (64 * n) r.1 r.2 then s.haltSlot i 7
  else if 4 ≤ h.bufs.length then s.haltSlot i 6
  else s.onSlot i fun h => { h with bufs := ⟨a, n, 0⟩ :: h.bufs }
def execIndirect (slot : Nat) (s : State) : Res := .next (s.start slot (· == 4) fun s h ws => s.indirectPacket slot h ws)

/-! ### LAUNCH and COPY (R28, R370, R373) -/

/-- The core set of a LAUNCH (R367). -/
def coreSet (w : Word) : List Nat :=
  (List.range 192).filter fun c => bit w (sliceOf c) && bit w (24 + 4 * (rowOf c % 2) + colOf c % 4)

/-- A completion signal's address is good enough to start with (R368). -/
def State.csigOk (s : State) (p as : Nat) (a : Word) : Bool :=
  a == 0 || (a.toNat % 256 == 0 && fld a 60 4 == 0 &&
    match (s.placeIn p as (s.firstCore p) 0 a 256 256 1 1).2 with | .ok _ => true | .error _ => false)

/-- The error code of a packet's handles, 0 for none. -/
def State.handleCode (s : State) (p : Nat) (ws : List Word) : Nat :=
  let hs := pkHandles ws
  if 16 < hs.length ∨ hs.any fun h => decide ((s.part p).htsize.toNat ≤ h.1) || h.2 == 0 then 3 else 0

/-- The error code of a LAUNCH, 0 for none. -/
def State.launchCode (s : State) (h : HSlot) (ws : List Word) : Nat :=
  let p := qdPart h.desc
  let w0 := nth 0 ws 0
  let w6 := nth 0 ws 6
  let m := fld w0 22 4
  let cs := coreSet w6
  let n := fld w6 32 32
  if fld w0 26 5 ≤ 16 ∧ pkHandleRsv ws then 1
  else if !bit ((s.part p).ttOf (fld w0 16 6)) 31 || m == 0 || cs.isEmpty || cs.any (fun c => !s.inPart p c) || n == 0 ||
      decide (m * cs.length < n) || fld (nth 0 ws 1) 52 12 != 0 then 2
  else if s.handleCode p ws ≠ 0 then 3
  else if !s.csigOk p (qdAs h.desc) (nth 0 ws 12) then 4
  else 0

/-- The next launch number; the counter skips 0. -/
def nextNumber (n : Nat) : Nat := if (n + 1) % 2 ^ 32 = 0 then 1 else (n + 1) % 2 ^ 32

/-- A packet that has passed its checks takes the next launch number and its words are kept. -/
def State.numberPacket (s : State) (i : Nat) (ws : List Word) : State :=
  (s.onSlot i fun h => { h with number := s.dev.nextLaunch, words := ws }).onDev fun d =>
    { d with nextLaunch := nextNumber d.nextLaunch }

/-- The record of an outstanding launch. -/
def newLaunch (h : HSlot) (csig cadd ev : Word) (copy : Option (Nat × Nat)) : Launch where
  queue := h.queue
  part := qdPart h.desc
  as := qdAs h.desc
  live := 0
  dealt := false
  handles := pkHandles h.words
  csig := csig
  cadd := cadd
  vec := fld ev 0 8
  ven := bit ev 8
  rpos := h.rptr
  copy := copy
  bufs := h.bufs

/-- Strands of a launch dealt in index order, until a core's list has no room: strand `j` to the (`j` mod `n`)-th core
(R28, R209). How many are dealt now. -/
def State.deal (s : State) (cs : List Nat) (r : Child) (seed : Word) : Nat → Nat → State × Nat
  | 0, j => (s, j)
  | f + 1, j =>
    match s.appendDirect (nth 0 cs (j % cs.length)) (.child { r with g1 := seed + .ofNat 64 j } 0) 48 with
    | none => (s, j)
    | some s1 => (s1.lineBorn r.launch).deal cs r seed f (j + 1)

/-- A LAUNCH goes on: it acquires its handles when they are all free, and then deals its strands while its partition runs
(R370). -/
def State.launchOn (s : State) (i : Nat) (h : HSlot) : State :=
  let p := qdPart h.desc
  let w := fun j => nth 0 h.words j
  let hs := pkHandles h.words
  let again := fun (s : State) => s.plan (.launch i)
  match h.next with
  | none =>
    if !s.handlesFree p hs then s
    else again (((s.acquire p h.number hs).onDev fun d => { d with
      launches := d.launches.put h.number (newLaunch h (w 12) (w 13) (w 14) none) }).onSlot i fun h => { h with next := some 0 })
  | some j =>
    if (s.part p).st ≠ 1 then again s
    else
      let n := fld (w 6) 32 32
      let r : Child := ⟨w 1, .ofNat 6 (fld (w 0) 16 6), 0, w 3, w 4, w 5, 0, h.summ ||| s.handleSummary p hs, h.number⟩
      let (s1, j1) := s.deal (coreSet (w 6)) r (w 2) (n - j) j
      if j1 < n then again (s1.onSlot i fun h => { h with next := some j1 })
      else
        let s2 := (s1.onLaunch h.number fun l => { l with dealt := true }).onSlot i (·.advance 2)
        if ((s2.dev.launches.find h.number).elim 0 (·.live)) = 0 then s2.plan (.launchComplete h.number) else s2

/-- LAUNCH: its checks and number, then its handles and strands. -/
def execLaunch (slot : Nat) (s : State) : Res :=
  .next (match s.dev.hslots.find slot with
    | none => s
    | some h =>
      if h.number ≠ 0 ∧ pkType (nth 0 h.words 0) = 1 then (s.launchOn slot h).kick
      else s.start slot (· == 1) fun s h ws =>
        match s.launchCode h ws with
        | 0 =>
          let s1 := s.numberPacket slot ws
          (s1.dev.hslots.find slot).elim s1 (s1.launchOn slot)
        | e => s.haltSlot slot e)

/-- The shape record of `n` bytes at an address. -/
def byteShape (a : Word) (n : Nat) : BitVec 512 := .ofNat 512 (a.toNat + (n - 1) * 2 ^ 64 + 7 * 2 ^ 288)

/-- A range of bytes that a COPY names: in the global space, its first byte reachable. -/
def State.copyRange (s : State) (p as : Nat) (a : Word) (n use : Nat) : Bool :=
  decide (a.toNat + n ≤ 2 ^ 52) &&
    match (s.placeIn p as (s.firstCore p) 0 a 1 1 use 3).2 with | .ok _ => true | .error _ => false

/-- The error code of a COPY, 0 for none. -/
def State.copyCode (s : State) (h : HSlot) (ws : List Word) : Nat :=
  let p := qdPart h.desc
  let as := qdAs h.desc
  let n := (nth 0 ws 3).toNat
  if pkHandleRsv ws ∨ n = 0 ∨ 2 ^ 32 < n then 1
  else if s.handleCode p ws ≠ 0 then 3
  else if !s.copyRange p as (nth 0 ws 1) n 1 || !s.copyRange p as (nth 0 ws 2) n 0 || !s.csigOk p as (nth 0 ws 5) then 4
  else 0

/-- A COPY goes on: once its handles are free and the lowest core's copy engine has a slot, it is accepted (R373). -/
def State.copyOn (s : State) (i : Nat) (h : HSlot) : State :=
  let p := qdPart h.desc
  let c := s.firstCore p
  let w := fun j => nth 0 h.words j
  let hs := pkHandles h.words
  if !s.handlesFree p hs then s
  else match (if (s.part p).st = 1 then (s.core c).freeSlot else none) with
    | none => s.plan (.copyPacket i)
    | some slot =>
      let n := (w 3).toNat
      let k := { newCopy 0 (byteShape (w 1) n) (byteShape (w 2) n) 0 0 0 0 0 false 0 0 0 p (qdAs h.desc) 0 0 none with
        order := (s.core c).copySeq, launch := h.number }
      let s1 := (s.acquire p h.number hs).onDev fun d => { d with
        launches := d.launches.put h.number { newLaunch h (w 5) (w 6) (w 7) (some (c, slot)) with dealt := true } }
      ((((s1.settle c).onCore c fun v => { v with copies := v.copies.put slot k, copySeq := v.copySeq + 1 }).dispatched i 1).plan
        (.copyUnitConfirm c slot))

/-- COPY_PACKET. -/
def execCopyPacket (slot : Nat) (s : State) : Res :=
  .next (match s.dev.hslots.find slot with
    | none => s
    | some h =>
      if h.number ≠ 0 ∧ pkType (nth 0 h.words 0) = 5 then (s.copyOn slot h).kick
      else s.start slot (· == 5) fun s h ws =>
        match s.copyCode h ws with
        | 0 =>
          let s1 := s.numberPacket slot ws
          (s1.dev.hslots.find slot).elim s1 (s1.copyOn slot)
        | e => s.haltSlot slot e)

/-! ### Completion (R371, R373) -/

/-- A LAUNCH that a slot is dealing is cut off where its queue leaves it: the strands that it has placed are all it has,
and it completes with them (R371; log entry 119). -/
def State.cutDeal (s : State) (i : Nat) : State :=
  match s.dev.hslots.find i with
  | none => s
  | some h =>
    if h.next.isNone then s
    else
      let s1 := (s.onLaunch h.number fun l => { l with dealt := true }).onSlot i fun h => { h with
        number := 0, words := [], next := none, bufs := [] }
      if ((s1.dev.launches.find h.number).elim 0 (·.live)) = 0 then s1.plan (.launchComplete h.number) else s1

/-- A COPY that stopped: its slot and handles are freed, and its queue halts at it, with the nesting that the COPY stood in
(R373, R374). -/
def State.failCopy (s : State) (n : Nat) (l : Launch) (c slot : Nat) : State :=
  let s1 := ((s.onCore c fun k => { k with copies := k.copies.del slot }).releaseHandles l.part l.handles).onDev fun d =>
    { d with launches := d.launches.del n }
  match s1.slotOf l.queue with
  | some i => ((s1.cutDeal i).onSlot i fun h => { h with rptr := l.rpos }).haltIn i 4 l.bufs
  | none =>
    let d := s1.queueDesc l.queue
    ((s1.putDesc l.queue (setFld (setFld (setFld d 160 32 l.rpos.toNat) 116 4 4) 114 2 3)).onDev fun d => { d with
      nesting := d.nesting.put l.queue l.bufs }).queueError l.queue 4 l.rpos

/-- A launch is complete: its handles are released, its signal gains CADD, and its event is raised (R371). -/
def State.finishLaunch (s : State) (n : Nat) (l : Launch) : State :=
  let s1 := (s.releaseHandles l.part l.handles).onDev fun d => { d with launches := d.launches.del n }
  let s2 := if l.csig = 0 then s1 else match s1.deviceSignal l.part l.as l.csig false l.cadd fullSummary with
    | (s2, 0) => s2
    | (s2, e) => s2.queueError l.queue e l.rpos
  if l.ven then s2.plan (.msixEvent l.vec) else s2

/-- LAUNCH_COMPLETE: once every strand of the launch has ended, or its copy has. -/
def execLaunchComplete (number : Nat) (s : State) : Res :=
  .next (match s.dev.launches.find number with
    | none => s
    | some l => match l.copy with
      | none => if l.dealt ∧ l.live = 0 then (s.finishLaunch number l).kick else s
      | some (c, slot) => match (s.core c).copies.find slot with
        | some k =>
          if k.launch ≠ number then (s.finishLaunch number l).kick
          else if k.stopped then (s.failCopy number l c slot).kick else s
        | none => (s.finishLaunch number l).kick)

/-! ### Doorbells and slots (R366, R375) -/

/-- What a doorbell does to pointers: overrun, or the new WPTR. -/
def doorbellTo (log : Nat) (rptr wptr d : BitVec 32) : Option (BitVec 32) :=
  if 2 ^ log < (d - rptr).toNat then none
  else if (d - rptr).toNat < (wptr - rptr).toNat then some wptr
  else some d

/-- DOORBELL (R366): none comes while the host link has not trained (R405). A queue that no slot holds takes the pointer
in its descriptor, and firmware is told. -/
def State.doorbell (s : State) (q : Nat) (v : BitVec 32) : State :=
  match s.slotOf q with
  | some i => match s.dev.hslots.find i with
    | none => s
    | some h => match doorbellTo (qdLog h.desc) h.rptr h.wptr v with
      | none => s.haltSlot i 8
      | some w => (s.onSlot i fun h => { h with wptr := w }).kick
  | none =>
    let d := s.queueDesc q
    if !qdV d then s
    else match doorbellTo (qdLog d) (qdRptr d) (qdWptr d) v with
      | none => (s.putDesc q (setFld (setFld d 116 4 8) 114 2 3)).queueError q 8 (qdRptr d)
      | some w => (s.putDesc q (setFld (setFld d 128 32 w.toNat) 114 2
          (if fld d 114 2 = 3 then 3 else if w = qdRptr d then 0 else 1))).onDev fun d => { d with
            bells := d.bells.filter (· != q) ++ [q] }
def execDoorbell (queue : Nat) (v : BitVec 32) (s : State) : Res := .next (if !s.powered then s else s.doorbell queue v)

/-- The PRI and QUEUE of a slot register as written (R16, R375). -/
def Dev.keepSlot (d : Dev) (i : Nat) (v : Word) : Dev := { d with slotRw := d.slotRw.put i (v &&& 0x38000FFF) }

/-- A slot is given up at once: a WAIT that an update has satisfied is dispatched (R372), any other packet in progress is
withdrawn or cut off, and its queue's RO fields are written back. -/
def State.dropSlot (s : State) (i : Nat) : State :=
  let s := if (s.dev.hslots.find i).any (·.woken) then s.dispatched i 1 else s
  match s.dev.hslots.find i with
  | none => s
  | some h =>
    let s1 := (s.cutDeal i).unwait (qdPart h.desc) h.homeMode (waiterSlot i)
    let d : BitVec 512 := .ofNat 512 (s1.loadN (s1.descKey h.queue) 64)
    (s1.putDesc h.queue (h.writeBack d)).onDev fun d => { d with
      hslots := d.hslots.del i, waitSumm := d.waitSumm.put h.queue h.summ }

/-- A slot's packet in progress is to be dispatched before the slot is given up: a LAUNCH that is being dealt, and the packets
of a buffer (R375). -/
def HSlot.busy (h : HSlot) : Bool :=
  h.next.isSome || (h.bufs != [] && !h.halted && h.wcond.isNone && h.number == 0)

/-- A queue enters a slot: its pointers and state are loaded from its descriptor (R375). -/
def State.loadSlot (s : State) (i : Nat) (v : Word) : State :=
  let q := fld v 0 12
  let d := s.queueDesc q
  let h : HSlot := {
    pri := fld v 27 3, queue := q, desc := d, rptr := qdRptr d, wptr := qdWptr d, halted := fld d 114 2 == 3, err := fld d 116 4
    bufs := [], summ := s.dev.waitSumm.get 0 q, number := 0, words := [], next := none, wcond := none, woken := false
    closing := false }
  (s.onDev fun d => { (d.keepSlot i v) with hslots := d.hslots.put i h, bells := d.bells.filter (· != q) }).kick

/-- SLOT_MAP: a write of V = 1 loads a queue that is defined and in no other slot. A slot that holds that queue keeps the
pointers it has loaded and takes PRI; one that holds another queue gives it up first, as a write of V = 0 does (log entry
141). No slot is mapped while firmware is down (R375, R379). -/
def State.mapSlot (s : State) (i : Nat) (v : Word) : State :=
  let q := fld v 0 12
  let away := !qdDefined (s.queueDesc q) || (s.slotOf q).isSome
  match s.dev.hslots.find i with
  | none => if !s.dev.fwUp || away then s else s.loadSlot i v
  | some h =>
    if h.queue = q then ((s.onSlot i fun h => { h with pri := fld v 27 3 }).onDev (·.keepSlot i v)).kick
    else if away then s
    else if !s.dev.fwUp then if h.closing then s.plan (.slotMap i v) else s
    else if h.busy then (s.onSlot i fun h => { h with closing := true }).plan (.slotMap i v)
    else (s.dropSlot i).loadSlot i v
def execSlotMap (slot : Nat) (v : Word) (s : State) : Res := .next (if slot < 64 then s.mapSlot slot v else s)

/-- SLOT_UNMAP: completes once the packet in progress is dispatched or withdrawn: a LAUNCH that is being dealt and the
packets of a buffer are dispatched, a wait for a signal or for handles is withdrawn (R372, R375). -/
def State.unmapSlot (s : State) (i : Nat) : State :=
  match s.dev.hslots.find i with
  | none => s
  | some h =>
    if !s.dev.fwUp then s
    else if h.busy then (s.onSlot i fun h => { h with closing := true }).plan (.slotUnmap i)
    else s.dropSlot i
def execSlotUnmap (slot : Nat) (s : State) : Res := .next (s.unmapSlot slot)

/-- SLOT_RESTART: a halted queue goes on at RPTR (R375). -/
def execSlotRestart (slot : Nat) (s : State) : Res :=
  .next ((s.onSlot slot fun h => { h with halted := false }).kick)

/-! ### Firmware (R378, R379) -/

/-- The crash record of a failure (R378). -/
def crashRecord (seq ver : Nat) (mcause mepc mtval : Word) (mesh : Nat) (xs : List (BitVec 32)) (wdog : Bool) : List Byte :=
  padTo 4096 (toBytes 4 seq ++ toBytes 4 ver ++ wordBytes [mcause, mepc, mtval, .ofNat 64 mesh] ++
    padTo 124 (xs.flatMap fun x => toBytes 4 x.toNat) ++ toBytes 4 0 ++ [.ofNat 8 (b2n wdog)])

/-- A firmware failure: with CRASHEN, record `k` is written; the firmware core and its memory are cleared, and it reboots
(R378, R404). -/
def State.firmwareFails (s : State) (mcause mepc mtval : Word) (xs : List (BitVec 32)) (wdog : Bool) : State :=
  let k := s.dev.crashSeq + 1
  let s1 := if !bit s.dev.cpcfg 0 then s
    else
      let bs := crashRecord k (Config.freeWord s.free).toNat mcause mepc mtval s.mesh xs wdog
      let put := (List.range 4096).foldl (fun m i => NMap.putD 0 m (4096 * (k % 16) + i) (nth 0#8 bs i)) s.dev.crash
      { s with free := s.free + 1 }.onDev fun d => { d with crashSeq := k, crash := put }
  ((s1.onDev fun d => { d with cpcfg := setFld d.cpcfg 8 1 0, fw := .blank d.fw.size }).plan .firmwareReturn).kick
def execFirmwareException (mcause mepc mtval : Word) (xregs : List (BitVec 32)) (s : State) : Res :=
  .next (s.firmwareFails mcause mepc mtval xregs false)
def execWatchdogExpiry (mcause mepc mtval : Word) (xregs : List (BitVec 32)) (s : State) : Res :=
  .next (s.firmwareFails mcause mepc mtval xregs true)

/-- FIRMWARE_RETURN (R379): firmware runs again from its start, loaded again from the image it booted from, and takes up
what has waited for it: the double faults of halted partitions (R343) and the slots that are being unmapped. -/
def State.firmwareBack (s : State) : State :=
  let s1 := s.onDev fun d => { d with
    cpcfg := setFld d.cpcfg 8 1 1, fw := ((firmwareImage s.board s.mgmt.minSvn).map fun i => d.fw.load (imageCode i)).getD d.fw }
  let s2 := ((List.range 4).filter fun p => decide ((s1.part p).st = 3)).foldl (init := s1) State.reportFaults
  ((s2.dev.hslots.filter fun e => e.2.closing).foldl (init := s2) fun a e => a.plan (.slotUnmap e.1)).kick
def execFirmwareReturn (s : State) : Res := .next s.firmwareBack

/-! ### The end of a partition (R383) -/

/-- The slots whose queues belong to a partition. -/
def State.slotsOf (s : State) (p : Nat) : List Nat := (s.dev.hslots.filter fun e => qdPart e.2.desc == p).map Prod.fst

/-- PARTITION_END: firmware, once it runs, halts the partition, reaps it and unbinds its surfaces, and unmaps its queues; it
ends once every surface is unbound. It counts as ending from the write on, and one that is being swapped ends after the swap
(R362, R377, R383). -/
def State.stopPart (s : State) (p : Nat) : State :=
  let q := s.part p
  let again := fun (s : State) => s.plan (.partitionEnd p)
  if q.st = 0 then s.onPart p fun q => { q with v := false }
  else
    let s1 := s.onPart p fun q => { q with v := false, ending := true }
    if !s.dev.fwUp || q.swapping || ((s.twinOf p).elim false fun t => (s.part t).swapping) then again s1
    else
      let s2 := ((((s1.haltPart p).reportFaults p).reapPart p).unbindAll p).holdEvents p
      let s3 := (s2.slotsOf p).foldl (init := s2) State.dropSlot
      if (s3.part p).surfs.isEmpty then s3.endPart p else again s3
def execPartitionEnd (part : Nat) (s : State) : Res := .next (s.stopPart part)

/-! ### Removing stage-2 translations (R384) -/

/-- S2INV: translations of a partition that a test of the partition-physical range admits are removed from every TLB, and
the accesses that used them are performed. -/
def State.s2inv (s : State) (p : Nat) (m : Tlb → Bool) : State := (s.dropTlb p m).settleGlobal p
def execS2invPage (part page : Nat) (s : State) : Res :=
  .next (s.s2inv part fun t => decide (t.pa < 4096 * page + 4096) && decide (4096 * page < t.pa + t.size))
def execS2invAll (part : Nat) (s : State) : Res := .next (s.s2inv part fun _ => true)

end Sys2Proof.Machine
end

