-- ==== Sys2Proof/Machine/Link.lean ====
section
/-! DEFINITION. The Miljor Link: flits, replay, routes and fabric faults (R388-R391). -/

namespace Sys2Proof.Machine

/-! ### Ports (R389) -/

/-- A number is at or before another, of the flits that may be outstanding. -/
def seqLe (a b : Nat) : Bool := decide ((b + 4096 - a) % 4096 < 2048)

/-- An acknowledgement of everything received so far. -/
def Port.ack (p : Port) : Port := { p.send (mkFlit 3 ((p.rxSeq + 4095) % 4096)) with sinceAck := 0 }

/-- A negative acknowledgement of the flit that is due. -/
def Port.nak (p : Port) : Port := { p.send (mkFlit 4 p.rxSeq) with discard := true }

/-- A free value for the DATA of an event whose content the spec does not give (log entry 3). -/
def State.freeData (s : State) : State × BitVec 128 :=
  ({ s with free := s.free + 2 }, Config.freeWord s.free ++ Config.freeWord (s.free + 1))

/-- An event with such a DATA. -/
def State.eventOf (s : State) (src kind : Nat) : State := let (s1, d) := s.freeData; s1.event src kind d

/-- A port's state changes (R392). -/
def State.setPort (s : State) (k st : Nat) : State := (s.onPort k fun p => { p with st := st }).eventOf (srcPort k) 4

/-- A port starts to retrain; whether that succeeds, the line decides (log entry 2). -/
def State.retrain (s : State) (k : Nat) : State :=
  ({ s with free := s.free + 1 }.setPort k 1).plan (.linkRetrain k (Config.pick s.free % 2 == 0))

/-- The sender resends from a flit; a flit that it has replayed 8 times, and that has not come through, starts retraining
(R389). -/
def State.replay (s : State) (k n : Nat) : State :=
  let again := (s.port k).buf.filter fun e => seqLe n e.1
  if again.any fun e => decide (8 ≤ e.2.2) then s.retrain k
  else s.onPort k fun p => { p with
    out := p.out ++ again.map (·.2.1), retry := min 0xFFFF (p.retry + again.length)
    buf := p.buf.map fun e => if seqLe n e.1 then (e.1, e.2.1, e.2.2 + 1) else e }

/-- An acknowledgement releases the replay buffer up to the flit it names (R389). -/
def Port.acked (p : Port) (n : Nat) : Port := { p with buf := p.buf.filter fun e => !seqLe e.1 n }

/-- A good flit is taken: transactions go up, acknowledgements release the replay buffer. -/
def State.takeFlit (s : State) (k : Nat) (f : BitVec 256) : State :=
  let s1 := s.onPort k fun p => { p with
    rxSeq := (p.rxSeq + 1) % 4096, discard := false, sinceAck := p.sinceAck + 1
    rx := if flitKind f = 1 ∨ flitKind f = 2 then p.rx ++ [f] else p.rx }
  let s2 := match flitKind f with
    | 3 => s1.onPort k (·.acked (flitSeq f))
    | 4 => s1.replay k (flitSeq f)
    | _ => s1
  if 64 ≤ (s2.port k).sinceAck then s2.onPort k (·.ack)
  else if (s2.port k).sinceAck = 1 then s2.planAt (s.mesh + micros 1) (.ackTimer k) else s2

/-- FLIT_RECEIVE: a flit with a bad CRC is discarded with a negative acknowledgement of the flit that is due, and so is every
flit after it until its partner resends that flit (R389). -/
def State.receive (s : State) (k : Nat) (f : BitVec 256) (resent : Bool) : State :=
  let p := s.port k
  if p.st ≠ 2 then s
  else if !crcGood f then s.onPort k fun p => { p with crcerr := min 0xFFFF (p.crcerr + 1) }.nak
  else if p.discard ∧ !resent then s
  else s.takeFlit k f
def execFlitReceive (port : Nat) (flit : BitVec 256 × Bool) (s : State) : Res := .next (s.receive port flit.1 flit.2)

/-- ACK_TIMER. -/
def execAckTimer (port : Nat) (s : State) : Res :=
  .next (if (s.port port).st = 2 ∧ (s.port port).sinceAck ≠ 0 then s.onPort port (·.ack) else s)

/-! ### Routes and fabric faults (R390) -/

/-- ROUTE_WRITE: what was sent to the device is performed before a port is removed, so that the order of R119 holds. -/
def State.writeRoute (s : State) (d : Nat) (v : Word) : State :=
  let ports : Word := v &&& 0xFF
  let gone := s.routeOf d &&& ~~~ports
  let s1 := if gone = 0 then s else s.drainIf fun e => keyDev s.ownDev e.key == d
  s1.onDev fun x => { x with route := x.route.put d ports }
def execRouteWrite (dev : Nat) (v : Word) (s : State) : Res := .next (s.writeRoute dev v)

/-- A fabric fault: every partition with a grant to the device halts, and its error signal says so. -/
def State.fabricFault (s : State) (d : Nat) : State :=
  ((List.range 4).filter fun p => decide ((s.part p).st ≠ 0) && bit ((s.part p).fgrant.get 0 d) 31).foldl (init := s) fun a p =>
    (a.haltHold p).report p (.ofNat 64 (0xFFE * 2 ^ 48 + d))

/-- Firmware removes a port that is down from every route; a device with no port left is a fabric fault. -/
def State.removePort (s : State) (k : Nat) : State :=
  (List.range 16).foldl (init := s) fun a d =>
    let r := a.routeOf d
    if !bit r k then a
    else
      let a1 := a.writeRoute d (r &&& ~~~(1#64 <<< k))
      if a1.routeOf d = 0 then a1.fabricFault d else a1

/-- LINK_RETRAIN: the port comes up with its numbers from 0 and sends what was not acknowledged again, or goes down;
then firmware removes it, once it runs. -/
def State.endTraining (s : State) (k : Nat) (ok : Bool) : State :=
  if ok then
    let p := s.port k
    let fs := p.buf.map (·.2.1)
    (s.onPort k fun p => { p with
      txSeq := fs.length % 4096, rxSeq := 0, buf := (List.range fs.length).zip (fs.map fun f => (f, 0)), out := p.out ++ fs
      sinceAck := 0, discard := false }).setPort k 2
  else
    let s1 := if (s.port k).st = 0 then s else s.setPort k 0
    if s.dev.fwUp then s1.removePort k else s1.plan (.linkRetrain k false)
def execLinkRetrain (port : Nat) (ok : Bool) (s : State) : Res := .next (s.endTraining port ok)

end Sys2Proof.Machine
end

