-- ==== Sys2Proof/Machine/Power.lean ====
section
/-! DEFINITION. Gating for power (R21, R397, R398), pacing (R399), temperature, the emergency save and the trip
(R400-R402), and soft errors (R392). -/

namespace Sys2Proof.Machine

/-! ### Gating (R398) -/

/-- The contexts of a core that are gated: GATE. -/
def Core.gatedCount (k : Core) : Nat := ((List.range 16).filter fun x => (k.ctx x).gated).length

/-- The contexts that the three controllers want gated on a core: the largest request, at most 14. -/
def State.gateWanted (s : State) (c : Nat) : Nat :=
  let p := s.dev.pacectl
  let paced := if bit p 31 && s.inPart (fld p 28 2) c then s.dev.rem else 0
  min 14 (max (s.slice (sliceOf c)).limit (max s.dev.thermGate paced))

/-- A core's contexts are gated or restored until as many as wanted are gated. -/
def State.regate (s : State) (c : Nat) : State :=
  let n := (s.core c).gatedCount
  let m := s.gateWanted c
  if n ≤ m then (List.range (m - n)).foldl (init := s) fun a _ => a.gate c
  else (List.range (n - m)).foldl (init := s) fun a _ => a.ungate c

def State.regateAll (s : State) : State := (List.range 192).foldl (init := s) fun a c => a.regate c

/-- CLOCK_STRETCH (R397): it counts; what it does to the clock no step shows. -/
def execClockStretch (slice : Nat) (s : State) : Res :=
  .next (s.onSlice slice fun v => { v with stretch := min 0xFFFF (v.stretch + 1) })

/-- CURRENT_LIMITER_STEP: one more gated context per core while the slice draws too much, one fewer after it has drawn
little for long enough. -/
def State.limiterStep (s : State) (i : Nat) (above below : Bool) : State :=
  let s1 := s.onSlice i fun v => { v with limit := if above then min 14 (v.limit + 1) else if below then v.limit - 1 else v.limit }
  ((List.range 192).filter fun c => sliceOf c == i).foldl (init := s1) fun a c => a.regate c
def execCurrentLimiterStep (slice : Nat) (above below : Bool) (s : State) : Res := .next (s.limiterStep slice above below)

/-! ### Pacing (R399) -/

/-- The sum of leads as a fraction, each a lead over its period. -/
def leadSum (ls : List (Int × Nat)) : Int × Nat := ls.foldl (fun a l => (a.1 * l.2 + l.1 * a.2, a.2 * l.2)) (0, 1)

/-- The end of a window of 16 leads. -/
def State.endWindow (s : State) : State :=
  let (n, d) := leadSum s.dev.leads
  let fast := decide (16 * (d : Int) < 20 * n)
  let slow := decide (20 * n < -(16 * (d : Int)))
  let s1 := s.onDev fun x => { x with leads := [] }
  let change := fun (s : State) (r : Nat) => ((s.onDev fun x => { x with rem := r, late := 0 }).eventOf srcFirmware 6).regateAll
  if fast ∧ s.dev.rem < 8 then change s1 (s.dev.rem + 1)
  else if slow ∧ 0 < s.dev.rem then
    if s.dev.late + 1 = 2 then change s1 (s.dev.rem - 1) else s1.onDev fun x => { x with late := x.late + 1 }
  else s1.onDev fun x => { x with late := 0 }

/-- COLLECTIVE_COMPLETE: the first collective after EN is not measured; a window has 16 that are. -/
def State.collective (s : State) (lead : Int) (period : Nat) : State :=
  if !bit s.dev.pacectl 31 then s
  else if s.dev.paceSkip then s.onDev fun x => { x with paceSkip := false }
  else
    let s1 := s.onDev fun x => { x with leads := x.leads ++ [(lead, period)] }
    if 16 ≤ s1.dev.leads.length then s1.endWindow else s1
def execCollectiveComplete (lead : Int) (period : Nat) (s : State) : Res := .next (s.collective lead period)

/-! ### Temperature (R400) -/

/-- STATE changes, with its event (R392). -/
def State.setThermal (s : State) (st : BitVec 2) : State :=
  if s.dev.thermState = st then s else (s.onDev fun d => { d with thermState := st }).eventOf srcThermal 5

/-- TEMP has reached CRIT: an emergency save is due (R401). -/
def State.critical (s : State) : State := (s.setThermal 2).plan .emergencySave

/-- A temperature is read: at CRIT STATE becomes 2, at HOT 1. -/
def State.readTemp (s : State) (t : BitVec 8) : State :=
  let s1 := s.onDev fun d => { d with temp := t }
  if s.dev.thermState = 2 then s1
  else if s.dev.crit.toNat ≤ t.toNat then s1.critical
  else if s.dev.hot.toNat ≤ t.toNat then s1.setThermal 1 else s1

/-- TEMP_REACHES_HOT. -/
def execTempReachesHot (temp : BitVec 8) (s : State) : Res := .next (s.readTemp temp)

/-- THERMAL_STEP: 100 µs at or above HOT gate one more context per core, up to 12; 100 µs below HOT - 5 release one. -/
def State.thermalStep (s : State) (t : BitVec 8) : State :=
  let s1 := s.readTemp t
  let g := s1.dev.thermGate
  let h := s1.dev.hot.toNat
  let n := if h ≤ t.toNat then min 12 (g + 1) else if t.toNat + 5 < h then g - 1 else g
  let s2 := (s1.onDev fun d => { d with thermGate := n }).regateAll
  if n = 0 ∧ s2.dev.thermState = 1 ∧ t.toNat < h then s2.setThermal 0 else s2
def execThermalStep (temp : BitVec 8) (s : State) : Res := .next (s.thermalStep temp)

/-! ### Emergency save and trip (R401, R402) -/

/-- The size of a core's part of a save area: its scratchpad, its image and its engine's contents. -/
def Core.saveSize (k : Core) : Nat := k.scratchSize + 65024 + 196608

/-- The size of a partition's save area, with the 64-byte seal record. -/
def State.saveSize (s : State) (p : Nat) : Nat := ((s.coresOf p).map fun c => (s.core c).saveSize).foldl (· + ·) 64

/-- Free bytes: what the spec gives no layout of (log entry 3). -/
def freeBytes (free n : Nat) : List Byte := (List.range n).map fun i => (Config.freeWord (free + i)).setWidth 8

/-- The state of a context in a heartwood image: what R353's image holds beside the main registers. -/
def State.heartCtx (s : State) (c x : Nat) : List Byte :=
  let b := s.image c x (s.ctx c x).st false
  (b.drop 0x200).take 0xA0 ++ (b.drop 0x300).take 0x80 ++ (b.drop 0x400).take 0x400

/-- The 65,024 bytes of a core's heartwood image, in the order of R360: how the interlock table and the primitive queue are
encoded the spec does not say (log entry 86). -/
def State.heartBytes (s : State) (c free : Nat) : List Byte :=
  let k := s.core c
  wordBytes ((List.range 512).map (k.regs.get 0)) ++ (List.range 16).flatMap (s.heartCtx c) ++
    wordBytes ((List.range 16).flatMap fun i => (List.range 16).map fun j => nth 0 (k.fifos.get [] i) j) ++ freeBytes free 37888

/-- A core's part of a save area: its scratchpad, its heartwood image and its engine's contents, from the core, or from
the heartwood and the spill area where the partition has left them there (R401; log entry 86). An engine that the
partition has not claimed holds nothing of it. -/
def State.saveCore (s : State) (p c free : Nat) : List Byte :=
  let q := s.part p
  let n := (s.core c).scratchSize
  let area := s.spillBase p c
  (if q.st = 2 ∧ q.spill then s.bytes (area + 0x78000) n else (List.range n).map ((s.core c).scratch.get 0)) ++
    (s.setCore c (s.core (s.home p c))).heartBytes c free ++
    (if (s.mx c).lastPart = some p then (s.mx c).spillBytes
     else if (s.mxSpill.find (256 * p + c)).isSome then s.bytes area 196608
     else Matrix.reset.spillBytes)

/-- A partition is saved and sealed: its dirty sectors go home, its save area is written, its cores in ascending number,
the seal record comes last, and the management controller records the seal. -/
def State.saveSeal (s : State) (p : Nat) : State :=
  let cs := s.coresOf p
  let s1 := cs.foldl (init := s) fun a c => a.writebackAll c (byStrand c 0)
  let base := (s1.part p).savebase.toNat
  let n := s1.saveSize p
  let bs := (cs.zip (List.range cs.length)).flatMap (fun e => s1.saveCore p e.1 (s1.free + 64 + 37888 * e.2)) ++ freeBytes s1.free 64
  let s2 := { s1 with free := s1.free + 64 + 37888 * cs.length }.setBytes base bs
  (s2.onDev fun d => { d with sealedM := d.sealedM ||| .ofNat 4 (2 ^ p), saved := d.saved.put p (base, n) }).onMgmt
    fun m => { m with sealedRec := m.sealedRec ||| .ofNat 4 (2 ^ p) }

/-- What does not lie on this device, and no reset of it reaches: the host's memory, and other devices' memory and
scratchpads. -/
def outside (m : NMap Byte) : NMap Byte := m.filter fun e => decide (2 ^ 46 ≤ e.1)

/-- What the management controller does, on the always-on rail. -/
def evMgmt : Instr → Bool
  | .profileStoreCommitted => true
  | .attestationRequest _ => true
  | _ => false

/-- The rails of the dies are switched off: what the dies hold is lost; device memory, the retention region, the seals and
the management controller stay (R402). -/
def State.railsOff (s : State) : State :=
  let d := s.dev
  { s with
    powered := false, cores := [], slices := [], parts := [], posted := [], landed := [], waits := []
    conts := [], mxSpill := [], agenda := s.agenda.filter (evMgmt ·.ev)
    dev := { Dev.reset with
      number := d.number, domain := d.domain, assigned := d.assigned, order := d.order, profile := d.profile
      heads := d.heads, cxlCache := d.cxlCache
      cxlMem := d.cxlMem, measurement := d.measurement, svn := d.svn, temp := d.temp, sealedM := d.sealedM, saved := d.saved
      crash := d.crash, crashSeq := d.crashSeq, msgs := d.msgs, cpcfg := 3 } }

/-- Every partition that has not been halted halts, in ascending number. -/
def State.haltAll (s : State) : State :=
  ((List.range 4).filter fun p => decide ((s.part p).st = 1)).foldl (init := s) State.haltHold

/-- The first step of an emergency save: every partition halts and the heads are blanked; KIND 8 says so (R392, R401). -/
def State.emergencyBegin (s : State) : State :=
  (s.haltAll.onDev fun d => { d with saving := some 0, hd := d.hd.map fun e => (e.1, { e.2 with hmode := setFld e.2.hmode 63 1 0 }) }).eventOf
    srcFirmware 8

/-- EMERGENCY_SAVE: it begins; then a partition a step, in ascending number, is saved and sealed; and last the device powers
down. A trip may come between two steps (R401, R402). Firmware saves, once it runs. -/
def State.emergency (s : State) : State :=
  if s.dev.thermState ≠ 2 ∨ !s.powered then s
  else if !s.dev.fwUp then s.plan .emergencySave
  else match s.dev.saving with
    | none => s.emergencyBegin.plan .emergencySave
    | some p =>
      if 4 ≤ p then s.railsOff
      else
        let s1 := if (s.part p).st = 0 then s else s.saveSeal p
        (s1.onDev fun d => { d with saving := some (p + 1) }).plan .emergencySave
def execEmergencySave (s : State) : Res := .next s.emergency

/-- THERMAL_TRIP: the comparator switches the rails off; the management controller records the trip and SEALED. -/
def execThermalTrip (s : State) : Res :=
  .next (s.railsOff.onMgmt fun m => { m with tripped := true, sealedRec := s.dev.sealedM })

/-! ### Soft errors (R392) -/

/-- SOFT_ERROR: the source makes an event of KIND 2 or 3. Whether a core's error lies in its matrix array, where the next
row meets it, the spec does not say (R250; log entry 18). -/
def State.softError (s : State) (src : Nat) (corrected : Bool) (data : BitVec 128) : State :=
  let s1 := s.event src (if corrected then 2 else 3) data
  if src < 192 ∧ Config.pick s1.free % 2 = 0 then
    { s1 with free := s1.free + 1 }.onMx src fun m => { m with err := if corrected then 1 else 2 }
  else { s1 with free := s1.free + 1 }
def execSoftError (source : Nat) (corrected : Bool) (data : BitVec 128) (s : State) : Res :=
  .next (s.softError source corrected data)

end Sys2Proof.Machine
end

