-- ==== Sys2Proof/Machine/Boot.lean ====
section
/-! DEFINITION. Reset, boot and attestation (R404-R409), power loss, and host accesses to memory (R122). -/

namespace Sys2Proof.Machine

/-! ### Profiles (R1, R406) -/

/-- A profile is allowed for an ordering code: 0 P, 1 C, 2 M; studio 0, desk 1, quiet 2. -/
def profileOk (order p : BitVec 2) : Bool :=
  match order.toNat with
  | 1 => p == 1 || p == 2
  | 2 => p == 0
  | _ => p != 3

/-- PROFNEXT_WRITE: a profile that the ordering code allows is being stored; until it is committed NEXT reads the stored
one (R406). -/
def State.writeProfile (s : State) (v : Word) : State :=
  let p : BitVec 2 := v.setWidth 2
  if !profileOk s.dev.order p then s
  else (s.onMgmt fun m => { m with pendProf := some p }).plan .profileStoreCommitted
def execProfnextWrite (v : Word) (s : State) : Res := .next (s.writeProfile v)

/-- PROFILE_STORE_COMMITTED (R406). -/
def execProfileStoreCommitted (s : State) : Res :=
  .next (match s.mgmt.pendProf with
    | none => s
    | some p => s.onMgmt fun m => { m with profile := some p, pendProf := none })

/-! ### Boot (R405) -/

/-- A boot stops at a step with a cause, and the management controller reports it (log entry 16). -/
def State.bootStops (s : State) (step cause : Nat) : State :=
  { s with powered := false }.onMgmt fun m => { m with bootStop := some (step, cause) }

/-- The ports as training leaves them. -/
def bootPorts (b : Board) : NMap Port :=
  (List.range b.ports.length).zip (b.ports.map fun p => { Port.reset with st := p.1.toNat, pdev := p.2.1, pport := p.2.2 })

/-- The heads' sinks as the board has them. -/
def bootHeads (b : Board) : NMap Head := (List.range 4).map fun h => (h, { Head.reset with sink := b.sinks.getLsbD h })

/-- The heads brought out: four of a card, none of a module, those that the board has of a package (R1). -/
def wiredHeads (b : Board) : BitVec 4 :=
  match b.order.toNat with
  | 1 => 15
  | 2 => 0
  | _ => b.heads

/-- The store of a part of an ordering code as it leaves manufacture: the profile at shipment (R1, R406). -/
def Mgmt.shipped (order : BitVec 2) : Mgmt :=
  { Mgmt.reset with profile := match order.toNat with | 1 => some 1 | 2 => some 0 | _ => none }

/-- The steps of a boot after a reset has cleared the device: the compute rails, the profile, the firmware image and its code,
training with FWUP, and the host link, which trains last (R405). -/
def State.boot (s : State) (b : Board) : State :=
  let m := s.mgmt
  let prof := m.profile.getD b.profsel
  let s0 := s.onDev fun d => { d with profile := prof }
  if !b.railsOk then s.bootStops 1 0
  else if !profileOk b.order prof then s0.bootStops 2 0
  else match firmwareImage b m.minSvn with
    | none => s0.bootStops 3 0
    | some i =>
      let s1 := (s0.onMgmt fun m => { m with minSvn := max m.minSvn (imageSvn i), bootStop := none }).onDev fun d => { d with
        measurement := Config.imageDigest i, svn := imageSvn i, fw := d.fw.load (imageCode i) }
      if !b.trainOk then s1.bootStops 5 0
      else
        let s2 := s1.onDev fun d => { d with ports := bootPorts b, cpcfg := 0x103 }
        if !b.pcieOk then s2.bootStops 6 0 else { s2 with powered := true }

/-! ### Resets (R404) -/

/-- The state of a device that a reset has cleared, but for what each kind keeps; device memory reads as zero, and the
registers show the part and the board. A board of another ordering code carries another part, as it leaves manufacture
(R1). -/
def State.cleared (s : State) (b : Board) : State :=
  { State.reset with
    powered := false, free := s.free, mem := outside s.mem, board := b
    mgmt := if b.order = s.board.order then s.mgmt else Mgmt.shipped b.order
    dev := { Dev.reset with
      number := if b.domain then b.dev else 0, domain := b.domain, assigned := b.assigned, order := b.order
      heads := wiredHeads b, cxlCache := b.cxlCache, cxlMem := b.cxlMem, hd := bootHeads b, cpcfg := 3 } }

/-- POWER_ON_RESET: everything is cleared but the non-volatile store; then the boot. -/
def State.powerOn (s : State) (b : Board) : State :=
  ((s.cleared b).onMgmt fun m => { m with pendProf := none, pendSig := none, reqs := [], bootStop := none }).boot b
def execPowerOnReset (board : Board) (s : State) : Res := .next (s.powerOn board)

/-- The bytes that a device reset leaves: those in the save areas of sealed partitions, and those that lie elsewhere. -/
def keepSaved (saved : NMap (Nat × Nat)) (m : NMap Byte) : NMap Byte :=
  m.filter fun e => decide (2 ^ 46 ≤ e.1) || saved.any fun a => decide (a.2.1 ≤ e.1) && decide (e.1 < a.2.1 + a.2.2)

/-- DEVICE_RESET: the retention region, SEALED and the save areas of sealed partitions stay as well. -/
def State.resetDevice (s : State) (b : Board) : State :=
  let d := s.dev
  ({ s.cleared b with mem := keepSaved d.saved s.mem, agenda := s.agenda.filter (evMgmt ·.ev) }.onDev fun x => { x with
    sealedM := d.sealedM, saved := d.saved, crash := d.crash, crashSeq := d.crashSeq, msgs := d.msgs }).boot b
def execDeviceReset (board : Board) (s : State) : Res := .next (s.resetDevice board)

/-- POWER_LOSS: every volatile state is lost, with a profile or an attestation not yet committed; without the always-on
rail so is the retention region (R378, R402, R409). -/
def State.losePower (s : State) (rail : Bool) : State :=
  let s1 := { s.railsOff with mem := outside s.mem, agenda := [] }.onMgmt fun m => { m with pendProf := none, pendSig := none, reqs := [] }
  s1.onDev fun d => { d with
    sealedM := 0, saved := [], crash := if rail then [] else d.crash, crashSeq := if rail then 0 else d.crashSeq }
def execPowerLoss (rail : Bool) (s : State) : Res := .next (s.losePower rail)

/-! ### Attestation (R408, R409) -/

/-- The items of a response, as they are signed together (R408). -/
def Reply.items (r : Reply) : List Nat :=
  [r.measurement.toNat, r.svn, r.profile.toNat, r.order.toNat, r.nonce.toNat, r.index]

/-- The response to a request with the key's index `i`, signed; a signature has 2,820 bytes. -/
def State.answer (s : State) (i : Nat) (nonce : BitVec 256) : Reply :=
  let d := s.dev
  let r : Reply := {
    signature := [], index := i, measurement := d.measurement, nonce := nonce, svn := d.svn, profile := d.profile, order := d.order }
  { r with signature := padTo 2820 (Config.sign s.mgmt.key i r.items) }

/-- The controller has a turn while a request is left. -/
def State.attestNext (s : State) : State :=
  if s.mgmt.pendSig = none ∧ s.mgmt.reqs = [] then s else s.plan (.attestationRequest none)

/-- A turn of the controller (R409): the request in service is signed and answered; or else the first of those that have
arrived is taken up, with the counter's commit, or refused with a key that has no index left. -/
def State.attestTurn (s : State) : State :=
  match s.mgmt.pendSig with
  | some (i, n) => s.onMgmt fun m => { m with replies := m.replies ++ [some (s.answer i n)], pendSig := none }
  | none => match s.mgmt.reqs with
    | [] => s
    | n :: ns =>
      let i := s.mgmt.counter
      if 2 ^ 20 ≤ i then s.onMgmt fun m => { m with replies := m.replies ++ [none], reqs := ns }
      else s.onMgmt fun m => { m with counter := i + 1, pendSig := some (i, n), reqs := ns }

/-- ATTESTATION_REQUEST: a request arrives behind those that have arrived before it, or the controller has its turn;
requests are served one at a time in order of arrival, each in two steps, the counter's commit and the signature with its
answer. -/
def State.attest (s : State) : Option (BitVec 256) → State
  | some nonce =>
    let s1 := s.onMgmt fun m => { m with reqs := m.reqs ++ [nonce] }
    if s.mgmt.pendSig = none ∧ s.mgmt.reqs = [] then s1.attestNext else s1
  | none => s.attestTurn.attestNext
def execAttestationRequest (nonce : Option (BitVec 256)) (s : State) : Res := .next (s.attest nonce)

/-! ### Host accesses (R122) -/

/-- The partition in whose interleave a machine address is homed: the one that has its stack. -/
def State.stackPart (s : State) (mpa : Nat) : Nat :=
  ((List.range 4).find? fun p => decide ((s.part p).st ≠ 0) && (s.part p).qmask.getLsbD (mpa / 2 ^ 36 % 4)).getD 0

/-- HOST_ACCESS: performed at home, uncached; a read answers the bytes there. The host reaches device memory and its own
(R122, R125, R385). While its link has not trained, none comes (R405). -/
def State.hostAccess (s : State) (u : Nat) (write : Bool) (mpa : Nat) (bs : List Byte) : State :=
  let own := decide (2 ^ 46 ≤ mpa) && decide (mpa + bs.length ≤ 2 ^ 47)
  if decide (2 ^ 38 < mpa + bs.length) && !own then s
  else if write && own then s.setBytes mpa bs
  else if write then s.homeWrite (s.stackPart mpa) false mpa bs (byHost u)
  else s.onDev fun d => { d with hread := s.bytes mpa bs.length }
def execHostAccess (unit : Nat) (write : Bool) (mpa : Nat) (bytes : List Byte) (s : State) : Res :=
  .next (if !s.powered then s else s.hostAccess unit write mpa bytes)

end Sys2Proof.Machine
end

