-- ==== Sys2Proof/Machine/Memory.lean ====
section
/-! DEFINITION. Loads, stores, cache control and atomics: majors 0x10 to 0x13 (R185-R194), and address conversion
(R204). -/

namespace Sys2Proof.Machine

/-- A load of one element (R190), which may be performed again until its result lands (R107; log entry 102). -/
def loadElem (ty : Ty) (a : Word) (s : State) : Body :=
  let w := tyBytes ty
  Except.body (s.access s.cur s.actor a w w 0 0) fun s1 p =>
    let (s2, v) := s1.loadAt s.cur s.actor p w
    .done (s2.onMe fun k => { k with reading := some (p, ty) }) [tyExtend ty v] .fall

/-- A store of one element (R190). -/
def storeElem (ty : Ty) (a v : Word) (s : State) : Body :=
  let w := tyBytes ty
  Except.body (s.access s.cur s.actor a w w 1 1) fun s1 p =>
    .done (s1.storeAt s.cur s.actor p (toBytes w v.toNat)) [] .fall

/-- A sign-extended byte offset (R189). -/
def off {n : Nat} (i : BitVec n) : Word := i.signExtend 64

/-- A scaled index (R189). -/
def scaledIdx (ty : Ty) (b : Word) : Word := b * .ofNat 64 (tyBytes ty)

def execLd (h : Hdr) (ty : Ty) (d a : Opnd) (o : BitVec 20) (s : State) : Res :=
  .next (s.issue .any h 8 [a] [(d, none)] fun v s => loadElem ty (v0 v + off o) s)
def execLdx (h : Hdr) (ty : Ty) (d a b : Opnd) (o : BitVec 13) (s : State) : Res :=
  .next (s.issue .any h 8 [a, b] [(d, none)] fun v s => loadElem ty (v0 v + scaledIdx ty (v1 v) + off o) s)
def execLdp (h : Hdr) (ty : Ty) (d a : Opnd) (o : BitVec 20) (s : State) : Res :=
  .next (s.issue .any h 8 [a] [(d, none)] fun v s => loadElem ty (s.me.pc + v0 v + off o) s)
def execSt (h : Hdr) (ty : Ty) (a b : Opnd) (o : BitVec 20) (s : State) : Res :=
  .next (s.issue .any h 8 [a, b] [] fun v s => storeElem ty (v0 v + off o) (v1 v) s)
def execStx (h : Hdr) (ty : Ty) (a b c : Opnd) (o : BitVec 13) (s : State) : Res :=
  .next (s.issue .any h 8 [a, b, c] [] fun v s => storeElem ty (v0 v + scaledIdx ty (v1 v) + off o) (v2 v) s)
def execStp (h : Hdr) (ty : Ty) (a b : Opnd) (o : BitVec 20) (s : State) : Res :=
  .next (s.issue .any h 8 [a, b] [] fun v s => storeElem ty (s.me.pc + v0 v + off o) (v1 v) s)

/-- The sector numbers of the line that holds a location. -/
def lineSectors (key : Nat) : List Nat := lineSecs (key / 128)

/-- Fills the sectors of a line that are not present (R191). -/
def State.fillLine (s : State) (c : Nat) (p : Place) : State :=
  (lineSectors p.key).foldl (init := s) fun a sec =>
    if ((a.core c).l1.find sec).isSome then a else (a.l1Load c (16 * sec) 16 p.shared p.hm).1

/-- PREF: never faults, and has no effect on a full set (R191). -/
def execPref (h : Hdr) (a : Opnd) (o : BitVec 20) (s : State) : Res :=
  .next (s.issue .any h 8 [a] [] fun v s =>
    match s.place s.cur s.actor (v0 v + off o) 1 1 0 0 with
    | (_, .error _) => .done s [] .fall
    | (s1, .ok p) => .done (if p.cached && !(s1.core s.cur).l1Full (p.key / 128) then s1.fillLine s.cur p else s1) [] .fall)

/-- CWB and CINV: the line's dirty bytes go home, and CINV drops it (R191). -/
def pushLine (drop : Bool) (a : Word) (s : State) : Body :=
  Except.body (s.place s.cur s.actor a 1 1 0 0) fun s1 p =>
    if !p.cached then .done s1 [] .fall
    else
      let c := s.cur
      .done ((lineSectors p.key).foldl (init := s1) fun t sec =>
        let t1 := t.writeback c sec (byStrand c s.actor)
        if drop then t1.dropSector c sec else t1) [] .fall
def execCinv (h : Hdr) (a : Opnd) (o : BitVec 20) (s : State) : Res :=
  .next (s.issue .any h 8 [a] [] fun v s => pushLine true (v0 v + off o) s)
def execCwb (h : Hdr) (a : Opnd) (o : BitVec 20) (s : State) : Res :=
  .next (s.issue .any h 8 [a] [] fun v s => pushLine false (v0 v + off o) s)

/-- An atomic (R192-R194): with a destination it is performed and returns the old value; with DST = g0 it is posted,
returns nothing and raises no flag (log entry 11). -/
def atomic (ty : Ty) (op : Nat) (posted : Bool) (a b d : Word) (s : State) : Body :=
  let w := tyBytes ty
  if op = 7 ∧ !posted ∧ s.me.ffPending then .wait s
  else Except.body (s.access s.cur s.actor a w w 1 1) fun s1 p =>
    let c := s.cur
    let x := s.actor
    let s2 := (s1.mark c x p.region).clearSector c x p.key
    if posted then .done (s2.postTrans (.amo c x p.key p.hm ty op b d)) [0] .fall
    else
      let s3 := (s2.drain c p.hm p.key).transact p.key
      let m := s3.loadN p.key w
      let s4 := s3.performAmo c x p.key p.hm ty op b d
      .done (s4.raise c x (amoNew ty op b d m).2) [tyExtend ty m] .fall

/-- An atomic's destination: a posted one shifts the last-result file at once, by 0 (R194). -/
def amoDst (d : Opnd) : Dst := (d, if d = 0#7 then some 1 else none)

def execAmo (h : Hdr) (ty : Ty) (d a b : Opnd) (op : BitVec 3) (s : State) : Res :=
  .next (s.issue .any h 8 [a, b] [amoDst d] fun v s => atomic ty op.toNat (d == 0#7) (v0 v) (v1 v) 0 s)
def execCas (h : Hdr) (ty : Ty) (d a b c : Opnd) (s : State) : Res :=
  .next (s.issue .any h 8 [a, b, c] [amoDst d] fun v s => atomic ty 8 (d == 0#7) (v0 v) (v1 v) (v2 v) s)
def execAmof (h : Hdr) (ty : Ty) (d a b : Opnd) (s : State) : Res :=
  .next (s.issue .any h 8 [a, b] [amoDst d] fun v s => atomic ty 7 (d == 0#7) (v0 v) (v1 v) 0 s)

/-! ### Address conversion (R204) -/

/-- The checks of R87 on an address. -/
def State.tagOk (s : State) (a : Word) : Bool :=
  match fld a 60 4 with
  | 0 => decide (fld a 52 8 = 0)
  | 0xC => decide (fld a 21 39 = 0)
  | 0xD => decide (fld a 52 8 = 0) && decide (fld a 21 19 = 0) && decide (fld a 40 8 < 192) &&
      (decide (fld a 48 4 = s.ownDev) || s.otherDev (fld a 48 4))
  | 0xE => decide (fld a 32 28 = 0)
  | _ => false

/-- GADDR's result (R204); the sum of a private window wraps as an access does (log entry 101). -/
def State.gaddr (s : State) (c x : Nat) (a : Word) : Word :=
  match fld a 60 4 with
  | 0xC => .ofNat 64 (0xD * 2 ^ 60 + s.ownDev * 2 ^ 48 + c * 2 ^ 40 + fld a 0 21)
  | 0xE => let p := s.part (s.partOf c); .ofNat 64 ((p.pwbase.toNat + sidOf c x * p.winBytes + fld a 0 32) % 2 ^ 52)
  | _ => a

/-- SADDR's result (R204): an offset from the window's base, which does not wrap. -/
def State.saddr (s : State) (c x : Nat) (a : Word) : Word :=
  match fld a 60 4 with
  | 0 =>
    let p := s.part (s.partOf c)
    let base := p.pwbase.toNat + sidOf c x * p.winBytes
    if base ≤ a.toNat ∧ a.toNat < base + p.winBytes then .ofNat 64 (0xE * 2 ^ 60 + (a.toNat - base)) else a
  | 0xD => if fld a 48 4 = s.ownDev ∧ fld a 40 8 = c then .ofNat 64 (0xC * 2 ^ 60 + fld a 0 21) else a
  | _ => a

/-- The size checks of R88 on an address that has passed those of R87. -/
def State.sizeOk (s : State) (c : Nat) (a : Word) : Bool :=
  match fld a 60 4 with
  | 0xC => decide (fld a 0 21 < (s.core c).scratchSize)
  | 0xD => if fld a 48 4 = s.ownDev then decide (fld a 0 21 < (s.core (fld a 40 8)).scratchSize) else s.farOk (fld a 48 4) (fld a 40 8) (fld a 0 21) 1
  | 0xE => decide (fld a 0 32 < (s.part (s.partOf c)).winBytes)
  | _ => true

/-- GADDR also makes the size checks of R88; SADDR makes only those of R87. -/
def convAddr (size : Bool) (f : State → Nat → Nat → Word → Word) (a : Word) (s : State) : Body :=
  if s.tagOk a && (!size || s.sizeOk s.cur a) then .done s [f s s.cur s.actor a] .fall
  else .ofTrap s (transFault 0 0 0 1 a)
def execGaddr (h : Hdr) (d a : Opnd) (s : State) : Res :=
  .next (s.issue .any h 8 [a] [(d, some 1)] fun v s => convAddr true State.gaddr (v0 v) s)
def execSaddr (h : Hdr) (d a : Opnd) (s : State) : Res :=
  .next (s.issue .any h 8 [a] [(d, some 1)] fun v s => convAddr false State.saddr (v0 v) s)

end Sys2Proof.Machine
end

