-- ==== Sys2Proof/Machine/Control.lean ====
section
/-! DEFINITION. Branches, NOP and TRAP (R177-R184). -/

namespace Sys2Proof.Machine

/-- A target in 4-byte units from an address (R178). -/
def target {n : Nat} (pc : Word) (o : BitVec n) : Word := pc + o.signExtend 64 * 4

/-- NOP: its issue slot and its WAIT (R183). -/
def execNop (h : Hdr) (s : State) : Res := .next (s.issue .any h 8 [] [] fun _ s => .done s [] .fall)

/-- KIND of TRAP and BRK (R339). -/
def kTrap : Nat := 0x0A
def kBrk : Nat := 0x0B

/-- TRAP: its record carries the code and the argument (R184). -/
def execTrap (h : Hdr) (a : Opnd) (code : BitVec 20) (s : State) : Res :=
  .next (s.issue .any h 8 [a] [] fun v s => .trap s kTrap (code.setWidth 64) (v0 v))

/-- BRK: as TRAP, with a kind of its own (R345). -/
def execBrk (h : Hdr) (a : Opnd) (code : BitVec 20) (s : State) : Res :=
  .next (s.issue .any h 8 [a] [] fun v s => .trap s kBrk (code.setWidth 64) (v0 v))

def execBr (h : Hdr) (o : BitVec 20) (s : State) : Res :=
  .next (s.issue .any h 8 [] [] fun _ s => .done s [] (.jump (target s.me.pc o)))
def execJ (h : Hdr) (o : BitVec 52) (s : State) : Res :=
  .next (s.issue .any h 12 [] [] fun _ s => .done s [] (.jump (target s.me.pc o)))
def execJl (h : Hdr) (d : Opnd) (o : BitVec 20) (s : State) : Res :=
  .next (s.issue .any h 8 [] [(d, some 1)] fun _ s => .done s [s.me.pc + 8] (.jump (target s.me.pc o)))
def execJr (h : Hdr) (d a : Opnd) (o : BitVec 20) (s : State) : Res :=
  .next (s.issue .any h 8 [a] [(d, some 1)] fun v s => .done s [s.me.pc + 8] (.jump (target (v0 v) o)))
def execLoop (h : Hdr) (d a : Opnd) (o : BitVec 20) (s : State) : Res :=
  .next (s.issue .any h 8 [a] [(d, some 1)] fun v s =>
    let t := v0 v - 1
    .done s [t] (if t ≠ 0 then .jump (target s.me.pc o) else .fall))

/-- TSTS: the status word's low half is tested against a mask (R181). -/
def execTsts (h : Hdr) (d a b : Opnd) (o : BitVec 13) (s : State) : Res :=
  .next (s.issue .any h 8 [a, b] [(d, some 1)] fun v s =>
    Except.body (s.access s.cur s.actor (v0 v &&& ~~~15#64) 16 16 0 0) fun s1 p =>
      let (s2, w) := s1.loadAt s.cur s.actor p 16
      let t := decide ((BitVec.ofNat 64 w) &&& v1 v ≠ 0)
      .done s2 [.ofNat 64 (b2n t)] (if t then .jump (target s.me.pc o) else .fall))

end Sys2Proof.Machine
end

