-- ==== Sys2Proof/Machine/Deque.lean ====
section
/-! DEFINITION. Work-stealing deques: major 0x22 (R216-R218). -/

namespace Sys2Proof.Machine

/-- A deque's header, with the location of its first byte (R216). -/
structure Deque where
  key   : Nat
  top   : Nat
  bot   : Nat
  owner : Nat
  cap   : Nat
  deriving DecidableEq, Repr

/-- Reads a header at its scratchpad. -/
def State.dequeAt (s : State) (key : Nat) : Deque where
  key := key
  top := s.loadN key 8
  bot := s.loadN (key + 8) 8
  owner := s.loadN (key + 16) 2 % 4096
  cap := s.loadN (key + 16) 2 / 4096

/-- Where an entry lies. -/
def Deque.slot (d : Deque) (i : Nat) : Nat := d.key + 64 + 8 * (i % 2 ^ d.cap)
def Deque.size (d : Deque) : Nat := 64 + 8 * 2 ^ d.cap
def Deque.isFull (d : Deque) : Bool := (d.bot + 2 ^ 64 - d.top) % 2 ^ 64 == 2 ^ d.cap
def Deque.isEmpty (d : Deque) : Bool := d.top == d.bot

/-- Writes TOP or BOT. -/
def State.setTop (s : State) (d : Deque) (v : Nat) : State := s.setBytes d.key (toBytes 8 v)
def State.setBot (s : State) (d : Deque) (v : Nat) : State := s.setBytes (d.key + 8) (toBytes 8 v)

/-- A deque address has tag 0xC or 0xD; for the owner's forms it names the issuing core (R217; log entry 13). -/
def State.dequeTag (s : State) (a : Word) (own : Bool) : Bool :=
  fld a 60 4 == 0xC || (fld a 60 4 == 0xD && (!own || (fld a 48 4 == s.ownDev && fld a 40 8 == s.cur)))

/-- The checks of a deque's address over `n` bytes, in the order of R217: R186 to R88, whose failures are their own traps (log
entry 131), and then the tag. -/
def dequePlace (own : Bool) (a : Word) (n : Nat) (s : State) (k : State → Place → Body) : Body :=
  if a.toNat % 64 = 0 ∧ (s.decodeAddr s.cur s.actor a n true).isOk ∧ !s.dequeTag a own then .operand s
  else Except.body (s.place s.cur s.actor a n 64 1 1) k

/-- The checks of a deque instruction, then its step on the header: those of the address on the header, LOG2CAP, the
owner, and the whole record (R217). -/
def withDeque (own : Bool) (a : Word) (s : State) (k : State → Deque → Body) : Body :=
  dequePlace own a 64 s fun s1 p =>
    let s2 := s1.drain s.cur p.hm p.key
    let d := s2.dequeAt p.key
    if d.cap < 1 ∨ 12 < d.cap ∨ (own ∧ d.owner ≠ sidOf s.cur s.actor) then .operand s2
    else match s2.decodeAddr s.cur s.actor a d.size true with
      | .error e => .ofTrap s2 (transFault 0 1 0 e a)
      | .ok _ => k s2 d

/-- DQINIT (R217): the form's `n` first, then the address of the whole record (log entry 131). -/
def dqinit (n : Nat) (a : Word) (s : State) : Body :=
  if n < 1 ∨ 12 < n then .operand s
  else dequePlace true a (64 + 8 * 2 ^ n) s fun s1 p =>
    .done ((s1.drain s.cur p.hm p.key).setBytes p.key
      (List.replicate 16 0#8 ++ toBytes 2 (sidOf s.cur s.actor + 4096 * n) ++ List.replicate 46 0#8)) [] .fall
def execDqinit (h : Hdr) (a : Opnd) (n : BitVec 4) (s : State) : Res :=
  .next (s.issue .any h 8 [a] [] fun v s => dqinit n.toNat (v0 v) s)

/-- DQPUSH (R217). -/
def dqpush (a e : Word) (s : State) : Body :=
  if e == 0 || bit e 0 then .operand s
  else withDeque true a s fun s1 d =>
    if d.isFull then .done s1 [0] .fall
    else .done ((s1.setBytes (d.slot d.bot) (toBytes 8 e.toNat)).setBot d (d.bot + 1)) [1] .fall
def execDqpush (h : Hdr) (d a b : Opnd) (s : State) : Res :=
  .next (s.issue .any h 8 [a, b] [(d, some 1)] fun v s => dqpush (v0 v) (v1 v) s)

/-- The frame a graft entry names (R216). -/
def graftFrame (e : Nat) : Nat := e / 256 * 256

/-- The owner takes a graft back: the child is counted out, every register of the frame is reloaded in place, and the
frame is freed (R218); `take` is the pop itself, which a trap of the count leaves undone. The child's results in flight land
before that (R51, R175). The strand stays READY and goes on in place, as R37 and R218 say; the row of R24 that names 'DETACH
taken by the last owner pop' among the ways to FREE is not followed (log entry 98). -/
def takeBack (f : Nat) (take : State → State) (s : State) : Body :=
  let c := s.cur
  let x := s.actor
  countOut (s.publish c x) fun s1 =>
    let s1 := (take s1).landAll c x
    let p := s1.partOf c
    let bs := s1.readFrame p f
    let s2 := (s1.loadFrame c x bs).pushFrame p f (byStrand c x)
    .done ({ s2 with conts := s2.conts.del (contKey p f) }.lineEnded (s2.ctx c x).launch) [] (.resume (frameWord bs 74))

/-- DQPOP (R217, R218). -/
def dqpop (a : Word) (s : State) : Body :=
  withDeque true a s fun s1 d =>
    if d.isEmpty then .done s1 [0] .fall
    else
      let i := (d.bot + (2 ^ 64 - 1)) % 2 ^ 64
      let e := s1.loadN (d.slot i) 8
      if e % 2 = 1 then takeBack (graftFrame e) (·.setBot d i) s1 else .done (s1.setBot d i) [.ofNat 64 e] .fall
def execDqpop (h : Hdr) (d a : Opnd) (s : State) : Res :=
  .next (s.issue .any h 8 [a] [(d, none)] fun v s => dqpop (v0 v) s)

/-- DQSTEAL: a graft goes to the thief's core's direct list (R217, R218). -/
def dqsteal (a : Word) (s : State) : Body :=
  withDeque false a s fun s1 d =>
    if d.isEmpty then .done s1 [0] .fall
    else
      let e := s1.loadN (d.slot d.top) 8
      let s2 := s1.setTop d (d.top + 1)
      if e % 2 = 1 then
        let f := graftFrame e
        let p := s2.partOf s.cur
        let l := ((s2.conts.find (contKey p f)).map (·.launch)).getD 0
        .done (s2.handDirect s.cur (.cont f (frameSumm (s2.readFrame p f)) l false)) [.ofNat 64 (f + 1)] .fall
      else .done s2 [.ofNat 64 e] .fall
def execDqsteal (h : Hdr) (d a : Opnd) (s : State) : Res :=
  .next (s.issue .any h 8 [a] [(d, none)] fun v s => dqsteal (v0 v) s)

/-- KIND of the deque-full trap (R339). -/
def kDeque : Nat := 0x07

/-- DETACH (R218). -/
def detach (child : Word) (a : Word) (s : State) : Body :=
  withDeque true a s fun s1 d =>
    let c := s.cur
    let x := s.actor
    if s1.holdsLock c x then .operand s1
    else if d.isFull then .trap s1 kDeque 0 a
    else withFrame s1 fun s2 f =>
      let k := s2.ctx c x
      let s3 := (s2.saveCont c x f (k.pc + 8) k.jc 2 c).publish c x
      .done (((s3.setBytes (d.slot d.bot) (toBytes 8 (f + 1))).setBot d (d.bot + 1)).lineBorn k.launch) [] (.jump child)
def execDetach (h : Hdr) (a : Opnd) (o : BitVec 20) (s : State) : Res :=
  .next (s.issue .user h 8 [a] [] fun v s => detach (s.me.pc + o.signExtend 64 * 4) (v0 v) s)

end Sys2Proof.Machine
end

