-- ==== Sys2Proof/Machine/Mmio.lean ====
section
/-! DEFINITION. The map of a BAR0 window (R325): what a device-level read of a register answers and what a write does
(R16, R324, R326, R357, R364, R376, R380, R381). A write takes 64 bits at a multiple of 8. -/

namespace Sys2Proof.Machine

/-! ### The device block (R381) -/

/-- VMEAS of a slice: its monitors trim the voltage to TARGET, and a droop shows in it (R397). -/
def State.vmeas (s : State) (i : Nat) : Nat :=
  (Config.supply i (s.slice i).target.toNat (s.slice i).stretch s.mesh).toNat % 2 ^ 16

/-- A register of the device block, as read. -/
def State.devRead (s : State) (o : Nat) : Word :=
  let d := s.dev
  let n := fun (i : Nat) => (.ofNat 64 i : Word)
  if o < 0x20 then
    let p := s.part (o / 8)
    let w := p.next.getD (p.qmask, p.spill)
    n (b2n p.v * 2 ^ 31 + b2n w.2 * 2 ^ 27 + p.res * 2 ^ 16 + p.st * 2 ^ 8 + w.1.toNat * 16)
  else if o < 0x40 then (s.part ((o - 0x20) / 8)).pc
  else if o < 0xC0 then s.routeOf ((o - 0x40) / 8)
  else if 0x100 ≤ o ∧ o < 0x300 then (s.part ((o - 0x100) / 128)).fgrant.get 0 ((o - 0x100) / 8 % 16)
  else if 0x300 ≤ o ∧ o < 0x340 then
    let p := s.port ((o - 0x300) / 8)
    n (p.retry * 2 ^ 48 + p.crcerr * 2 ^ 32 + p.pdev.toNat * 2 ^ 16 + p.pport.toNat * 2 ^ 12 + p.st)
  else if 0x520 ≤ o ∧ o < 0x540 then (s.part ((o - 0x520) / 8)).savebase
  else if 0x540 ≤ o ∧ o < 0x560 then (s.part ((o - 0x540) / 8)).spillbase
  else if 0x600 ≤ o ∧ o < 0x6C0 then
    let i := (o - 0x600) / 8
    let v := s.slice i
    let g := ((List.range 192).filter fun c => sliceOf c == i).foldl (fun a c => max a (s.core c).gatedCount) 0
    n (g * 2 ^ 52 + s.vmeas i * 2 ^ 32 + v.stretch * 2 ^ 16 + v.target.toNat)
  else if 0x700 ≤ o ∧ o < 0x780 then
    let h := s.head ((o - 0x700) / 32)
    match (o - 0x700) % 32 with | 0 => h.mode | 8 => h.htime | _ => 0
  else match o with
    | 0x400 => d.evbase
    | 0x408 => d.evctl
    | 0x410 => d.evprod.setWidth 64
    | 0x418 => d.evcons.setWidth 64
    | 0x500 => n (d.temp.toNat * 2 ^ 56 + d.trip.toNat * 2 ^ 48 + d.crit.toNat * 2 ^ 40 + d.hot.toNat * 2 ^ 32 + d.thermState.toNat)
    | 0x508 => n (d.pacectl.toNat + d.rem * 2 ^ 8 + d.late)
    | 0x510 => d.pacesig
    | 0x580 => d.sealedM.setWidth 64
    | 0x800 => n (b2n s.mgmt.pendProf.isSome * 2 ^ 31 + d.profile.toNat * 2 ^ 16 + (s.mgmt.profile.getD s.board.profsel).toNat)
    | _ => 0

/-- PARTDEF: V = 0 ends a partition, SWAP swaps it, V = 1 starts it (R362, R381). QMASK and SPILL that are written with V = 0
are the partition's once it is off (log entry 142). A SWAP that comes with V = 0 meets a partition that has no twin or is
ending; one that is refused does nothing else. -/
def State.writePartdef (s : State) (p : Nat) (v : Word) : State :=
  if !bit v 31 then
    let w := ((.ofNat 4 (fld v 4 4), bit v 27) : BitVec 4 × Bool)
    let s1 := if (s.part p).st = 0 then
        (s.unstart p).onPart p fun q => { q with v := false, qmask := w.1, spill := w.2 }
      else
        let s0 := s.onPart p fun q => { q with next := some w }
        if (s.part p).ending then s0 else s0.stopPart p
    if bit v 26 then s1.swap p else s1
  else if bit v 26 then (if s.canSwap p then s.onPart p fun q => { q with spill := bit v 27 } else s).swap p
  else s.startPart p v

/-- PACECTL: enabling pacing starts a new measurement (R399). -/
def State.writePace (s : State) (v : Word) : State :=
  if fld v 24 4 = 0 then s
  else
    let start := bit v 31 && !bit s.dev.pacectl 31
    (s.onDev fun d => { d with
      pacectl := v &&& 0xBF000000, paceSkip := start || d.paceSkip, leads := if start then [] else d.leads
      arrivals := if start then [] else d.arrivals, lastColl := if start then none else d.lastColl }).regateAll

/-- A write of the device block; one that breaks a limit leaves its register as it was. -/
def State.devWrite (s : State) (o : Nat) (v : Word) : State :=
  if o < 0x20 then s.writePartdef (o / 8) v
  else if o < 0x40 then s.onPart ((o - 0x20) / 8) fun q => { q with pc := v &&& 0xFFFFFFFFFFFFC }
  else if o < 0xC0 then s.writeRoute ((o - 0x40) / 8) v
  else if 0x100 ≤ o ∧ o < 0x300 then
    s.onPart ((o - 0x100) / 128) fun q => { q with fgrant := q.fgrant.put ((o - 0x100) / 8 % 16) (v &&& 0x800000F1) }
  else if 0x520 ≤ o ∧ o < 0x540 then s.onPart ((o - 0x520) / 8) fun q => { q with savebase := v &&& 0x3FFFFFF000 }
  else if 0x540 ≤ o ∧ o < 0x560 then s.onPart ((o - 0x540) / 8) fun q => { q with spillbase := v &&& 0x3FFFE00000 }
  else if 0x600 ≤ o ∧ o < 0x6C0 then
    if 20 ≤ fld v 0 7 ∧ fld v 0 7 ≤ 80 then s.onSlice ((o - 0x600) / 8) fun x => { x with target := .ofNat 7 (fld v 0 7) } else s
  else if 0x700 ≤ o ∧ o < 0x780 then
    match (o - 0x700) % 32 with
    | 0 => s.writeHead ((o - 0x700) / 32) false v
    | 8 => s.writeHead ((o - 0x700) / 32) true v
    | _ => s
  else match o with
    | 0xC0 =>
      let page := fld v 12 36
      s.s2inv (fld v 0 2) fun t => bit v 3 || (decide (t.pa < 4096 * page + 4096) && decide (4096 * page < t.pa + t.size))
    | 0x400 => s.onDev fun d => { d with evbase := v &&& 0x3FFFFFFFF000 }
    | 0x408 => if 6 ≤ fld v 0 5 ∧ fld v 0 5 ≤ 16 then s.onDev fun d => { d with evctl := v &&& 0x80FF001F } else s
    | 0x418 => s.onDev fun d => { d with evcons := v.setWidth 32 }
    | 0x500 =>
      if fld v 40 8 + 5 ≤ s.dev.trip.toNat ∧ fld v 32 8 + 5 ≤ fld v 40 8 then
        s.onDev fun d => { d with crit := .ofNat 8 (fld v 40 8), hot := .ofNat 8 (fld v 32 8) } else s
    | 0x508 => s.writePace v
    | 0x510 => s.onDev fun d => { d with pacesig := v &&& 0xFFFFFFFFFFFFF }
    | 0x800 => s.writeProfile v
    | _ => s

/-! ### Hardware-queue descriptors (R380) -/

/-- The queue of an offset in the block. -/
def queueAt (o : Nat) : Nat := o / 0x20000 * 4096 + o % 0x20000 / 32

/-- A word of a queue's descriptor, as read. -/
def State.queueRead (s : State) (o : Nat) : Word :=
  let q := s.hwq (queueAt o)
  match o % 32 / 8 with
  | 0 => .ofNat 64 (b2n q.v * 2 ^ 31 + b2n q.spawn * 2 ^ 30 + b2n q.remote * 2 ^ 29 + q.log2n * 2 ^ 24 + q.pmask.toNat * 2 ^ 20)
  | 1 => q.tail.setWidth 64 ||| (q.head.setWidth 64 <<< 32)
  | 2 => .ofNat 64 (q.rsvd + q.count * 2 ^ 32)
  | _ => q.rbase

/-- A write of a queue's descriptor word: one with V = 0 undefines a queue, and takes its RW fields (R16, R380). -/
def State.queueWrite (s : State) (o : Nat) (v : Word) : State :=
  let i := queueAt o
  let q := s.hwq i
  match o % 32 / 8 with
  | 0 =>
    if bit v 31 then s.defineQueue (i / 4096) (i % 4096) (.ofNat 256 (v.toNat + q.rbase.toNat * 2 ^ 192))
    else if q.v && !s.canUndefine i then s
    else (s.undefineQueue i).onHwq i fun q => { q with
      spawn := bit v 30, remote := bit v 29, log2n := fld v 24 5, pmask := .ofNat 4 (fld v 20 4) }
  | 3 => if q.v then s else s.onHwq i fun q => { q with rbase := v }
  | _ => s

/-! ### The command processor block (R364, R375, R376) -/

/-- A word of the crash region. -/
def Dev.crashWord (d : Dev) (o : Nat) : Word := .ofNat 64 (ofBytes ((List.range 8).map fun i => d.crash.get 0 (o + i)))

/-- A register of the command processor block, as read. -/
def State.cpRead (s : State) (o : Nat) : Word :=
  let d := s.dev
  if o = 0 then d.cpcfg ||| (if d.fallback then 0x200 else 0)
  else if o = 8 then d.qdbase
  else if 0x100 ≤ o ∧ o < 0x300 then
    match d.hslots.find ((o - 0x100) / 8) with
    | none => d.slotRw.get 0 ((o - 0x100) / 8)
    | some h => .ofNat 64 (2 ^ 31 + h.pri * 2 ^ 27 + h.queue)
  else if 0x400 ≤ o ∧ o < 0x480 then
    let p := s.part ((o - 0x400) / 32)
    match (o - 0x400) % 32 with | 0 => p.htbase | 8 => p.htsize | 16 => p.perrsig | _ => 0
  else if 0x1000 ≤ o ∧ o < 0x1800 then d.coalOf ((o - 0x1000) / 8)
  else if 0x20000 ≤ o ∧ o < 0x30000 then d.crashWord (o - 0x20000)
  else 0

/-- SLOT: V = 0 unmaps; V = 1 maps, or sets PRI; RST restarts (R375). -/
def State.writeSlot (s : State) (i : Nat) (v : Word) : State :=
  let go := fun (s : State) => if bit v 30 then s.onSlot i fun h => { h with halted := false } else s
  if !bit v 31 then (go (s.onDev (·.keepSlot i v))).unmapSlot i
  else (go (s.mapSlot i v)).kick

/-- A write of the command processor block. -/
def State.cpWrite (s : State) (o : Nat) (v : Word) : State :=
  if o = 0 then (s.onDev fun d => { d with cpcfg := (d.cpcfg &&& 0x100) ||| (v &&& 0xFF0003) }).kick
  else if o = 8 then if v.toNat % 4096 = 0 ∧ v.toNat < 2 ^ 48 then s.onDev fun d => { d with qdbase := v } else s
  else if 0x100 ≤ o ∧ o < 0x300 then s.writeSlot ((o - 0x100) / 8) v
  else if 0x400 ≤ o ∧ o < 0x480 then
    let p := (o - 0x400) / 32
    match (o - 0x400) % 32 with
    | 0 => if v.toNat % 256 = 0 then s.onPart p fun q => { q with htbase := v } else s
    | 8 => if v.toNat ≤ 4096 then s.onPart p fun q => { q with htsize := v } else s
    | 16 => s.onPart p fun q => { q with perrsig := v }
    | _ => s
  else if 0x1000 ≤ o ∧ o < 0x1800 then
    let i := (o - 0x1000) / 8
    if 1 ≤ fld v 12 10 ∧ fld v 12 10 ≤ 1000 ∧ 1 ≤ fld v 0 8 then
      s.onDev fun d => { d with coal := d.coal.put i (setFld (v &&& 0x3FF0FF) 56 8 (fld (d.coalOf i) 56 8)) } else s
  else if 0x100000 ≤ o ∧ o < 0x108000 then s.doorbell ((o - 0x100000) / 8) (v.setWidth 32)
  else s

/-! ### The MSI-X table (R376) -/

/-- A write of the MSI-X table: a pending vector that is unmasked sends its message. -/
def State.msixWrite (s : State) (i : Nat) (v : Word) : State :=
  let s1 := s.onDev fun d => { d with msix := d.msix.put i v }
  let n := i / 2
  if s1.dev.pba.get false n && !s1.dev.masked n then (s1.onDev fun d => { d with pba := d.pba.put n false }).sendMsi n else s1

/-- A word of the pending-bit array. -/
def Dev.pbaWord (d : Dev) (j : Nat) : Word :=
  .ofNat 64 ((List.range 64).foldl (fun a i => a + b2n (d.pba.get false (64 * j + i)) * 2 ^ i) 0)

/-! ### A partition's block (R325, R357) -/

/-- A system register of core scope. -/
def coreScope (n : Nat) : Bool := n == 0x001 || n == 0x010 || n == 0x011 || n == 0x012 || n == 0x014 || n == 0x018

/-- The core and register that an offset of the block names: a register, or a core's copy of one. -/
def State.blockReg (s : State) (p r : Nat) : Option (Nat × Nat) :=
  if r < 0x8000 then
    let n := r / 8
    if coreScope n ∧ (s.coresOf p).isEmpty then none else some (s.firstCore p, n)
  else if 0x20000 ≤ r ∧ r < 0x20000 + 0x100 * 192 then
    let c := (r - 0x20000) / 0x100
    let n := (r - 0x20000) % 0x100 / 8
    if s.inPart p c ∧ coreScope n then some (c, n) else none
  else none

/-- The heartwood, which MMIO does not reach, holds a partition's copy of a register: FRAME, FIFOCTL, FEEDQ or FWDREC of a
swapped-out twin. It reads 0 and ignores writes (R362; log entry 111). -/
def State.inHeart (s : State) (p c n : Nat) : Bool := coreScope n && n != 0x001 && n != 0x010 && s.home p c != c

/-- A register of a partition's block, as read. -/
def State.blockRead (s : State) (p r : Nat) : Word :=
  if 0x8000 ≤ r ∧ r < 0xB000 then
    let c := (r - 0x8000) / 0x40
    let k := s.core c
    let w := (r - 0x8000) % 0x40 / 0x10
    if !s.inPart p c then 0 else if r % 0x10 = 0 then k.waddr.get 0 w else k.wctl.get 0 w
  else if 0xC000 ≤ r ∧ r < 0xC200 then
    let q := (r - 0xC000) / 0x80
    if (s.part p).hasQuad q then s.dev.hwatch.get 0 (q * 16 + (r - 0xC000) % 0x80 / 8) else 0
  else match s.blockReg p r with
    | none => 0
    | some (c, n) => if s.inHeart p c n then 0 else (s.sysRead c p n).elim 0 Prod.snd

/-- A device-level write of a system register: reserved bits are ignored, and S2ROOT and SCRWIN may be written; a
partition that is off takes TRAPVEC as it is, to be checked when it starts (R341), and a bind meets its checks (R287,
R324). -/
def State.regWrite (s : State) (c p n : Nat) (v : Word) : State :=
  let w := v &&& sysBits n
  let off := decide ((s.part p).st = 0)
  if n = 0x18 then s.takeFwdrec c w
  else if n = 0x40 then s.onPart p fun q => { q with s2root := w }
  else if n = 0x23 then s.onPart p fun q => { q with scrwin := w }
  else if n = 0x13 ∧ off then s.onPart p fun q => { q with trapvec := w }
  else if !sysListed n then s
  else (s.sysWrite c p n w).getD s

/-- A write of a partition's block. -/
def State.blockWrite (s : State) (p r : Nat) (v : Word) : State :=
  if 0x8000 ≤ r ∧ r < 0xB000 then
    let c := (r - 0x8000) / 0x40
    let w := (r - 0x8000) % 0x40 / 0x10
    if !s.inPart p c then s
    else if r % 0x10 = 0 then s.onCore c fun k => { k with waddr := k.waddr.put w v }
    else if 9 < fld v 8 4 then s
    else s.onCore c fun k => { k with wctl := k.wctl.put w (v &&& 0xFFFF0F31) }
  else if 0xC000 ≤ r ∧ r < 0xC200 then
    let q := (r - 0xC000) / 0x80
    let i := q * 16 + (r - 0xC000) % 0x80 / 8
    if !(s.part p).hasQuad q then s
    else s.onDev fun d => { d with hwatch := d.hwatch.put i (if i % 2 = 0 then v else v &&& 0xFFF1) }
  else match s.blockReg p r with
    | none => s
    | some (c, n) => if s.inHeart p c n then s else s.regWrite c p n v

/-! ### A window (R325) -/

/-- What a read at an offset of a window answers. -/
def State.mmioRead (s : State) (o : Nat) : Word :=
  if o % 8 ≠ 0 then 0
  else if o < 0x100000 then s.devRead o
  else if o < 0x180000 then s.queueRead (o - 0x100000)
  else if 0x200000 ≤ o ∧ o < 0x400000 then s.cpRead (o - 0x200000)
  else if 0x400000 ≤ o ∧ o < 0x800000 then s.blockRead ((o - 0x400000) / 0x100000) (o % 0x100000)
  else if 0x800000 ≤ o ∧ o < 0x801000 then s.dev.msixWord ((o - 0x800000) / 8)
  else if 0x801000 ≤ o ∧ o < 0x801020 then s.dev.pbaWord ((o - 0x801000) / 8)
  else 0

/-- What a write at an offset of a window does. While the host link has not trained only the side-band master writes, and
it reaches the device block and the hardware-queue descriptors (R325, R381, R394, R405). -/
def State.mmioWrite (s : State) (o : Nat) (v : Word) : State :=
  if o % 8 ≠ 0 then s
  else if o < 0x100000 then s.devWrite o v
  else if o < 0x180000 then s.queueWrite (o - 0x100000) v
  else if !s.powered then s
  else if 0x200000 ≤ o ∧ o < 0x400000 then s.cpWrite (o - 0x200000) v
  else if 0x400000 ≤ o ∧ o < 0x800000 then s.blockWrite ((o - 0x400000) / 0x100000) (o % 0x100000) v
  else if 0x800000 ≤ o ∧ o < 0x801000 then s.msixWrite ((o - 0x800000) / 8) v
  else s

/-! ### The side-band port (R394) -/

/-- The sensors that PLDM gives: the temperature, a slice's supply voltage, the power of a rail, and the step and cause at
which a boot has stopped (R405). -/
inductive Sensor where
  | temp | vmeas (slice : Nat) | rail (n : Nat) | bootStatus
  deriving DecidableEq, Repr

/-- What a sensor reads: the voltages and the rails' power are measured quantities (log entry 3). -/
def State.sensor (s : State) : Sensor → Nat
  | .temp => s.dev.temp.toNat
  | .vmeas i => s.vmeas i
  | .rail n => (Config.measured n).toNat
  | .bootStatus => s.mgmt.bootStop.elim 0 fun b => b.1 + 2 ^ 8 * b.2

/-- What the side-band master reads at an offset: the device block, the hardware-queue descriptors and the crash region, where
BAR0 has them (R325). -/
def State.sideRead (s : State) (o : Nat) : Word :=
  if o % 8 ≠ 0 then 0
  else if o < 0x100000 then s.devRead o
  else if o < 0x180000 then s.queueRead (o - 0x100000)
  else if 0x220000 ≤ o ∧ o < 0x230000 then s.dev.crashWord (o - 0x220000)
  else 0

/-- REGISTER_WRITE (R326). -/
def execRegisterWrite (off : Nat) (v : Word) (s : State) : Res := .next (s.mmioWrite off v)

end Sys2Proof.Machine
end

