-- ==== Sys2Proof/Machine/Dispatch.lean ====
section
/-! DEFINITION. One arm for each constructor of `Instr`: a direct call of its meaning. -/

namespace Sys2Proof.Machine

def exec (i : Instr) (s : State) : Host.Outcome State Fault Refusal :=
  match i with
  | .nop h => Sys2Proof.Machine.execNop h s
  | .trap h a code => Sys2Proof.Machine.execTrap h a code s
  | .tret h => Sys2Proof.Machine.execTret h s
  | .tren h close => Sys2Proof.Machine.execTren h close s
  | .mfs h d a n => Sys2Proof.Machine.execMfs h d a n s
  | .mts h a b n => Sys2Proof.Machine.execMts h a b n s
  | .brk h a code => Sys2Proof.Machine.execBrk h a code s
  | .waite h d a poll => Sys2Proof.Machine.execWaite h d a poll s
  | .stop h mode => Sys2Proof.Machine.execStop h mode s
  | .tlbinv h a kind as => Sys2Proof.Machine.execTlbinv h a kind as s
  | .ctxrd h d a slt => Sys2Proof.Machine.execCtxrd h d a slt s
  | .ctxwr h a b slt => Sys2Proof.Machine.execCtxwr h a b slt s
  | .add h ty d a b => Sys2Proof.Machine.execAdd h ty d a b s
  | .sub h ty d a b => Sys2Proof.Machine.execSub h ty d a b s
  | .mul h ty d a b => Sys2Proof.Machine.execMul h ty d a b s
  | .mulh h ty d a b => Sys2Proof.Machine.execMulh h ty d a b s
  | .div h ty d a b => Sys2Proof.Machine.execDiv h ty d a b s
  | .rem h ty d a b => Sys2Proof.Machine.execRem h ty d a b s
  | .min h ty d a b => Sys2Proof.Machine.execMin h ty d a b s
  | .max h ty d a b => Sys2Proof.Machine.execMax h ty d a b s
  | .and h ty d a b => Sys2Proof.Machine.execAnd h ty d a b s
  | .or h ty d a b => Sys2Proof.Machine.execOr h ty d a b s
  | .xor h ty d a b => Sys2Proof.Machine.execXor h ty d a b s
  | .andn h ty d a b => Sys2Proof.Machine.execAndn h ty d a b s
  | .shl h ty d a b => Sys2Proof.Machine.execShl h ty d a b s
  | .shr h ty d a b => Sys2Proof.Machine.execShr h ty d a b s
  | .shra h ty d a b => Sys2Proof.Machine.execShra h ty d a b s
  | .rot h ty d a b => Sys2Proof.Machine.execRot h ty d a b s
  | .clz h ty d a => Sys2Proof.Machine.execClz h ty d a s
  | .ctz h ty d a => Sys2Proof.Machine.execCtz h ty d a s
  | .popc h ty d a => Sys2Proof.Machine.execPopc h ty d a s
  | .addi h d a imm => Sys2Proof.Machine.execAddi h d a imm s
  | .andi h d a imm => Sys2Proof.Machine.execAndi h d a imm s
  | .ori h d a imm => Sys2Proof.Machine.execOri h d a imm s
  | .xori h d a imm => Sys2Proof.Machine.execXori h d a imm s
  | .shli h d a amt => Sys2Proof.Machine.execShli h d a amt s
  | .shri h d a amt => Sys2Proof.Machine.execShri h d a amt s
  | .shrai h d a amt => Sys2Proof.Machine.execShrai h d a amt s
  | .mov h d a => Sys2Proof.Machine.execMov h d a s
  | .li h d imm => Sys2Proof.Machine.execLi h d imm s
  | .addpc h d imm => Sys2Proof.Machine.execAddpc h d imm s
  | .sel h d a b c => Sys2Proof.Machine.execSel h d a b c s
  | .ext h d a pos lenm1 sgn => Sys2Proof.Machine.execExt h d a pos lenm1 sgn s
  | .ins h d a b pos lenm1 => Sys2Proof.Machine.execIns h d a b pos lenm1 s
  | .cmp h d a b rel ty => Sys2Proof.Machine.execCmp h d a b rel ty s
  | .cmpi h d a rel ty imm => Sys2Proof.Machine.execCmpi h d a rel ty imm s
  | .clog h d a b tbl => Sys2Proof.Machine.execClog h d a b tbl s
  | .padd h ty d a b => Sys2Proof.Machine.execPadd h ty d a b s
  | .psub h ty d a b => Sys2Proof.Machine.execPsub h ty d a b s
  | .padds h ty d a b => Sys2Proof.Machine.execPadds h ty d a b s
  | .psubs h ty d a b => Sys2Proof.Machine.execPsubs h ty d a b s
  | .pmul h ty d a b => Sys2Proof.Machine.execPmul h ty d a b s
  | .pmin h ty d a b => Sys2Proof.Machine.execPmin h ty d a b s
  | .pmax h ty d a b => Sys2Proof.Machine.execPmax h ty d a b s
  | .pshl h ty d a b => Sys2Proof.Machine.execPshl h ty d a b s
  | .pshr h ty d a b => Sys2Proof.Machine.execPshr h ty d a b s
  | .pshra h ty d a b => Sys2Proof.Machine.execPshra h ty d a b s
  | .cvt h ty d a rm src => Sys2Proof.Machine.execCvt h ty d a rm src s
  | .cvtn h ty d a b rm dir => Sys2Proof.Machine.execCvtn h ty d a b rm dir s
  | .fadd h ty d a b rm => Sys2Proof.Machine.execFadd h ty d a b rm s
  | .fsub h ty d a b rm => Sys2Proof.Machine.execFsub h ty d a b rm s
  | .fmul h ty d a b rm => Sys2Proof.Machine.execFmul h ty d a b rm s
  | .fma h ty d a b c rm => Sys2Proof.Machine.execFma h ty d a b c rm s
  | .fmin h ty d a b => Sys2Proof.Machine.execFmin h ty d a b s
  | .fmax h ty d a b => Sys2Proof.Machine.execFmax h ty d a b s
  | .fsgn h ty d a b sop => Sys2Proof.Machine.execFsgn h ty d a b sop s
  | .fcmp h ty d a b rel q => Sys2Proof.Machine.execFcmp h ty d a b rel q s
  | .fclass h ty d a => Sys2Proof.Machine.execFclass h ty d a s
  | .fdiv h ty d a b rm => Sys2Proof.Machine.execFdiv h ty d a b rm s
  | .fsqrt h ty d a rm => Sys2Proof.Machine.execFsqrt h ty d a rm s
  | .frcp h ty d a rm => Sys2Proof.Machine.execFrcp h ty d a rm s
  | .frsq h ty d a rm => Sys2Proof.Machine.execFrsq h ty d a rm s
  | .fexp2 h ty d a rm => Sys2Proof.Machine.execFexp2 h ty d a rm s
  | .flog2 h ty d a rm => Sys2Proof.Machine.execFlog2 h ty d a rm s
  | .fsin h ty d a rm => Sys2Proof.Machine.execFsin h ty d a rm s
  | .fcos h ty d a rm => Sys2Proof.Machine.execFcos h ty d a rm s
  | .ftanh h ty d a rm => Sys2Proof.Machine.execFtanh h ty d a rm s
  | .br h off => Sys2Proof.Machine.execBr h off s
  | .j h off => Sys2Proof.Machine.execJ h off s
  | .jl h d off => Sys2Proof.Machine.execJl h d off s
  | .jr h d a off => Sys2Proof.Machine.execJr h d a off s
  | .loop h d a off => Sys2Proof.Machine.execLoop h d a off s
  | .tsts h d a b off => Sys2Proof.Machine.execTsts h d a b off s
  | .ld h ty d a off => Sys2Proof.Machine.execLd h ty d a off s
  | .ldx h ty d a b off => Sys2Proof.Machine.execLdx h ty d a b off s
  | .ldp h ty d a off => Sys2Proof.Machine.execLdp h ty d a off s
  | .st h ty a b off => Sys2Proof.Machine.execSt h ty a b off s
  | .stx h ty a b c off => Sys2Proof.Machine.execStx h ty a b c off s
  | .stp h ty a b off => Sys2Proof.Machine.execStp h ty a b off s
  | .pref h a off => Sys2Proof.Machine.execPref h a off s
  | .cinv h a off => Sys2Proof.Machine.execCinv h a off s
  | .cwb h a off => Sys2Proof.Machine.execCwb h a off s
  | .amo h ty d a b op => Sys2Proof.Machine.execAmo h ty d a b op s
  | .cas h ty d a b c => Sys2Proof.Machine.execCas h ty d a b c s
  | .amof h ty d a b => Sys2Proof.Machine.execAmof h ty d a b s
  | .send h a b pri ef => Sys2Proof.Machine.execSend h a b pri ef s
  | .recv h d pri => Sys2Proof.Machine.execRecv h d pri s
  | .waitm h d => Sys2Proof.Machine.execWaitm h d s
  | .putq h a b c e lenm1 ef dev => Sys2Proof.Machine.execPutq h a b c e lenm1 ef dev s
  | .sigset h a b imm init => Sys2Proof.Machine.execSigset h a b imm init s
  | .sigadd h a b imm => Sys2Proof.Machine.execSigadd h a b imm s
  | .sigwait h a b imm rel => Sys2Proof.Machine.execSigwait h a b imm rel s
  | .sigtest h d a b imm rel => Sys2Proof.Machine.execSigtest h d a b imm rel s
  | .gaddr h d a => Sys2Proof.Machine.execGaddr h d a s
  | .saddr h d a => Sys2Proof.Machine.execSaddr h d a s
  | .spawn h t a b c e off ttype => Sys2Proof.Machine.execSpawn h t a b c e off ttype s
  | .spawnq h t a b c e off ttype => Sys2Proof.Machine.execSpawnq h t a b c e off ttype s
  | .forkr h a b c off ttype lvl => Sys2Proof.Machine.execForkr h a b c off ttype lvl s
  | .await h a yld => Sys2Proof.Machine.execAwait h a yld s
  | .jinit h a b n => Sys2Proof.Machine.execJinit h a b n s
  | .quit h => Sys2Proof.Machine.execQuit h s
  | .migrate h d cls => Sys2Proof.Machine.execMigrate h d cls s
  | .dqinit h a n => Sys2Proof.Machine.execDqinit h a n s
  | .dqpush h d a b => Sys2Proof.Machine.execDqpush h d a b s
  | .dqpop h d a => Sys2Proof.Machine.execDqpop h d a s
  | .dqsteal h d a => Sys2Proof.Machine.execDqsteal h d a s
  | .detach h a off => Sys2Proof.Machine.execDetach h a off s
  | .qpush h a b ef => Sys2Proof.Machine.execQpush h a b ef s
  | .qpop h d a => Sys2Proof.Machine.execQpop h d a s
  | .qbind h qn fifo mode => Sys2Proof.Machine.execQbind h qn fifo mode s
  | .ldshp h a sh off => Sys2Proof.Machine.execLdshp h a sh off s
  | .stshp h a sh off => Sys2Proof.Machine.execStshp h a sh off s
  | .shpset h a sh fld => Sys2Proof.Machine.execShpset h a sh fld s
  | .shpget h d sh fld => Sys2Proof.Machine.execShpget h d sh fld s
  | .tadd h xa sd s1 s2 bsc cty rm satm => Sys2Proof.Machine.execTadd h xa sd s1 s2 bsc cty rm satm s
  | .tsub h xa sd s1 s2 bsc cty rm satm => Sys2Proof.Machine.execTsub h xa sd s1 s2 bsc cty rm satm s
  | .tmul h xa sd s1 s2 bsc cty rm satm => Sys2Proof.Machine.execTmul h xa sd s1 s2 bsc cty rm satm s
  | .tfma h xa xb sd s1 s2 s3 bsc csc cty rm => Sys2Proof.Machine.execTfma h xa xb sd s1 s2 s3 bsc csc cty rm s
  | .tmin h xa sd s1 s2 bsc cty rm => Sys2Proof.Machine.execTmin h xa sd s1 s2 bsc cty rm s
  | .tmax h xa sd s1 s2 bsc cty rm => Sys2Proof.Machine.execTmax h xa sd s1 s2 bsc cty rm s
  | .tabs h sd s1 cty rm satm => Sys2Proof.Machine.execTabs h sd s1 cty rm satm s
  | .tneg h sd s1 cty rm satm => Sys2Proof.Machine.execTneg h sd s1 cty rm satm s
  | .tand h xa sd s1 s2 bsc cty rm => Sys2Proof.Machine.execTand h xa sd s1 s2 bsc cty rm s
  | .tor h xa sd s1 s2 bsc cty rm => Sys2Proof.Machine.execTor h xa sd s1 s2 bsc cty rm s
  | .txor h xa sd s1 s2 bsc cty rm => Sys2Proof.Machine.execTxor h xa sd s1 s2 bsc cty rm s
  | .tshl h xa sd s1 s2 bsc cty rm => Sys2Proof.Machine.execTshl h xa sd s1 s2 bsc cty rm s
  | .tshr h xa sd s1 s2 bsc cty rm arith => Sys2Proof.Machine.execTshr h xa sd s1 s2 bsc cty rm arith s
  | .tcvt h sd s1 rm => Sys2Proof.Machine.execTcvt h sd s1 rm s
  | .tsplit3 h shi sx smid slo => Sys2Proof.Machine.execTsplit3 h shi sx smid slo s
  | .tred h sd s1 cty rm op => Sys2Proof.Machine.execTred h sd s1 cty rm op s
  | .tcmp h xa sd s1 s2 bsc cty rm rel q => Sys2Proof.Machine.execTcmp h xa sd s1 s2 bsc cty rm rel q s
  | .tsel h sd s1 s2 s3 => Sys2Proof.Machine.execTsel h sd s1 s2 s3 s
  | .tgath h sd s1 s2 => Sys2Proof.Machine.execTgath h sd s1 s2 s
  | .tscat h sd s1 s2 => Sys2Proof.Machine.execTscat h sd s1 s2 s
  | .tfill h xa sd => Sys2Proof.Machine.execTfill h xa sd s
  | .tcopy h sd s1 => Sys2Proof.Machine.execTcopy h sd s1 s
  | .tsfu h xa sd s1 s2 bsc cty rm fn => Sys2Proof.Machine.execTsfu h xa sd s1 s2 bsc cty rm fn s
  | .mmgang h gsz => Sys2Proof.Machine.execMmgang h gsz s
  | .mmldb h sb => Sys2Proof.Machine.execMmldb h sb s
  | .mma h sa arow => Sys2Proof.Machine.execMma h sa arow s
  | .mmst h sc rm arow acol => Sys2Proof.Machine.execMmst h sc rm arow acol s
  | .mmz h rl => Sys2Proof.Machine.execMmz h rl s
  | .cpy h xa xb sd s1 act pri => Sys2Proof.Machine.execCpy h xa xb sd s1 act pri s
  | .cpyred h xa xb sd s1 act pri rop => Sys2Proof.Machine.execCpyred h xa xb sd s1 act pri rop s
  | .cpymm h xa xb sd s1 s2 act pri mop arow => Sys2Proof.Machine.execCpymm h xa xb sd s1 s2 act pri mop arow s
  | .dgn h a b c act count => Sys2Proof.Machine.execDgn h a b c act count s
  | .dgdec h a => Sys2Proof.Machine.execDgdec h a s
  | .engfork h a b => Sys2Proof.Machine.execEngfork h a b s
  | .engrend h fin => Sys2Proof.Machine.execEngrend h fin s
  | .rfstart h a => Sys2Proof.Machine.execRfstart h a s
  | .rfstat h d a => Sys2Proof.Machine.execRfstat h d a s
  | .tribin h a b surf nattr cull => Sys2Proof.Machine.execTribin h a b surf nattr cull s
  | .rast h a surf zf zw ilk qcap => Sys2Proof.Machine.execRast h a surf zf zw ilk qcap s
  | .pxlock h a b => Sys2Proof.Machine.execPxlock h a b s
  | .pxrel h a b => Sys2Proof.Machine.execPxrel h a b s
  | .emit h d a b hold => Sys2Proof.Machine.execEmit h d a b hold s
  | .emstat h d a slt => Sys2Proof.Machine.execEmstat h d a slt s
  | .ctxstart h a => Sys2Proof.Machine.execCtxstart h a s
  | .ctxreap h a => Sys2Proof.Machine.execCtxreap h a s
  | .ctxsave h d a b free => Sys2Proof.Machine.execCtxsave h d a b free s
  | .ctxload h d a b => Sys2Proof.Machine.execCtxload h d a b s
  | .ctxstat h d a => Sys2Proof.Machine.execCtxstat h d a s
  | .placeHead core => Sys2Proof.Machine.execPlaceHead core s
  | .wake core ctx payload delivered => Sys2Proof.Machine.execWake core ctx payload delivered s
  | .resultLands core ctx => Sys2Proof.Machine.execResultLands core ctx s
  | .contextGate core => Sys2Proof.Machine.execContextGate core s
  | .contextRestore core => Sys2Proof.Machine.execContextRestore core s
  | .directListAppend core => Sys2Proof.Machine.execDirectListAppend core s
  | .messageArrival core hi payload delivered => Sys2Proof.Machine.execMessageArrival core hi payload delivered s
  | .queuePopAssign queue => Sys2Proof.Machine.execQueuePopAssign queue s
  | .postedStorePerformed n => Sys2Proof.Machine.execPostedStorePerformed n s
  | .edgeRecordRelease n => Sys2Proof.Machine.execEdgeRecordRelease n s
  | .tensorCompletion core ctx => Sys2Proof.Machine.execTensorCompletion core ctx s
  | .matrixCompletion core ctx => Sys2Proof.Machine.execMatrixCompletion core ctx s
  | .copyUnitConfirm core slot => Sys2Proof.Machine.execCopyUnitConfirm core slot s
  | .matrixCommandGiven core slot => Sys2Proof.Machine.execMatrixCommandGiven core slot s
  | .copyCompletion core slot => Sys2Proof.Machine.execCopyCompletion core slot s
  | .engineFaultTrap core ctx => Sys2Proof.Machine.execEngineFaultTrap core ctx s
  | .nodeDecrement core off delivered => Sys2Proof.Machine.execNodeDecrement core off delivered s
  | .nodeAction core => Sys2Proof.Machine.execNodeAction core s
  | .scriptStart core seqr => Sys2Proof.Machine.execScriptStart core seqr s
  | .scriptEnd core seqr => Sys2Proof.Machine.execScriptEnd core seqr s
  | .refineFactor slice => Sys2Proof.Machine.execRefineFactor slice s
  | .refinePass slice => Sys2Proof.Machine.execRefinePass slice s
  | .refineExit slice => Sys2Proof.Machine.execRefineExit slice s
  | .primitiveMessage core n => Sys2Proof.Machine.execPrimitiveMessage core n s
  | .pxlockGrant core => Sys2Proof.Machine.execPxlockGrant core s
  | .tileTake part surf => Sys2Proof.Machine.execTileTake part surf s
  | .bandCapture part surf => Sys2Proof.Machine.execBandCapture part surf s
  | .unbindComplete part surf => Sys2Proof.Machine.execUnbindComplete part surf s
  | .vectoredEntry core => Sys2Proof.Machine.execVectoredEntry core s
  | .haltTree part => Sys2Proof.Machine.execHaltTree part s
  | .partitionStart part v => Sys2Proof.Machine.execPartitionStart part v s
  | .partitionEnd part => Sys2Proof.Machine.execPartitionEnd part s
  | .partitionSwap part => Sys2Proof.Machine.execPartitionSwap part s
  | .s2invPage part page => Sys2Proof.Machine.execS2invPage part page s
  | .s2invAll part => Sys2Proof.Machine.execS2invAll part s
  | .routeWrite dev v => Sys2Proof.Machine.execRouteWrite dev v s
  | .headModeWrite head isTime v => Sys2Proof.Machine.execHeadModeWrite head isTime v s
  | .profnextWrite v => Sys2Proof.Machine.execProfnextWrite v s
  | .queueDefine stack idx desc => Sys2Proof.Machine.execQueueDefine stack idx desc s
  | .queueUndefine stack idx => Sys2Proof.Machine.execQueueUndefine stack idx s
  | .doorbell queue v => Sys2Proof.Machine.execDoorbell queue v s
  | .slotMap slot v => Sys2Proof.Machine.execSlotMap slot v s
  | .slotUnmap slot => Sys2Proof.Machine.execSlotUnmap slot s
  | .slotRestart slot => Sys2Proof.Machine.execSlotRestart slot s
  | .nopPacket slot => Sys2Proof.Machine.execNopPacket slot s
  | .launch slot => Sys2Proof.Machine.execLaunch slot s
  | .signal slot => Sys2Proof.Machine.execSignal slot s
  | .waitPacket slot => Sys2Proof.Machine.execWaitPacket slot s
  | .indirect slot => Sys2Proof.Machine.execIndirect slot s
  | .copyPacket slot => Sys2Proof.Machine.execCopyPacket slot s
  | .launchComplete number => Sys2Proof.Machine.execLaunchComplete number s
  | .msixEvent vec => Sys2Proof.Machine.execMsixEvent vec s
  | .coalescingTimer vec => Sys2Proof.Machine.execCoalescingTimer vec s
  | .firmwareException mcause mepc mtval xregs => Sys2Proof.Machine.execFirmwareException mcause mepc mtval xregs s
  | .watchdogExpiry mcause mepc mtval xregs => Sys2Proof.Machine.execWatchdogExpiry mcause mepc mtval xregs s
  | .faultResolved core ctx => Sys2Proof.Machine.execFaultResolved core ctx s
  | .flitReceive port flit => Sys2Proof.Machine.execFlitReceive port flit s
  | .ackTimer port => Sys2Proof.Machine.execAckTimer port s
  | .linkRetrain port ok => Sys2Proof.Machine.execLinkRetrain port ok s
  | .currentLimiterStep slice above below => Sys2Proof.Machine.execCurrentLimiterStep slice above below s
  | .collectiveComplete lead period => Sys2Proof.Machine.execCollectiveComplete lead period s
  | .thermalStep temp => Sys2Proof.Machine.execThermalStep temp s
  | .emergencySave => Sys2Proof.Machine.execEmergencySave s
  | .thermalTrip => Sys2Proof.Machine.execThermalTrip s
  | .attestationRequest nonce => Sys2Proof.Machine.execAttestationRequest nonce s
  | .profileStoreCommitted => Sys2Proof.Machine.execProfileStoreCommitted s
  | .firmwareReturn => Sys2Proof.Machine.execFirmwareReturn s
  | .evictionWriteback core sector => Sys2Proof.Machine.execEvictionWriteback core sector s
  | .postedAtomicPerformed n => Sys2Proof.Machine.execPostedAtomicPerformed n s
  | .scriptInstruction core seqr => Sys2Proof.Machine.execScriptInstruction core seqr s
  | .clockStretch slice => Sys2Proof.Machine.execClockStretch slice s
  | .powerOnReset board => Sys2Proof.Machine.execPowerOnReset board s
  | .deviceReset board => Sys2Proof.Machine.execDeviceReset board s
  | .hostAccess unit write mpa bytes => Sys2Proof.Machine.execHostAccess unit write mpa bytes s
  | .carveWrite core v => Sys2Proof.Machine.execCarveWrite core v s
  | .frameWrite core v => Sys2Proof.Machine.execFrameWrite core v s
  | .fifoFlush core v => Sys2Proof.Machine.execFifoFlush core v s
  | .trapvecWrite part v => Sys2Proof.Machine.execTrapvecWrite part v s
  | .feedqWrite core v => Sys2Proof.Machine.execFeedqWrite core v s
  | .frameqWrite part v => Sys2Proof.Machine.execFrameqWrite part v s
  | .fwdrec core v => Sys2Proof.Machine.execFwdrec core v s
  | .privateWindowWrite part isSize v => Sys2Proof.Machine.execPrivateWindowWrite part isSize v s
  | .s1rootWrite part as v => Sys2Proof.Machine.execS1rootWrite part as v s
  | .surfaceBind part surf v => Sys2Proof.Machine.execSurfaceBind part surf v s
  | .surfaceUnbind part surf => Sys2Proof.Machine.execSurfaceUnbind part surf s
  | .taskTypeWrite part n v => Sys2Proof.Machine.execTaskTypeWrite part n v s
  | .registerWrite off v => Sys2Proof.Machine.execRegisterWrite off v s
  | .powerLoss rail => Sys2Proof.Machine.execPowerLoss rail s
  | .softError source corrected data => Sys2Proof.Machine.execSoftError source corrected data s
  | .tempReachesHot temp => Sys2Proof.Machine.execTempReachesHot temp s
  | .displaySinkChange head present => Sys2Proof.Machine.execDisplaySinkChange head present s

end Sys2Proof.Machine
end

