-- ==== Sys2Proof/Machine/Step.lean ====
section
/-! DEFINITION. One step: the issue slot of one core, or an event. -/

namespace Sys2Proof.Machine

/-- An instruction runs in the slot, one that has not completed is kept, and the slot passes. -/
def runSlot (s : State) : Host.Outcome State Fault Refusal :=
  match s.slot with
  | .bubble s1 => .next (s1.unforce s).tick
  | .go s1 i =>
    match exec i s1 with
    | .next s2 => .next (s2.keepRunning s1 i).tick
    | .fault f => .fault f
    | .refused r => .refused r

/-- One step: what `State.nextStep` says comes next. A device without power that no event reaches stops. -/
def step (s : State) : Host.Outcome State Fault Refusal :=
  match s.nextStep with
  | (s1, some e) => exec e s1
  | (s1, none) => if s.powered then runSlot s1 else .fault .poweredOff

/-- The state with an instruction placed where `step` fetches next. -/
def State.withFetchWord (s : State) (nbits w : Nat) : State := s.placeWord (tableBytes nbits w)

end Sys2Proof.Machine
end

