-- ==== Sys2Proof/Safety.lean ====
section
/-! DEFINITION. The terms that statements about the machine use: what counts as a safe run, when an instruction issues,
and what an instruction leaves unchanged. -/

namespace Sys2Proof.Machine

/-- A state from which the machine goes on. -/
def State.goesOn (s : State) : Prop := ∃ t, step s = .next t

/-- The value a source reads, with the sources read ahead of it (R46, R53); one of an instruction that goes on keeps the value
that it read at its issue (R140, R147). -/
def State.operand (s : State) (before : List Opnd) (o : Opnd) : Word := s.readOp s.cur s.actor before o

/-- What a register holds, as an instruction that issues now reads it after the sources ahead of it (R46, R53). -/
def State.reg (s : State) (before : List Opnd) (o : Opnd) : Word := s.regOp s.cur s.actor before o

/-- Every test of R143 up to an instruction's own part passes for the acting context, at an instruction that it has not issued
yet: the form may issue there (R141), it may name these registers (R46, R48, R52), its guard register has landed and the guard
holds (R140), and no result it must wait for is in flight (R51, R146, R147). -/
structure State.Tested (s : State) (g : Gate) (h : Hdr) (srcs dsts : List Opnd) : Prop where
  fresh   : s.me.going = false
  gate    : g.refuses s.actor = false
  reads   : ∀ o ∈ srcs, s.me.readable s.actor o = true
  writes  : ∀ o ∈ dsts, s.me.writable s.actor o = true
  guardIn : s.me.varPending (guardOpnd h) = false
  guardOk : s.me.checked s.actor = true → s.me.fixPending (s.core s.cur).turn (guardOpnd h) = false
  guard   : s.guardHolds s.cur s.actor h = true
  srcIn   : ∀ o ∈ srcs, s.me.varPending o = false
  dstIn   : ∀ o ∈ dsts, s.me.dstPending o = false
  landed  : s.me.checked s.actor = true → ∀ o ∈ srcs, s.me.fixPending (s.core s.cur).turn o = false

/-- Every queue register that an instruction names can serve it (R53). -/
structure State.Served (s : State) (srcs dsts : List Opnd) : Prop where
  pops   : ∀ o ∈ srcs, s.canPop s.cur s.actor srcs o = true
  pushes : ∀ o ∈ dsts, s.canPush s.cur s.actor o = true

/-- The acting context's instruction issues in this slot: every test passes, and its queue registers can serve it (R143). -/
def State.Issues (s : State) (g : Gate) (h : Hdr) (srcs dsts : List Opnd) : Prop :=
  s.Tested g h srcs dsts ∧ s.Served srcs dsts

/-- The acting context's instruction runs in this slot: it has issued before and goes on, its queue registers able to serve it
where it waited for them, or it issues now and every test passes (R140, R143, R152). -/
def State.Ready (s : State) (g : Gate) (h : Hdr) (srcs dsts : List Opnd) : Prop :=
  (s.me.going = true ∧ (s.me.woken = true → s.Served srcs dsts)) ∨ s.Issues g h srcs dsts

/-- The state after an instruction of `len` bytes completes: from the state its own effects left, the sources' pops, a
value for each destination with its latency, and the pc past it (R47, R53, R144, R145). -/
def State.doneFrom (s t : State) (h : Hdr) (len : Nat) (srcs : List Opnd) (dsts : List Dst) (vals : List Word) : State :=
  t.retire s.cur s.actor h len srcs dsts vals .fall

/-- The same for an instruction that has no effect of its own beside its results. -/
def State.done (s : State) (h : Hdr) (len : Nat) (srcs : List Opnd) (dsts : List Dst) (vals : List Word) : State :=
  s.doneFrom s h len srcs dsts vals

/-- The same for an instruction that leaves the pc at a target. -/
def State.doneAt (s : State) (h : Hdr) (srcs : List Opnd) (dsts : List Dst) (vals : List Word) (pc : Word) : State :=
  s.retire s.cur s.actor h 8 srcs dsts vals (.jump pc)

/-- The state after the acting context traps with a record's KIND, INFO and ARG. -/
def State.trapped (s : State) (kind : Nat) (info arg : Word) : State := s.takeTrap s.cur s.actor kind info arg

/-- The byte a cacheable load of a core reads: from its L1 where the byte is valid there, else from home (R94). -/
def State.coreByte (s : State) (c key : Nat) : Byte :=
  match (s.core c).l1.find (key / 16) with
  | some v => if v.valid.getLsbD (key % 16) then secByte v.data (key % 16) else s.byte key
  | none => s.byte key

/-- Every byte of memory and of every scratchpad, every core's L1, and the transactions posted, are the same in two
states. -/
def State.SameMemory (s t : State) : Prop :=
  (∀ key, t.byte key = s.byte key) ∧ (∀ c, (t.core c).l1 = (s.core c).l1) ∧ t.posted = s.posted

/-- Every dirty byte that a core's L1 holds has gone home in the second state, and no byte of a sector that it does not
hold has changed (R94, R109). -/
def State.WrittenBack (s : State) (c : Nat) (t : State) : Prop :=
  (∀ sec v, (s.core c).l1.find sec = some v → ∀ i, i < 16 →
    t.byte (16 * sec + i) = if v.dirty.getLsbD i then secByte v.data i else s.byte (16 * sec + i)) ∧
  ∀ key, (s.core c).l1.find (key / 16) = none → t.byte key = s.byte key

/-- No transaction that a core has posted precedes its transaction to a location (R99, R102). -/
def State.NothingPosted (s : State) (c : Nat) (hm : Bool) (key : Nat) : Prop :=
  ∀ e ∈ s.posted, s.ahead c hm key e = false

/-- The strand may use its core's engine now: it claims it, its earlier matrix copies are done, and no other operation
runs there (R244, R253). -/
def State.Engine (s s1 : State) : Prop :=
  s.claimGang s.cur (sidOf s.cur s.actor) (s.partOf s.cur) = some s1 ∧ s1.mxPending s.cur s.actor = false ∧
    s1.mxBusy s.cur (sidOf s.cur s.actor) = false

/-- The state after a matrix instruction's last part: its completion is on its way (R253). -/
def State.mxEnds (s : State) (h : Hdr) (len : Nat) (stat : Word) : State :=
  (s.onMe fun k => { k with
    busy := true, fin := some ⟨stat, k.pc + .ofNat 64 len, h.wait.toNat, true, []⟩ }).plan (.matrixCompletion s.cur s.actor)

end Sys2Proof.Machine
end

