-- ==== Sys2Proof/Certificates/Slice0/Obligations.lean ====
section
/-! DEFINITION. The statements for the provers. -/

open Sys2Proof Sys2Proof.Machine

/-! ### Register instructions: majors 0x01 to 0x06 -/

/-- R154: each IARITH form completes with the low bits of the exact result, extended by its type, after the latency of
R145. -/
def Claim.IntegerArithmetic : Prop :=
  ∀ (s : State) (h : Hdr) (ty : Ty) (d a b : Opnd), s.Ready .any h [a, b] [d] →
    let x := tyVal ty (s.operand [] a).toNat
    let y := tyVal ty (s.operand [a] b).toNat
    let w := tyBits ty
    let out := fun (lat : Nat) (t : Int) =>
      (.next (s.done h 8 [a, b] [(d, some lat)] [tyExtend ty (t % ((2 ^ w : Nat) : Int)).toNat]) : Res)
    exec (.add h ty d a b) s = out 1 (x + y) ∧
    exec (.sub h ty d a b) s = out 1 (x - y) ∧
    exec (.mul h ty d a b) s = out 2 (x * y) ∧
    exec (.mulh h ty d a b) s = out 2 (x * y / ((2 ^ w : Nat) : Int)) ∧
    exec (.div h ty d a b) s = out 4 (if y = 0 then 0 else x.tdiv y) ∧
    exec (.rem h ty d a b) s = out 4 (if y = 0 then x else x.tmod y) ∧
    exec (.min h ty d a b) s = out 1 (min x y) ∧
    exec (.max h ty d a b) s = out 1 (max x y)

/-- A function of two bit vectors at the width ILOGIC works at: 64 bits, or 32 with the sign extended (R155). -/
def atLogicWidth (f : (w : Nat) → BitVec w → BitVec w → BitVec w) (ty : Ty) (x y : Word) : Word :=
  if ty = .i64 then f 64 x y else (f 32 (x.setWidth 32) (y.setWidth 32)).signExtend 64

/-- R155: the logic, shift and rotate forms. A shift amount is the low 8 bits of the second source, unmasked. -/
def Claim.LogicAndShifts : Prop :=
  ∀ (s : State) (h : Hdr) (ty : Ty) (d a b : Opnd), s.Ready .any h [a, b] [d] →
    let x := s.operand [] a
    let y := s.operand [a] b
    let n := y.toNat % 256
    let out := fun (f : (w : Nat) → BitVec w → BitVec w → BitVec w) =>
      (.next (s.done h 8 [a, b] [(d, some 1)] [atLogicWidth f ty x y]) : Res)
    exec (.and h ty d a b) s = out (fun _ p q => p &&& q) ∧
    exec (.or h ty d a b) s = out (fun _ p q => p ||| q) ∧
    exec (.xor h ty d a b) s = out (fun _ p q => p ^^^ q) ∧
    exec (.andn h ty d a b) s = out (fun _ p q => p &&& ~~~q) ∧
    exec (.shl h ty d a b) s = out (fun _ p _ => p <<< n) ∧
    exec (.shr h ty d a b) s = out (fun _ p _ => p >>> n) ∧
    exec (.shra h ty d a b) s = out (fun _ p _ => p.sshiftRight n) ∧
    exec (.rot h ty d a b) s = out (fun w p _ => p.rotateRight (n % w))

/-- R155: the bit counts, each at 64 or 32 bits: CLZ the zeros above the highest 1, CTZ those below the lowest, POPC the
ones. -/
def Claim.BitCounts : Prop :=
  ∀ (s : State) (h : Hdr) (ty : Ty) (d a : Opnd), s.Ready .any h [a] [d] →
    let x := (s.operand [] a).toNat
    let w := if ty = .i64 then 64 else 32
    let out := fun (k : Nat) => (.next (s.done h 8 [a] [(d, some 1)] [.ofNat 64 k]) : Res)
    (∃ k, exec (.clz h ty d a) s = out k ∧ k ≤ w ∧ (∀ i, w - k ≤ i → i < w → x.testBit i = false) ∧
      (k < w → x.testBit (w - 1 - k) = true)) ∧
    (∃ k, exec (.ctz h ty d a) s = out k ∧ k ≤ w ∧ (∀ i, i < k → x.testBit i = false) ∧ (k < w → x.testBit k = true)) ∧
    exec (.popc h ty d a) s = out ((List.range w).countP fun i => x.testBit i)

/-- The logic, shift, rotate and bit-count forms. -/
def Obligations.LogicShiftsAndBitCounts : Prop := Claim.LogicAndShifts ∧ Claim.BitCounts

/-- R156: the immediate forms, all at 64 bits. -/
def Claim.ImmediateForms : Prop :=
  ∀ (s : State) (h : Hdr) (d a : Opnd) (i : BitVec 20) (n : BitVec 8), s.Ready .any h [a] [d] →
    let x := s.operand [] a
    let out := fun (v : Word) => (.next (s.done h 8 [a] [(d, some 1)] [v]) : Res)
    exec (.addi h d a i) s = out (x + i.signExtend 64) ∧
    exec (.andi h d a i) s = out (x &&& i.signExtend 64) ∧
    exec (.ori h d a i) s = out (x ||| i.signExtend 64) ∧
    exec (.xori h d a i) s = out (x ^^^ i.signExtend 64) ∧
    exec (.shli h d a n) s = out (x <<< n.toNat) ∧
    exec (.shri h d a n) s = out (x >>> n.toNat) ∧
    exec (.shrai h d a n) s = out (x.sshiftRight n.toNat)

/-- R157 to R159: MOV copies all 64 bits, LI loads its sign-extended constant, ADDPC adds its scaled offset to its own
address. -/
def Claim.MovesAndConstants : Prop :=
  ∀ (s : State) (h : Hdr) (d a : Opnd) (i : BitVec 52),
    (s.Ready .any h [a] [d] → exec (.mov h d a) s = .next (s.done h 8 [a] [(d, some 1)] [s.operand [] a])) ∧
    (s.Ready .any h [] [d] → exec (.li h d i) s = .next (s.done h 12 [] [(d, some 1)] [i.signExtend 64]) ∧
      exec (.addpc h d i) s = .next (s.done h 12 [] [(d, some 1)] [s.me.pc + i.signExtend 64 * 4]))

/-- Integer arithmetic, immediates, MOV, LI and ADDPC. -/
def Obligations.IntegerArithmeticAndConstants : Prop :=
  Claim.IntegerArithmetic ∧ Claim.ImmediateForms ∧ Claim.MovesAndConstants

/-- R160, R161: SEL reads all three sources and keeps one; EXT takes a field, its missing high bits zero; INS replaces
one, the bits past bit 63 dropped. -/
def Claim.SelectAndFields : Prop :=
  ∀ (s : State) (h : Hdr) (d a b c : Opnd) (pos lenm1 : BitVec 6) (sg : Bool),
    (s.Ready .any h [a, b, c] [d] → exec (.sel h d a b c) s = .next (s.done h 8 [a, b, c] [(d, some 1)]
      [if s.operand [a, b] c ≠ 0 then s.operand [] a else s.operand [a] b])) ∧
    (s.Ready .any h [a] [d] → ∃ r, exec (.ext h d a pos lenm1 sg) s = .next (s.done h 8 [a] [(d, some 1)] [r]) ∧
      (∀ i, i ≤ lenm1.toNat → r.getLsbD i = (s.operand [] a).getLsbD (pos.toNat + i)) ∧
      (∀ i, lenm1.toNat < i → i < 64 →
        r.getLsbD i = (sg && (s.operand [] a).getLsbD (pos.toNat + lenm1.toNat)))) ∧
    (s.Ready .any h [a, b] [d] → ∃ r, exec (.ins h d a b pos lenm1) s = .next (s.done h 8 [a, b] [(d, some 1)] [r]) ∧
      ∀ i, i < 64 → r.getLsbD i = if pos.toNat ≤ i ∧ i ≤ pos.toNat + lenm1.toNat
        then (s.operand [a] b).getLsbD (i - pos.toNat) else (s.operand [] a).getLsbD i)

/-- R162, R163: CMP and CMPI write 1 where their relation holds at the type's width, else 0; CLOG writes its table's bit
for the two truth values. -/
def Claim.Comparisons : Prop :=
  ∀ (s : State) (h : Hdr) (d a b : Opnd) (ty : Ty) (i : BitVec 14) (tbl : BitVec 4),
    let holds := fun (rel : BitVec 3) (p q : Word) =>
      let w := tyBits ty
      let x := tyVal ty p.toNat
      let y := tyVal ty q.toNat
      match rel.toNat with
      | 0 => decide (x = y)
      | 1 => decide (x ≠ y)
      | 2 => decide (x < y)
      | 3 => decide (y ≤ x)
      | 4 => decide (x ≤ y)
      | 5 => decide (y < x)
      | 6 => decide ((p.toNat &&& q.toNat) % 2 ^ w = 0)
      | _ => decide ((p.toNat &&& q.toNat) % 2 ^ w ≠ 0)
    (s.Ready .any h [a, b] [d] →
      (∀ rel, exec (.cmp h d a b rel ty) s = .next (s.done h 8 [a, b] [(d, some 1)]
        [if holds rel (s.operand [] a) (s.operand [a] b) then 1 else 0])) ∧
      exec (.clog h d a b tbl) s = .next (s.done h 8 [a, b] [(d, some 1)]
        [if tbl.getLsbD ((if s.operand [] a ≠ 0 then 2 else 0) + if s.operand [a] b ≠ 0 then 1 else 0) then 1 else 0])) ∧
    (s.Ready .any h [a] [d] → ∀ rel, exec (.cmpi h d a rel ty i) s = .next (s.done h 8 [a] [(d, some 1)]
      [if holds rel (s.operand [] a) (i.signExtend 64) then 1 else 0]))

/-- Comparisons, CLOG, SEL, EXT and INS. -/
def Obligations.ComparisonsAndFields : Prop := Claim.Comparisons ∧ Claim.SelectAndFields

/-- R164: the packed forms, lane by lane. The lane operation gives a lane of the result from the two source lanes. -/
def Claim.PackedLanes : Prop :=
  ∀ (s : State) (h : Hdr) (ty : Ty) (d a b : Opnd), s.Ready .any h [a, b] [d] →
    let w := tyBits ty
    let n := fun (y : Nat) => y % 256
    let out := fun (i : Instr) (lat : Nat) (f : Nat → Nat → Nat) =>
      ∃ r : Word, exec i s = .next (s.done h 8 [a, b] [(d, some lat)] [r]) ∧
        ∀ k, k < 64 / w → fld r (k * w) w = f (fld (s.operand [] a) (k * w) w) (fld (s.operand [a] b) (k * w) w) % 2 ^ w
    let clamp := fun (v : Int) => (max (tyMin ty) (min v (tyMax ty)) % ((2 ^ w : Nat) : Int)).toNat
    out (.padd h ty d a b) 1 (fun x y => x + y) ∧
    out (.psub h ty d a b) 1 (fun x y => x + (2 ^ w - y)) ∧
    out (.padds h ty d a b) 1 (fun x y => clamp (tyVal ty x + tyVal ty y)) ∧
    out (.psubs h ty d a b) 1 (fun x y => clamp (tyVal ty x - tyVal ty y)) ∧
    out (.pmul h ty d a b) 2 (fun x y => x * y) ∧
    out (.pmin h ty d a b) 1 (fun x y => if tyVal ty x ≤ tyVal ty y then x else y) ∧
    out (.pmax h ty d a b) 1 (fun x y => if tyVal ty x ≥ tyVal ty y then x else y) ∧
    out (.pshl h ty d a b) 1 (fun x y => if w ≤ n y then 0 else x * 2 ^ n y) ∧
    out (.pshr h ty d a b) 1 (fun x y => x / 2 ^ n y) ∧
    out (.pshra h ty d a b) 1 (fun x y => ((BitVec.ofNat w x).sshiftRight (n y)).toNat)

/-- The packed forms act lane by lane. -/
def Obligations.PackedLanes : Prop := Claim.PackedLanes

/-! ### Floating point and control -/

/-- How a scalar float instruction ends (R166), from the state its own effects left: its flags are set in ff; with none of
them enabled it delivers its result, else the strand traps with KIND 4, the enabled ones in INFO, and no result. That the
flags go into ff before a result to ff is delivered is the model's choice (log entry 99). -/
def floatEndFrom (s u : State) (h : Hdr) (srcs : List Opnd) (d : Opnd) (lat : Option Nat) (v : Word) (flags : Nat) : Res :=
  let on := flags &&& (s.me.ff.toNat / 2 ^ 16 % 32)
  let t := u.onMe fun k => { k with ff := k.ff ||| .ofNat 64 (flags % 32) }
  .next (if on = 0 then s.doneFrom t h 8 srcs [(d, lat)] [v] else t.takeTrap s.cur s.actor 4 (.ofNat 64 on) 0)

/-- The end of a scalar float instruction, which waits while a variable-latency result to ff is outstanding (R146; log entry
94). -/
def floatEnd (s : State) (h : Hdr) (srcs : List Opnd) (d : Opnd) (lat : Option Nat) (v : Word) (flags : Nat) : Res :=
  if s.me.ffPending then .next s else floatEndFrom s s h srcs d lat v flags

/-- R166, R169, with the order of log entry 99: FADD, FSUB, FMUL and FMA round the exact result of their operands' values
once, to the operation's format, after the latency of R145; a NaN operand or an invalid operation gives the canonical
NaN. -/
def Claim.FloatArithmetic : Prop :=
  ∀ (s : State) (h : Hdr) (ty : Ty) (d a b c : Opnd) (rm : BitVec 2),
    let f := fmtOf ty
    let val := fun (before : List Opnd) (o : Opnd) => f.value ((s.operand before o).toNat % 2 ^ tyBits ty)
    let x := val [] a
    let y := val [a] b
    let lat := some (if ty = .f64 then 3 else 2)
    let out := fun (srcs : List Opnd) (r : FVal × Nat) =>
      floatEnd s h srcs d lat (.ofNat 64 ((f.ofVal rm.toNat r.1).1 % 2 ^ tyBits ty)) (r.2 ||| (f.ofVal rm.toNat r.1).2)
    (s.Ready .any h [a, b] [d] →
      exec (.fadd h ty d a b rm) s = out [a, b] (fAdd rm.toNat x y) ∧
      exec (.fsub h ty d a b rm) s = out [a, b] (fAdd rm.toNat x y.neg) ∧
      exec (.fmul h ty d a b rm) s = out [a, b] (fMul x y)) ∧
    (s.Ready .any h [a, b, c] [d] → exec (.fma h ty d a b c rm) s = out [a, b, c] (fFma rm.toNat x y (val [a, b] c)))

/-- R68: rounding a positive exact value `m × 2^e` to an IEEE format keeps it when the format holds it, and otherwise
gives one of its two neighbours: the lower one rounding toward zero or down, the upper one rounding up. -/
def Claim.DirectedRounding : Prop :=
  ∀ (ty : Ty) (m : Nat) (e : Int), m ≠ 0 → ty.isFloat = true →
    let f := fmtOf ty
    let lo := (f.round false 2 false m e false).1
    let hi := (f.round false 3 false m e false).1
    (f.round false 1 false m e false).1 = lo ∧ (hi = lo ∨ hi = lo + 1) ∧
      (hi = lo ↔ (f.round false 0 false m e false).2 = 0) ∧
      ((f.round false 0 false m e false).1 = lo ∨ (f.round false 0 false m e false).1 = hi)

/-- R67, R70: a NaN operand gives FADD, FMUL and FDIV the canonical NaN, of sign 0; FMIN and FMAX return the other
operand, and the canonical NaN only for two NaNs; a signalling one raises NV. -/
def Claim.NanResults : Prop :=
  ∀ (ty : Ty) (rm : Nat) (a b : Nat), ty.isFloat = true → a < 2 ^ tyBits ty → b < 2 ^ tyBits ty →
    let f := fmtOf ty
    let na := (f.value a).isNan
    let nb := (f.value b).isNan
    let sig := (f.value a).snan || (f.value b).snan
    ((na || nb) = true → (f.add rm a b).1 = f.nanCode ∧ (f.mul rm a b).1 = f.nanCode ∧ (f.div rm a b).1 = f.nanCode) ∧
    (∀ big, (f.minMax big a b).1 = (if na && nb then f.nanCode else if na then b else if nb then a else
      (f.minMax big a b).1) ∧ (f.minMax big a b).2 = if sig then 16 else 0)

/-- Directed rounding brackets the exact value; NaN results. -/
def Obligations.RoundingAndNan : Prop := Claim.DirectedRounding ∧ Claim.NanResults

/-- R170 to R173, with the order of log entry 99: FMIN and FMAX with their NV, FSGN and FCLASS on the code's bits, and
FCMP, which is unordered whenever an operand is NaN; each has latency 1, and FSGN and FCLASS raise no flag. -/
def Claim.FloatSelectAndTest : Prop :=
  ∀ (s : State) (h : Hdr) (ty : Ty) (d a b : Opnd) (sop : BitVec 2) (rel : BitVec 3) (q : Bool), ty.isFloat = true →
    let f := fmtOf ty
    let w := tyBits ty
    let x := (s.operand [] a).toNat % 2 ^ w
    let y := (s.operand [a] b).toNat % 2 ^ w
    let u := f.value x
    let v := f.value y
    let nan := u.isNan || v.isNan
    (s.Ready .any h [a, b] [d] →
      exec (.fmin h ty d a b) s =
        floatEnd s h [a, b] d (some 1) (.ofNat 64 (f.minMax false x y).1) (if u.snan || v.snan then 16 else 0) ∧
      exec (.fmax h ty d a b) s =
        floatEnd s h [a, b] d (some 1) (.ofNat 64 (f.minMax true x y).1) (if u.snan || v.snan then 16 else 0) ∧
      exec (.fsgn h ty d a b sop) s = .next (s.done h 8 [a, b] [(d, some 1)] [.ofNat 64 (x % 2 ^ (w - 1) +
        2 ^ (w - 1) * ((if sop.toNat = 0 then 0 else if sop.toNat = 1 then 1 else x / 2 ^ (w - 1)) + y / 2 ^ (w - 1)) %
          2 ^ w)]) ∧
      exec (.fcmp h ty d a b rel q) s = floatEnd s h [a, b] d (some 1)
        (if (match rel.toNat with
          | 0 => u.eq v | 1 => !u.eq v | 2 => !nan && u.lt v | 3 => !nan && !v.lt u | 4 => !nan && v.lt u
          | 5 => !nan && !u.lt v | 6 => nan | _ => !nan) then 1 else 0)
        (if u.snan || v.snan || (nan && !q && decide (2 ≤ rel.toNat) && decide (rel.toNat ≤ 5)) then 16 else 0)) ∧
    (s.Ready .any h [a] [d] → ∃ k, k < 10 ∧
      exec (.fclass h ty d a) s = .next (s.done h 8 [a] [(d, some 1)] [.ofNat 64 (2 ^ k)]) ∧
      (8 ≤ k ↔ u.isNan = true) ∧ (k = 3 ∨ k = 4 ↔ u.isZero = true) ∧ (k = 8 ↔ u.snan = true))

/-- Float arithmetic, selection, sign, class and comparison. -/
def Obligations.FloatForms : Prop := Claim.FloatArithmetic ∧ Claim.FloatSelectAndTest

/-- An FSFU form's turn (R175, R176), with its function's number, value and flags. While the unit is busy or another
context's turn has come, it asks and waits. When the unit takes it, with no trap enabled it issues, its flags coming with
the end of the service; with one enabled it stays at its instruction (log entry 100), and what the unit then delivers ends
it as a float instruction. -/
def specialTurn (s : State) (h : Hdr) (srcs : List Opnd) (d : Opnd) (time : Nat) (r : Word × Nat) (i : Instr) : Prop :=
  let c := s.cur
  let x := s.actor
  let taken := fun (held : Option Word) => s.onCore c (·.sfuTake x (some ⟨x, (s.core c).cycle + time, r.2, held⟩))
  (s.me.sfuOut = none → s.me.ffPending = false → s.me.busy = false →
    ((s.core c).sfuTurn x = true → tenOf s.me.ff = 0 →
      exec i s = .next (s.doneFrom (taken none) h 8 srcs [(d, none)] [r.1])) ∧
    ((s.core c).sfuTurn x = true → tenOf s.me.ff ≠ 0 →
      exec i s = .next ((taken (some r.1)).onMe fun k => { k with busy := true })) ∧
    ((s.core c).sfuTurn x = false → exec i s = .next (s.onCore c (·.sfuAsk x)))) ∧
  (∀ v fl, s.me.sfuOut = some (v, fl) →
    exec i s = floatEndFrom s (s.onMe fun k => { k with sfuOut := none, busy := false }) h srcs d none v fl)

/-- R174: the special operands of the FSFU forms, and the results at the points where the value is known. 2^n, log₂ of a power
of two, and sine and cosine at a multiple of a half are the exact values, rounded once; a quotient, a square root and a
reciprocal square root are rounded once from a quotient or root cut to more bits than the format has, with the rest told. -/
def Claim.ExactPoints : Prop :=
  ∀ (ty : Ty) (rm : Nat), ty.isFloat = true →
    let f := fmtOf ty
    let rounds := fun (neg : Bool) (m : Nat) (e : Int) (rest : Bool) => f.round false rm neg m e rest
    let whole := fun (neg : Bool) (m : Nat) (e n : Int) =>
      (if neg then -(m : Int) else (m : Int)) * (2 : Int) ^ e.toNat = n * (2 : Int) ^ (-e).toNat
    (∀ (neg : Bool) (m : Nat) (e n : Int), whole neg m e n → -4000 ≤ n → n ≤ 4000 →
      f.exp2V rm (.fin neg m e) = rounds false 1 n false) ∧
    (∀ (l : Nat) (e : Int), f.log2V rm (.fin false (2 ^ l) e) = rounds (decide (e + l < 0)) (e + l).natAbs 0 false) ∧
    (∀ (neg : Bool) (m : Nat) (e n : Int), whole neg m e n → f.sinV rm (.fin neg m e) = (f.zeroCode neg, 0) ∧
      f.cosV rm (.fin neg m e) = rounds (decide (n % 2 = 1)) 1 0 false) ∧
    (∀ (neg : Bool) (m : Nat) (e n : Int), whole neg (2 * m) e n → n % 2 = 1 →
      f.cosV rm (.fin neg m e) = (f.zeroCode false, 0) ∧
      f.sinV rm (.fin neg m e) = rounds (decide (n % 4 = 3)) 1 0 false) ∧
    (∀ (m : Nat) (e : Int), m ≠ 0 → ∃ r k : Nat, (e - k) % 2 = 0 ∧ r * r ≤ m * 2 ^ k ∧ m * 2 ^ k < (r + 1) * (r + 1) ∧
      2 ^ (f.mw + 2) ≤ r ∧
      f.sqrtV rm (.fin false m e) = rounds false r ((e - k) / 2) (decide (r * r ≠ m * 2 ^ k))) ∧
    (∀ (m : Nat) (e : Int), m ≠ 0 → ∃ (r k m1 : Nat) (e1 : Int),
      ((e = 2 * e1 ∧ m1 = m) ∨ (e = 2 * e1 + 1 ∧ m1 = 2 * m)) ∧
      r * r * m1 ≤ 2 ^ (2 * k) ∧ 2 ^ (2 * k) < (r + 1) * (r + 1) * m1 ∧ 2 ^ (f.mw + 2) ≤ r ∧
      f.rsqV rm (.fin false m e) = rounds false r (-e1 - k) (decide (r * r * m1 ≠ 2 ^ (2 * k)))) ∧
    (∀ (na nb : Bool) (ma mb : Nat) (ea eb : Int), ma ≠ 0 → mb ≠ 0 → ∃ q k : Nat,
      q * mb ≤ ma * 2 ^ k ∧ ma * 2 ^ k < (q + 1) * mb ∧ 2 ^ (f.mw + 2) ≤ q ∧
      f.divV rm (.fin na ma ea) (.fin nb mb eb) = rounds (na != nb) q (ea - eb - k) (decide (q * mb ≠ ma * 2 ^ k))) ∧
    (∀ (neg : Bool) (e : Int) (x y : Bool), f.divV rm (.fin x 1 0) (.fin neg 0 e) = (f.infCode (x != neg), fDZ) ∧
      f.divV rm (.fin x 0 0) (.fin neg 0 e) = (f.nanCode, fNV) ∧
      f.divV rm (.inf x) (.inf y) = (f.nanCode, fNV) ∧ f.divV rm (.fin x 1 0) (.inf y) = (f.zeroCode (x != y), 0) ∧
      f.sqrtV rm (.fin neg 0 e) = (f.zeroCode neg, 0) ∧ f.rsqV rm (.fin neg 0 e) = (f.infCode neg, fDZ) ∧
      f.log2V rm (.fin neg 0 e) = (f.infCode true, fDZ) ∧ f.tanhV rm (.fin neg 0 e) = (f.zeroCode neg, 0)) ∧
    (∀ (m : Nat) (e : Int), m ≠ 0 → f.sqrtV rm (.fin true m e) = (f.nanCode, fNV) ∧ f.rsqV rm (.fin true m e) = (f.nanCode, fNV) ∧
      f.log2V rm (.fin true m e) = (f.nanCode, fNV)) ∧
    (∀ neg, f.exp2V rm (.inf neg) = (if neg then f.zeroCode false else f.infCode false, 0) ∧
      f.sqrtV rm (.inf neg) = (if neg then (f.nanCode, fNV) else (f.infCode false, 0)) ∧
      f.rsqV rm (.inf neg) = (if neg then (f.nanCode, fNV) else (f.zeroCode false, 0)) ∧
      f.log2V rm (.inf neg) = (if neg then (f.nanCode, fNV) else (f.infCode false, 0)) ∧
      f.sinV rm (.inf neg) = (f.nanCode, fNV) ∧ f.cosV rm (.inf neg) = (f.nanCode, fNV) ∧
      f.tanhV rm (.inf neg) = rounds neg 1 0 false)

/-- R174 to R176, with the order of log entry 99: each FSFU form takes its turn at the special-function unit for the
service time of its function, with the value and flags of that function. What FEXP2, FLOG2, FSIN, FCOS and FTANH are away from
the points of `Claim.ExactPoints` is named here only through the model's own functions. -/
def Claim.SpecialFunctions : Prop :=
  ∀ (s : State) (h : Hdr) (ty : Ty) (d a b : Opnd) (rm : BitVec 2),
    let f := fmtOf ty
    let x := (s.operand [] a).toNat % 2 ^ tyBits ty
    let ends := fun (srcs : List Opnd) (time : Nat) (r : Nat × Nat) (i : Instr) =>
      specialTurn s h srcs d time (.ofNat 64 (r.1 % 2 ^ tyBits ty), r.2) i
    let wide := fun (n m : Nat) => if ty = .f64 then n else m
    (s.Ready .any h [a, b] [d] →
      ends [a, b] (wide 40 12) (f.div rm.toNat x ((s.operand [a] b).toNat % 2 ^ tyBits ty)) (.fdiv h ty d a b rm)) ∧
    (s.Ready .any h [a] [d] →
      ends [a] (wide 40 12) (f.sqrtV rm.toNat (f.value x)) (.fsqrt h ty d a rm) ∧
      ends [a] (wide 36 12) (f.divV rm.toNat (.fin false 1 0) (f.value x)) (.frcp h ty d a rm) ∧
      ends [a] (wide 36 12) (f.rsqV rm.toNat (f.value x)) (.frsq h ty d a rm) ∧
      ends [a] 16 (f.exp2V rm.toNat (f.value x)) (.fexp2 h ty d a rm) ∧
      ends [a] 16 (f.log2V rm.toNat (f.value x)) (.flog2 h ty d a rm) ∧
      ends [a] 20 (f.sinV rm.toNat (f.value x)) (.fsin h ty d a rm) ∧
      ends [a] 20 (f.cosV rm.toNat (f.value x)) (.fcos h ty d a rm) ∧
      ends [a] 20 (f.tanhV rm.toNat (f.value x)) (.ftanh h ty d a rm))

/-- R167, R168, with the order of log entry 99: CVT converts between scalar types, integer sources exactly and saturating;
CVTN converts to and from the narrow format its descriptor names, and traps as illegal-operand on a descriptor that R75
refuses. -/
def Claim.Conversions : Prop :=
  ∀ (s : State) (h : Hdr) (ty src : Ty) (d a b : Opnd) (rm : BitVec 2),
    let x := (s.operand [] a).toNat
    let nf := s.operand [a] b
    (s.Ready .any h [a] [d] →
      (tyFloat ty = false → tyFloat src = false → ty ≠ .m8 → src ≠ .m8 →
        exec (.cvt h ty d a rm src) s = floatEnd s h [a] d (some 2)
          (tyExtend ty (max (tyMin ty) (min (tyVal src x) (tyMax ty)) % ((2 ^ tyBits ty : Nat) : Int)).toNat) 0) ∧
      (tyFloat ty = true → exec (.cvt h ty d a rm src) s =
        let r := (fmtOf ty).ofVal rm.toNat (tyValue src x)
        floatEnd s h [a] d (some 2) (.ofNat 64 (r.1 % 2 ^ tyBits ty)) r.2)) ∧
    (s.Ready .any h [a, b] [d] →
      (narrowOk nf = true →
        exec (.cvtn h ty d a b rm false) s =
          (let r := (narrowFmt nf).toNarrow (tyValue ty x); floatEnd s h [a, b] d (some 2) (.ofNat 64 r.1) r.2.1) ∧
        (tyFloat ty = true → exec (.cvtn h ty d a b rm true) s =
          let r := (fmtOf ty).ofVal rm.toNat ((narrowFmt nf).value (x % 2 ^ narrowBits nf))
          floatEnd s h [a, b] d (some 2) (.ofNat 64 (r.1 % 2 ^ tyBits ty)) r.2)) ∧
      (narrowOk nf = false → ∀ dir, exec (.cvtn h ty d a b rm dir) s = .next (s.trapped 2 0 0)))

/-- R177 to R183: NOP takes its slot; BR, J and JL go to their scaled offset from their own address, JR to one from a
register, JL and JR keeping the address after themselves; LOOP counts down and falls through at 0. -/
def Claim.BranchesAndNop : Prop :=
  ∀ (s : State) (h : Hdr) (d a : Opnd) (o : BitVec 20) (j : BitVec 52),
    let pc := s.me.pc
    let aim := fun (base : Word) => base + o.signExtend 64 * 4
    (s.Ready .any h [] [] →
      exec (.nop h) s = .next (s.done h 8 [] [] []) ∧
      exec (.br h o) s = .next (s.doneAt h [] [] [] (aim pc)) ∧
      exec (.j h j) s = .next (s.doneAt h [] [] [] (pc + j.signExtend 64 * 4))) ∧
    (s.Ready .any h [] [d] → exec (.jl h d o) s = .next (s.doneAt h [] [(d, some 1)] [pc + 8] (aim pc))) ∧
    (s.Ready .any h [a] [d] →
      exec (.jr h d a o) s = .next (s.doneAt h [a] [(d, some 1)] [pc + 8] (aim (s.operand [] a))) ∧
      exec (.loop h d a o) s = .next (if s.operand [] a = 1 then s.done h 8 [a] [(d, some 1)] [0]
        else s.doneAt h [a] [(d, some 1)] [s.operand [] a - 1] (aim pc)))

/-- R181: TSTS reads the status word at its address, rounded down to 16, tests its low half against the mask, writes the
truth value and branches when it is 1. -/
def Claim.StatusWordTest : Prop :=
  ∀ (s t : State) (h : Hdr) (d a b : Opnd) (o : BitVec 13) (p : Place), s.Ready .any h [a, b] [d] →
    s.access s.cur s.actor (s.operand [] a &&& ~~~15#64) 16 16 0 0 = (t, .ok p) →
    let r := t.loadAt s.cur s.actor p 16
    exec (.tsts h d a b o) s = .next (if BitVec.ofNat 64 r.2 &&& s.operand [a] b = 0
      then s.doneFrom r.1 h 8 [a, b] [(d, some 1)] [0]
      else r.1.retire s.cur s.actor h 8 [a, b] [(d, some 1)] [1] (.jump (s.me.pc + o.signExtend 64 * 4)))

/-- R184, R345: TRAP and BRK raise a record of KIND 0x0A and 0x0B with the code in INFO and the argument in ARG. -/
def Claim.TrapAndBreak : Prop :=
  ∀ (s : State) (h : Hdr) (a : Opnd) (code : BitVec 20), s.Ready .any h [a] [] →
    exec (.trap h a code) s = .next (s.trapped 0x0A (code.setWidth 64) (s.operand [] a)) ∧
    exec (.brk h a code) s = .next (s.trapped 0x0B (code.setWidth 64) (s.operand [] a))

/-- Branches, LOOP, NOP, TSTS, TRAP and BRK. -/
def Obligations.BranchesAndTraps : Prop := Claim.BranchesAndNop ∧ Claim.TrapAndBreak ∧ Claim.StatusWordTest

/-! ### Memory -/

/-- R189, R190: a load whose access is allowed reads its element at the place, extends it by its type (R62), and delivers
it as a variable-latency result, whose read may be performed again until it lands (R107; log entry 102); LDX adds the scaled
index, LDP is relative to the instruction's own address. -/
def Claim.Loads : Prop :=
  ∀ (s t : State) (h : Hdr) (ty : Ty) (d a b : Opnd) (o : BitVec 20) (o13 : BitVec 13) (p : Place),
    let w := tyBytes ty
    let reads := fun (addr : Word) => s.access s.cur s.actor addr w w 0 0 = (t, .ok p)
    let out := fun (srcs : List Opnd) => (.next (s.doneFrom
      ((t.loadAt s.cur s.actor p w).1.onCtx s.cur s.actor fun k => { k with reading := some (p, ty) }) h 8 srcs [(d, none)]
      [tyExtend ty (t.loadAt s.cur s.actor p w).2]) : Res)
    (s.Ready .any h [a] [d] → reads (s.operand [] a + o.signExtend 64) → exec (.ld h ty d a o) s = out [a]) ∧
    (s.Ready .any h [a] [d] → reads (s.me.pc + s.operand [] a + o.signExtend 64) → exec (.ldp h ty d a o) s = out [a]) ∧
    (s.Ready .any h [a, b] [d] →
      reads (s.operand [] a + s.operand [a] b * .ofNat 64 w + o13.signExtend 64) →
      exec (.ldx h ty d a b o13) s = out [a, b])

/-- R189, R190: a store whose access is allowed writes the low bits of its value, lowest byte first, at the place. -/
def Claim.Stores : Prop :=
  ∀ (s t : State) (h : Hdr) (ty : Ty) (a b c : Opnd) (o : BitVec 20) (o13 : BitVec 13) (p : Place),
    let w := tyBytes ty
    let writes := fun (addr : Word) => s.access s.cur s.actor addr w w 1 1 = (t, .ok p)
    let out := fun (srcs : List Opnd) (v : Word) =>
      (.next (s.doneFrom (t.storeAt s.cur s.actor p (toBytes w v.toNat)) h 8 srcs [] []) : Res)
    (s.Ready .any h [a, b] [] → writes (s.operand [] a + o.signExtend 64) →
      exec (.st h ty a b o) s = out [a, b] (s.operand [a] b)) ∧
    (s.Ready .any h [a, b] [] → writes (s.me.pc + s.operand [] a + o.signExtend 64) →
      exec (.stp h ty a b o) s = out [a, b] (s.operand [a] b)) ∧
    (s.Ready .any h [a, b, c] [] →
      writes (s.operand [] a + s.operand [a] b * .ofNat 64 w + o13.signExtend 64) →
      exec (.stx h ty a b c o13) s = out [a, b, c] (s.operand [a, b] c))

/-- R94, log entry 102: a set with a free way, or one that holds the line, gives up nothing; a full one gives up one of its
lines, whose dirty bytes go home and whose sectors leave, and every other byte at home and every other sector stay. -/
def Claim.RoomInSet : Prop :=
  ∀ (s : State) (c line : Nat), 0 < (s.core c).ways →
    let r := s.makeRoom c line
    ((s.core c).l1Full line = false → r = s) ∧
    ((s.core c).l1Full line = true → ∃ v ∈ (s.core c).setLines line,
      (r.core c).lineHeld v = false ∧ (∀ key, key / 128 ≠ v → r.byte key = s.byte key) ∧
      (∀ sec, sec / 8 ≠ v → (r.core c).l1.find sec = (s.core c).l1.find sec) ∧
      ∀ k, k ≠ c → (r.core k).l1 = (s.core k).l1)

/-- R94, R190: what a store leaves unchanged. A store to a scratchpad of this core sets its own bytes and no other byte of
memory or of a scratchpad. A cacheable store of up to a sector, once its set has room, changes no byte at home and no
other core's L1; the core then reads the stored bytes, and every other byte as before. A store to another core's scratchpad
or to another device is posted, and no byte changes yet. -/
def Claim.StoreFrame : Prop :=
  ∀ (s : State) (p : Place) (bs : List Byte) (x : Nat),
    let c := s.cur
    let t := s.storeAt c x p bs
    let r := s.makeRoom c (p.key / 128)
    let within := fun (key : Nat) => p.key ≤ key ∧ key < p.key + bs.length
    (s.isPosted c p = true → (∀ key, t.byte key = s.byte key) ∧ (∀ k, (t.core k).l1 = (s.core k).l1) ∧
      t.posted = s.posted ++ [.store c x p.key bs true]) ∧
    (s.isPosted c p = false → s.NothingPosted c p.hm p.key →
      (ownScr ≤ p.key → p.cached = false → (∀ k, (t.core k).l1 = (s.core k).l1) ∧
        ∀ key, t.byte key = if within key then bs.getD (key - p.key) 0 else s.byte key) ∧
      (p.cached = true → p.key % 16 + bs.length ≤ 16 → (∀ key, t.byte key = r.byte key) ∧
        (∀ k, k ≠ c → (t.core k).l1 = (s.core k).l1) ∧
        ∀ key, t.coreByte c key = if within key then bs.getD (key - p.key) 0 else r.coreByte c key))

/-- The form of an L1 sector (R94): every byte is filled or written, or the valid bytes are the written ones. -/
def Sys2Proof.Machine.Sector.Form (v : Sector) : Prop := v.valid = 0xFFFF ∨ v.valid = v.dirty

/-- Every sector of every L1 has that form. -/
def Sys2Proof.Machine.State.L1Form (s : State) : Prop :=
  ∀ c sec v, (s.core c).l1.find sec = some v → v.Form

/-- R94: the L1's operations keep the form of its sectors: a cacheable load and store, a writeback, a dropped sector and a
Refresh's invalidation, and making room in a set. -/
def Claim.SectorFormKept : Prop :=
  ∀ (s : State) (c mpa n v sec : Nat) (sh hm : Bool) (w : Word) (f : Summary), s.L1Form →
    (s.l1Load c mpa n sh hm).1.L1Form ∧ (s.l1Store c mpa n v sh hm).L1Form ∧ (s.writeback c sec w).L1Form ∧
    (s.dropSector c sec).L1Form ∧ (s.invalidate c f).L1Form ∧ (s.makeRoom c sec).L1Form

/-- R190: a load, once its set has room where it must fetch, changes no byte at home, no other core's L1 and no byte the
core reads; a cacheable load of up to a sector returns the bytes the core reads there, lowest byte first. -/
def Claim.LoadFrame : Prop :=
  ∀ (s : State) (p : Place) (n x : Nat), s.L1Form → s.NothingPosted s.cur p.hm p.key → p.cached = true →
    p.key % 16 + n ≤ 16 →
    let t := (s.loadAt s.cur x p n).1
    ∃ r : State, (r = s ∨ r = s.makeRoom s.cur (p.key / 128)) ∧
      (∀ key, t.byte key = r.byte key) ∧ (∀ k, k ≠ s.cur → (t.core k).l1 = (s.core k).l1) ∧
      (∀ key, t.coreByte s.cur key = r.coreByte s.cur key) ∧
      (s.loadAt s.cur x p n).2 = ofBytes ((List.range n).map fun i => r.coreByte s.cur (p.key + i))

/-- What loads and stores leave unchanged. -/
def Obligations.MemoryFrames : Prop := Claim.RoomInSet ∧ Claim.StoreFrame ∧ Claim.LoadFrame ∧ Claim.SectorFormKept

/-- R186: a load or store traps before anything is read or written: alignment first, then decoding, with the address in
ARG, as KIND 5 and KIND 6. -/
def Claim.AccessTraps : Prop :=
  ∀ (s : State) (h : Hdr) (ty : Ty) (d a b : Opnd) (o : BitVec 20),
    let w := tyBytes ty
    let addr := s.operand [] a + o.signExtend 64
    (addr.toNat % w ≠ 0 →
      (s.Ready .any h [a] [d] → exec (.ld h ty d a o) s = .next (s.trapped 5 0 addr)) ∧
      (s.Ready .any h [a, b] [] → exec (.st h ty a b o) s = .next (s.trapped 5 0 addr))) ∧
    (∀ cause, addr.toNat % w = 0 →
      (s.Ready .any h [a] [d] → s.decodeAddr s.cur s.actor addr w false = .error cause →
        exec (.ld h ty d a o) s = .next (s.trapped 6 (.ofNat 64 cause) addr)) ∧
      (s.Ready .any h [a, b] [] → s.decodeAddr s.cur s.actor addr w true = .error cause →
        exec (.st h ty a b o) s = .next (s.trapped 6 (.ofNat 64 (cause + 1024)) addr)))

/-- R192, R193: an atomic with a destination, allowed at its place, reads the old value, writes the new one in one step
and returns the old one extended by its type: AMO by its operation, CAS only on equality, AMOF as a rounded sum whose
flags ff gains, once no result to ff is outstanding. The core's own copy of the sector goes first, and what the core has
sent there before is performed; to another device it leaves by a port of its route (R390). -/
def Claim.Atomics : Prop :=
  ∀ (s t : State) (h : Hdr) (ty : Ty) (d a b c : Opnd) (op : BitVec 3) (p : Place), d ≠ 0#7 →
    s.access s.cur s.actor (s.operand [] a) (tyBytes ty) (tyBytes ty) 1 1 = (t, .ok p) →
    let t1 := (((t.mark s.cur s.actor p.region).clearSector s.cur s.actor p.key).drain s.cur p.hm p.key).transact p.key
    let old := t1.loadN p.key (tyBytes ty)
    let y := (s.operand [a] b).toNat % 2 ^ tyBits ty
    let out := fun (srcs : List Opnd) (new : Option Nat) (flags : Nat) =>
      let t2 := match new with
        | none => t1
        | some n => t1.writeAt (t1.partOf s.cur) p.hm p.key (toBytes (tyBytes ty) n) (byStrand s.cur s.actor)
      (.next (s.doneFrom (t2.onCtx s.cur s.actor fun k => { k with ff := k.ff ||| .ofNat 64 (flags % 32) }) h 8 srcs
        [(d, none)] [tyExtend ty old]) : Res)
    t1.inSize p.key (tyBytes ty) = true →
    (s.Ready .any h [a, b] [d] →
      (op.toNat ≠ 7 → exec (.amo h ty d a b op) s = out [a, b] (some (match op.toNat with
        | 0 => (old + y) % 2 ^ tyBits ty
        | 1 => old &&& y
        | 2 => old ||| y
        | 3 => old ^^^ y
        | 4 => if tyVal ty old ≤ tyVal ty y then old else y
        | 5 => if tyVal ty y ≤ tyVal ty old then old else y
        | _ => y)) 0) ∧
      (s.me.ffPending = false → exec (.amof h ty d a b) s =
        (let r := (fmtOf ty).add 0 old y; out [a, b] (some r.1) r.2))) ∧
    (s.Ready .any h [a, b, c] [d] → exec (.cas h ty d a b c) s =
      out [a, b, c] (if old = y then some ((s.operand [a, b] c).toNat % 2 ^ tyBits ty) else none) 0)

/-- R194: an atomic whose destination is g0 is posted, AMO, AMOF and CAS alike: nothing is returned, and it is performed
later. That a posted AMOF sets no flag is log entry 11. -/
def Claim.PostedAtomics : Prop :=
  ∀ (s t : State) (h : Hdr) (ty : Ty) (a b c : Opnd) (op : BitVec 3) (p : Place),
    s.access s.cur s.actor (s.operand [] a) (tyBytes ty) (tyBytes ty) 1 1 = (t, .ok p) →
    let out := fun (srcs : List Opnd) (n : Nat) (e : Word) =>
      (.next (s.doneFrom (((t.mark s.cur s.actor p.region).clearSector s.cur s.actor p.key).postTrans
        (.amo s.cur s.actor p.key p.hm ty n (s.operand [a] b) e)) h 8 srcs [(0#7, some 1)] [0]) : Res)
    (s.Ready .any h [a, b] [0#7] →
      (op.toNat ≠ 7 → exec (.amo h ty 0#7 a b op) s = out [a, b] op.toNat 0) ∧
      exec (.amof h ty 0#7 a b) s = out [a, b] 7 0) ∧
    (s.Ready .any h [a, b, c] [0#7] → exec (.cas h ty 0#7 a b c) s = out [a, b, c] 8 (s.operand [a, b] c))

/-- Atomics with a destination, and posted ones. -/
def Obligations.AtomicForms : Prop := Claim.Atomics ∧ Claim.PostedAtomics

/-- R191: PREF never faults, and fills the line of a cacheable page, but not in a full set, which is log entry 71; CWB and
CINV write the line's dirty bytes back, CINV dropping its sectors; none touches a page that is not cacheable. -/
def Claim.CacheControl : Prop :=
  ∀ (s t : State) (h : Hdr) (a : Opnd) (o : BitVec 20) (p : Place), s.Ready .any h [a] [] →
    let r := s.place s.cur s.actor (s.operand [] a + o.signExtend 64) 1 1 0 0
    let line := lineSecs (p.key / 128)
    (∀ t e, r = (t, .error e) → exec (.pref h a o) s = .next (s.done h 8 [a] [] [])) ∧
    (r = (t, .ok p) →
      exec (.pref h a o) s = .next (s.doneFrom (if p.cached && !(t.core s.cur).l1Full (p.key / 128)
        then line.foldl (init := t) fun u sec => if ((u.core s.cur).l1.find sec).isSome then u
          else (u.l1Load s.cur (16 * sec) 16 p.shared p.hm).1
        else t) h 8 [a] [] []) ∧
      exec (.cwb h a o) s = .next (s.doneFrom (if p.cached then line.foldl (init := t) fun u sec =>
        u.writeback s.cur sec (byStrand s.cur s.actor) else t) h 8 [a] [] []) ∧
      exec (.cinv h a o) s = .next (s.doneFrom (if p.cached then line.foldl (init := t) fun u sec =>
        (u.writeback s.cur sec (byStrand s.cur s.actor)).dropSector s.cur sec else t) h 8 [a] [] []))

/-- R204: GADDR gives a scratchpad address its global name, and a private one its place in the partition, a sum modulo
2^52 by log entry 101; SADDR undoes both for the issuing strand; every other legal address stays. An address that fails
the checks of R87 is a translation fault of cause 1, and for GADDR one that fails the size checks of R88. -/
def Claim.AddressConversion : Prop :=
  ∀ (s : State) (h : Hdr) (d a : Opnd), s.Ready .any h [a] [d] →
    let x := s.operand [] a
    let p := s.part (s.partOf s.cur)
    let own := p.pwbase.toNat + sidOf s.cur s.actor * p.winBytes
    (s.tagOk x = true → s.sizeOk s.cur x = true →
      exec (.gaddr h d a) s = .next (s.done h 8 [a] [(d, some 1)] [
        if fld x 60 4 = 0xC then .ofNat 64 (0xD * 2 ^ 60 + s.ownDev * 2 ^ 48 + s.cur * 2 ^ 40 + fld x 0 21)
        else if fld x 60 4 = 0xE then .ofNat 64 ((own + fld x 0 32) % 2 ^ 52)
        else x])) ∧
    (s.tagOk x = true →
      exec (.saddr h d a) s = .next (s.done h 8 [a] [(d, some 1)] [
        if fld x 60 4 = 0 ∧ own ≤ x.toNat ∧ x.toNat < own + p.winBytes then .ofNat 64 (0xE * 2 ^ 60 + (x.toNat - own))
        else if fld x 60 4 = 0xD ∧ fld x 48 4 = s.ownDev ∧ fld x 40 8 = s.cur
          then .ofNat 64 (0xC * 2 ^ 60 + fld x 0 21)
        else x])) ∧
    (s.tagOk x = false → exec (.saddr h d a) s = .next (s.trapped 6 1 x)) ∧
    (s.tagOk x = false ∨ s.sizeOk s.cur x = false → exec (.gaddr h d a) s = .next (s.trapped 6 1 x))

/-- Cache control and address conversion. -/
def Obligations.CacheAndAddressForms : Prop := Claim.CacheControl ∧ Claim.AddressConversion

/-! ### Messages, signals and hardware queues -/

/-- R196: a SEND to a mailbox of this partition whose turn among its core's has come, and which has room, delivers its
message after what its core has sent to that core before, with the sender's summary after a Publish when it is an edge;
without room, or out of its turn, it waits and keeps its place. One to another device goes out as an edge record once that
device has room for it, which only it can say (a free value, log entry 104). -/
def Claim.Sends : Prop :=
  ∀ (s : State) (h : Hdr) (a b : Opnd) (pri ef : Bool), s.Ready .any h [a, b] [] →
    let aim := s.operand [] a
    let c := s.cur
    let x := s.actor
    let core := fld aim 0 8
    let dev := fld aim 8 4
    let u := if ef then s.publishTo c x dev else s
    let d := u.home (s.partOf c) core
    let m : Msg := ⟨s.operand [a] b, if ef then some (s.ctx c x).summ else none⟩
    let sent := u.onCore c fun k => { k with msgOut := k.msgOut + 1 }
    let done := fun (t : State) => s.doneFrom (t.onCore c (·.unoffer x)) h 8 [a, b] [] []
    aim.toNat < 4096 → core < 192 →
    (dev = s.ownDev → s.inPart (s.partOf c) core = true → u.ownDev = s.ownDev →
      ((s.core c).offerTurn x core pri = true → u.mailRoom d pri = true →
        exec (.send h a b pri ef) s = .next (done ((sent.drain c false (scrKey core 0)).deliver d pri m))) ∧
      ((s.core c).offerTurn x core pri = false ∨ u.mailRoom d pri = false →
        exec (.send h a b pri ef) s = .next (u.onCore c (·.offer x core pri)))) ∧
    (dev ≠ s.ownDev → s.otherDev dev = true → ((s.part (s.partOf c)).fgrant.get 0 dev).getLsbD 31 = true →
      u.ownDev = s.ownDev →
      let name := 256 * (dev + 1) + core
      let waits := u.onCore c (·.offer x name pri)
      ((s.core c).offerTurn x name pri = true → exec (.send h a b pri ef) s = .next (
        if Config.farAnswer u.free % 2 = 1 then waits
        else done ({ sent with free := u.free + 1 }.sendEdge c dev ef (.mail dev core pri m)))) ∧
      ((s.core c).offerTurn x name pri = false → exec (.send h a b pri ef) s = .next waits))

/-- R197: RECV takes the oldest message of its priority, WAITM one of priority 1 before one of priority 0; an edge message's
summary refreshes first; with none, RECV and WAITM park. -/
def Claim.Messages : Prop :=
  ∀ (s : State) (h : Hdr) (d : Opnd) (pri : Bool) (m : Msg) (ms : List Msg), s.Ready .any h [] [d] → s.me.grant = none →
    let taken := fun (t : State) (m : Msg) => match m.summ with | none => t | some f => t.refresh s.cur s.actor f
    let popped := fun (pri : Bool) (ms : List Msg) => s.onCore s.cur fun k => (k.setMail pri ms).refill pri
    ((s.core s.cur).mail pri = m :: ms →
      exec (.recv h d pri) s = .next (s.doneFrom (taken (popped pri ms) m) h 8 [] [(d, none)] [m.payload])) ∧
    ((s.core s.cur).mail pri = [] → exec (.recv h d pri) s = .next (s.parkCtx s.cur s.actor (.mail (some pri)))) ∧
    ((s.core s.cur).mail true = m :: ms →
      exec (.waitm h d) s = .next (s.doneFrom (taken (popped true ms) m) h 8 [] [(d, none)] [m.payload])) ∧
    ((s.core s.cur).mail true = [] → (s.core s.cur).mail false = m :: ms →
      exec (.waitm h d) s = .next (s.doneFrom (taken (popped false ms) m) h 8 [] [(d, none)] [m.payload])) ∧
    ((s.core s.cur).mail true = [] → (s.core s.cur).mail false = [] →
      exec (.waitm h d) s = .next (s.parkCtx s.cur s.actor (.mail none)))

/-- R195, R337: a SEND whose name breaks the layout, names a core outside the partition, or a device number that is not
assigned, is a translation fault with cause 1 and the name in ARG; a device that no grant covers gives cause 8. That a name on
another device is held to its number and to the V bit of its grant alone is log entry 122 (DEDUCED). -/
def Claim.MailboxNames : Prop :=
  ∀ (s : State) (h : Hdr) (a b : Opnd) (pri ef : Bool), s.Ready .any h [a, b] [] →
    let aim := s.operand [] a
    let traps := fun (cause : Nat) => exec (.send h a b pri ef) s = .next (s.trapped 6 (.ofNat 64 (cause + 1024)) aim)
    ((4096 ≤ aim.toNat ∨ 192 ≤ fld aim 0 8) → traps 1) ∧
    (aim.toNat < 4096 → fld aim 0 8 < 192 →
      (fld aim 8 4 = s.ownDev → s.inPart (s.partOf s.cur) (fld aim 0 8) = false → traps 1) ∧
      (fld aim 8 4 ≠ s.ownDev → s.otherDev (fld aim 8 4) = false → traps 1) ∧
      (fld aim 8 4 ≠ s.ownDev → s.otherDev (fld aim 8 4) = true →
        ((s.part (s.partOf s.cur)).fgrant.get 0 (fld aim 8 4)).getLsbD 31 = false → traps 8))

/-- R196: MESSAGE_ARRIVAL puts its message at the end of its mailbox, and gives the oldest to the strand parked earliest
on it; a full mailbox leaves it to arrive later. -/
def Claim.MessageArrival : Prop :=
  ∀ (s : State) (c : Nat) (hi : Bool) (v : Word) (f : Option Summary), c < 256 → (s.core c).spill hi = [] →
    (64 ≤ ((s.core c).mail hi).length →
      exec (.messageArrival c hi v f) s = .next (s.plan (.messageArrival c hi v f))) ∧
    (((s.core c).mail hi).length < 64 → (s.core c).receiver hi = none →
      ∃ t, exec (.messageArrival c hi v f) s = .next t ∧ (t.core c).mail hi = (s.core c).mail hi ++ [⟨v, f⟩] ∧
        (∀ r, r ≠ c → t.core r = s.core r) ∧ t.mem = s.mem) ∧
    (∀ x, (s.core c).mail hi = [] → (s.core c).receiver hi = some x →
      ∃ t, exec (.messageArrival c hi v f) s = .next t ∧ (t.core c).mail hi = [] ∧
        t.agenda = s.agenda ++ [⟨s.mesh, .wake c x v f⟩])

/-- R198: a PUTQ on this device, its source read, its handle good, its queue with room after the Publish of an edge one and
its pages writable, writes the payload and then pushes the entry; while the queue is full it waits. One to another device
ends as that device answers, a free value (log entry 104): it completes, traps as illegal-operand, waits for room after its
Publish, or traps with KIND 6 and cause 7. -/
def Claim.PutQueue : Prop :=
  ∀ (s t u : State) (h : Hdr) (a b c e : Opnd) (lenm1 : BitVec 12) (ef : Bool) (dev : BitVec 4) (bs : List Byte),
    s.Ready .any h [a, b, c, e] [] →
    let dst := s.operand [] a
    let q := handleQ (s.operand [a] b)
    let p := s.partOf s.cur
    let run := exec (.putq h a b c e lenm1 ef dev) s
    dst.toNat < 2 ^ 52 → s.readRange s.cur s.actor (s.operand [a, b] c) (lenm1.toNat + 1) 0 = (t, .ok bs) →
    (dev.toNat = s.ownDev → t.queueOk p (s.operand [a] b) = true → (t.hwq q).spawn = false →
      let t1 := if ef then t.publish s.cur s.actor else t
      ((t1.hwq q).isFull = true → run = .next t1) ∧
      ((t1.hwq q).isFull = false →
        t1.putPages s.cur s.actor (t1.ownerOf p q) (pagesOf dst.toNat (lenm1.toNat + 1)) bs = (u, none) →
        run = .next (s.doneFrom (u.qPush q ⟨s.operand [a, b, c] e, if ef then some (u.ctx s.cur s.actor).summ else none⟩
          (byStrand s.cur s.actor)) h 12 [a, b, c, e] [] []))) ∧
    (dev.toNat ≠ s.ownDev → s.otherDev dev.toNat = true → ((s.part p).fgrant.get 0 dev.toNat).getLsbD 31 = true →
      (s.operand [a] b).toNat < 2 ^ 14 →
      let t1 := { t with free := t.free + 1 }
      let t2 := if ef then t1.publishTo s.cur s.actor dev.toNat else t1
      match Config.farAnswer t.free % 4 with
      | 0 => ∃ r, run = .next (s.doneFrom r h 12 [a, b, c, e] [] [])
      | 1 => run = .next (t1.takeTrap s.cur s.actor 2 0 0)
      | 2 => run = .next t2
      | _ => ∃ (r : State) (info arg : Word), run = .next (r.takeTrap s.cur s.actor 6 info arg) ∧ fld info 0 8 = 7)

/-- R201: an update of a signal sets or adds to its value, creates it on SIGSET with INIT, unites the delivered summary
into its own, and is refused where the object is no signal. -/
def Claim.SignalUpdate : Prop :=
  ∀ (s : State) (p core a : Nat) (hm set init : Bool) (v : Word) (f : Summary) (w : Word),
    (init = false → (s.obj a).kind ≠ 1 → s.signalAt p core hm a set init v f w = none) ∧
    ((init = true ∨ (s.obj a).kind = 1) → ∃ t, s.signalAt p core hm a set init v f w = some t ∧
      (t.obj a).kind = 1 ∧ (t.obj a).value = (if set then v else (s.obj a).value + v) ∧
      (t.obj a).summ = (if init then 0 else (s.obj a).summ) ||| f ∧
      (∀ key, key < a ∨ a + 256 ≤ key → t.byte key = s.byte key) ∧
      ∀ e ∈ t.waits, e ∈ s.waits)

/-- R201 to R203: SIGSET and SIGADD publish, then update the signal at its home on this device with the issuer's summary,
or hand the update to the device that holds it, with the trap that is due to the strand if the object rejects it there (log
entry 103); the region of the object itself is united into the issuer's summary first (log entry 28); SIGTEST writes 1 and
refreshes where the condition holds, else 0; SIGWAIT goes on where it holds, else joins the wait list and parks. Each
reaches the object after the core's own bytes of it and what the core has sent there, and traps as illegal-operand where
the object is no signal. -/
def Claim.SignalForms : Prop :=
  ∀ (s t : State) (h : Hdr) (d a b : Opnd) (i20 : BitVec 20) (i19 : BitVec 19) (i18 : BitVec 18) (rel : BitVec 2)
    (init : Bool) (p : Place), s.objPlace s.cur s.actor (s.operand [] a) = (t, .ok p) →
    let c := s.cur
    let x := s.actor
    let u := t.publishTo c x (keyDev t.ownDev p.key)
    let f := (u.ctx c x).summ ||| p.region
    let upd := fun (set init : Bool) (v : Word) =>
      (u.reachObj c x p).signalAt (u.partOf c) c p.hm p.key set init v f (byStrand c x)
    let away := fun (set init : Bool) (v : Word) =>
      (u.mark c x p.region).sendEdge c (keyDev u.ownDev p.key) true
        (.signal p.key set init c v f (some (x, mkRec 2 x 0 0 0 0)))
    let v := s.operand [a] b
    let r := t.reachObj c x p
    let o := r.obj p.key
    let holds := fun (thr : Word) => match rel.toNat with
      | 0 => decide (thr.toInt ≤ o.value.toInt)
      | 1 => decide (o.value.toInt < thr.toInt)
      | 2 => decide (o.value = thr)
      | _ => decide (o.value ≠ thr)
    (s.Ready .any h [a, b] [] → u.isForeign p = false →
      (∀ w, upd true init (v + i19.signExtend 64) = some w →
        exec (.sigset h a b i19 init) s = .next (s.doneFrom (w.mark c x p.region) h 8 [a, b] [] [])) ∧
      (∀ w, upd false false (v + i20.signExtend 64) = some w →
        exec (.sigadd h a b i20) s = .next (s.doneFrom (w.mark c x p.region) h 8 [a, b] [] [])) ∧
      (upd true init (v + i19.signExtend 64) = none → exec (.sigset h a b i19 init) s = .next (u.takeTrap c x 2 0 0)) ∧
      (upd false false (v + i20.signExtend 64) = none → exec (.sigadd h a b i20) s = .next (u.takeTrap c x 2 0 0))) ∧
    (s.Ready .any h [a, b] [] → u.isForeign p = true →
      exec (.sigset h a b i19 init) s = .next (s.doneFrom (away true init (v + i19.signExtend 64)) h 8 [a, b] [] []) ∧
      exec (.sigadd h a b i20) s = .next (s.doneFrom (away false false (v + i20.signExtend 64)) h 8 [a, b] [] [])) ∧
    (s.Ready .any h [a, b] [d] →
      (o.kind ≠ 1 → exec (.sigtest h d a b i18 rel) s = .next (r.takeTrap c x 2 0 0)) ∧
      (o.kind = 1 → holds (v + i18.signExtend 64) = true → exec (.sigtest h d a b i18 rel) s =
        .next (s.doneFrom (r.refresh c x o.summ) h 8 [a, b] [(d, none)] [1])) ∧
      (o.kind = 1 → holds (v + i18.signExtend 64) = false → exec (.sigtest h d a b i18 rel) s =
        .next (s.doneFrom r h 8 [a, b] [(d, none)] [0]))) ∧
    (s.Ready .any h [a, b] [] → s.me.grant = none →
      (o.kind ≠ 1 → exec (.sigwait h a b i18 rel) s = .next (r.takeTrap c x 2 0 0)) ∧
      (o.kind = 1 → holds (v + i18.signExtend 64) = true →
        exec (.sigwait h a b i18 rel) s = .next (s.doneFrom (r.refresh c x o.summ) h 8 [a, b] [] [])) ∧
      (o.kind = 1 → holds (v + i18.signExtend 64) = false →
        ∃ w, exec (.sigwait h a b i18 rel) s = .next w ∧ (p.key, sidOf c x) ∈ w.waits ∧ (w.ctx c x).st = .parked))

/-- Signals: updates, waits and tests. -/
def Obligations.Signals : Prop := Claim.SignalUpdate ∧ Claim.SignalForms

/-- R120: of the posted transactions the one that comes first in order of those ahead of the one an event names is
performed, where a record's stores have all landed: the landed count, as a signed difference, has reached the carried one.
Until then it stays where it is held, and its event comes again. -/
def Claim.EdgeRelease : Prop :=
  ∀ (s : State) (n i : Nat) (q : Posted), s.earliest n = some (i, q) →
    let gone := { s with posted := s.posted.eraseIdx i }.performPosted q
    let again := fun (e : Nat → Instr) => { s with free := s.free + 1 }.plan (e (Config.pick s.free))
    (∀ dev core m e, q = .edge dev core m e →
      (s.hasLanded q = true ↔ 0 ≤ (s.landed.get 0 (landedKey dev core) - m).toInt)) ∧
    (s.hasLanded q = true → exec (.postedStorePerformed n) s = .next gone ∧
      exec (.postedAtomicPerformed n) s = .next gone ∧ exec (.edgeRecordRelease n) s = .next gone) ∧
    (s.hasLanded q = false → exec (.postedStorePerformed n) s = .next (again .postedStorePerformed) ∧
      exec (.postedAtomicPerformed n) s = .next (again .postedAtomicPerformed) ∧
      exec (.edgeRecordRelease n) s = .next (again .edgeRecordRelease))

/-- R99, R119, R120: the one performed stands ahead of the one named, and none before it does, so that a core's
transactions to one destination keep their order; a posted store then sets its bytes and no other byte, or none in a
scratchpad that has shrunk, whose translation fault becomes due to the strand (R91); a signal update that its object rejects
changes no byte, and its trap becomes due to the strand (R201). That such a trap comes before the strand's next unissued
instruction is log entry 103. -/
def Claim.PostedTransactions : Prop :=
  ∀ (s : State) (n i : Nat) (q : Posted), s.earliest n = some (i, q) →
    (∃ e, s.posted[n % max s.posted.length 1]? = some e ∧ s.ahead e.core e.hm e.key q = true ∧
      ∀ j r, j < i → s.posted[j]? = some r → s.ahead e.core e.hm e.key r = false) ∧
    (∀ c x key bs last, q = .store c x key bs last → ∃ t,
      exec (.postedStorePerformed n) s = .next t ∧
      (∀ k, t.byte k = if s.inSize key bs.length = true ∧ key ≤ k ∧ k < key + bs.length then bs.getD (k - key) 0
        else s.byte k) ∧
      (s.inSize key bs.length = false → (s.ctx c x).st ≠ .free → (t.ctx c x).rejected = (s.ctx c x).rejected ++
        [mkRec 6 x 0 (.ofNat 64 (1 + 1024)) 0 (s.scrAddr key)])) ∧
    (∀ dev c m key set init hm v f x r, q = .edge dev c m (.signal key set init hm v f (some (x, r))) →
      s.hasLanded q = true → init = false → (s.obj key).kind ≠ 1 → ∃ t,
      exec (.edgeRecordRelease n) s = .next t ∧ (∀ k, t.byte k = s.byte k) ∧
      ((s.ctx c x).st ≠ .free → (t.ctx c x).rejected = (s.ctx c x).rejected ++ [r]))

/-- Held edge records and posted transactions. -/
def Obligations.EdgesAndPosted : Prop := Claim.EdgeRelease ∧ Claim.PostedTransactions

/-- R219, R220: a QPUSH, after the Publish of an edge one, writes its entry behind the others of a queue with room, and
waits while it is full; QPOP takes the oldest entry, or leaves a request and parks; QUEUE_POP_ASSIGN gives the oldest
entry to the oldest request; a bad handle traps as illegal-operand. -/
def Claim.HardwareQueues : Prop :=
  ∀ (s : State) (h : Hdr) (d a b : Opnd),
    let q := handleQ (s.operand [] a)
    let ok := s.valueQ (s.operand [] a)
    (s.Ready .any h [a, b] [] →
      (ok = false → ∀ ef, exec (.qpush h a b ef) s = .next (s.trapped 2 0 0)) ∧
      ∀ ef : Bool, let u := if ef then s.publish s.cur s.actor else s
        (ok = true → (u.hwq q).isFull = true → exec (.qpush h a b ef) s = .next u) ∧
        (ok = true → (u.hwq q).isFull = false → exec (.qpush h a b ef) s = .next (s.doneFrom
          (u.qPush q ⟨s.operand [a] b, if ef then some (u.ctx s.cur s.actor).summ else none⟩ (byStrand s.cur s.actor))
          h 8 [a, b] [] []))) ∧
    (s.Ready .any h [a] [d] → s.me.grant = none →
      (ok = false → exec (.qpop h d a) s = .next (s.trapped 2 0 0)) ∧
      (ok = true → (s.hwq q).canPop = true → exec (.qpop h d a) s = .next (s.doneFrom
        (match (s.qFront q).summ with | none => s.qDrop q | some f => (s.qDrop q).refresh s.cur s.actor f)
        h 8 [a] [(d, none)] [(s.qFront q).payload])) ∧
      (ok = true → (s.hwq q).canPop = false → ∃ t, exec (.qpop h d a) s = .next t ∧
        (t.hwq q).pops = (s.hwq q).pops ++ [(s.cur, s.actor)] ∧ (t.ctx s.cur s.actor).st = .parked)) ∧
    (∀ queue c x r, (s.hwq queue).pops = (c, x) :: r → 0 < (s.hwq queue).count → ∃ t,
      exec (.queuePopAssign queue) s = .next t ∧ (t.hwq queue).pops = r ∧
      (t.hwq queue).count = (s.hwq queue).count - 1 ∧ (t.hwq queue).head = (s.hwq queue).head + 1 ∧
      t.agenda = s.agenda ++ [⟨s.mesh, .wake c x (s.qFront queue).payload (s.qFront queue).summ⟩])

/-- R101, R380: a queue keeps first-in, first-out order: what is pushed to an empty queue is what its front then shows, and
a push behind others leaves the front, adding one to the count. -/
def Claim.QueueOrder : Prop :=
  ∀ (s : State) (q : Nat) (m : Msg) (w : Word),
    let t := s.qPush q m w
    (t.hwq q).count = (s.hwq q).count + 1 ∧ (t.hwq q).head = (s.hwq q).head ∧ (t.hwq q).tail = (s.hwq q).tail + 1 ∧
    ((s.hwq q).head = (s.hwq q).tail → t.qFront q = m) ∧
    ((s.hwq q).head.toNat % 2 ^ (s.hwq q).log2n ≠ (s.hwq q).tail.toNat % 2 ^ (s.hwq q).log2n → t.qFront q = s.qFront q)

/-- PUTQ and the hardware queues. -/
def Obligations.QueueForms : Prop := Claim.PutQueue ∧ Claim.HardwareQueues ∧ Claim.QueueOrder

/-- R221: QBIND with mode 0 unbinds its queue register; otherwise it binds it to a FIFO as reader or writer, unless another
queue register of the core holds that role, which is an illegal-operand trap. -/
def Claim.QueueBinding : Prop :=
  ∀ (s : State) (h : Hdr) (qn : BitVec 2) (fifo : BitVec 4) (mode : BitVec 2), s.Ready .any h [] [] →
    let held := (s.core s.cur).roleHeld s.actor qn.toNat fifo.toNat mode.toNat
    (mode = 0 → ∃ t, exec (.qbind h qn fifo mode) s = .next t ∧ (t.ctx s.cur s.actor).binding qn.toNat = (0, 0) ∧
      s.SameMemory t) ∧
    (mode ≠ 0 → held = true → exec (.qbind h qn fifo mode) s = .next (s.trapped 2 0 0)) ∧
    (mode ≠ 0 → mode ≠ 3 → held = false → ∃ t, exec (.qbind h qn fifo mode) s = .next t ∧
      (t.ctx s.cur s.actor).binding qn.toNat = (fifo.toNat, mode.toNat) ∧ s.SameMemory t)

/-! ### Strands, joins and deques -/

/-- R210: SPAWN publishes and appends a child record to the direct list of its core, which counts it for its launch;
while that list holds 48 the strand waits; an invalid type or core is an illegal-operand trap. The child takes the four
seeds, and the spawner's jc, summary and launch. -/
def Claim.SpawnToCore : Prop :=
  ∀ (s : State) (h : Hdr) (a b c e t : Opnd) (o : BitVec 29) (ty : BitVec 6), s.Ready .any h [a, b, c, e, t] [] →
    let core := (s.operand [a, b, c, e] t).toNat
    let u := s.publish s.cur s.actor
    let k := u.ctx s.cur s.actor
    let child : Child := ⟨s.me.pc + o.signExtend 64 * 4, ty, s.operand [] a, s.operand [a] b, s.operand [a, b] c,
      s.operand [a, b, c] e, k.jc, k.summ, k.launch⟩
    let run := exec (.spawn h t a b c e o ty) s
    (s.typeOk s.cur ty = false ∨ 192 ≤ core ∨ s.inPart (s.partOf s.cur) core = false → run = .next (s.trapped 2 0 0)) ∧
    (s.typeOk s.cur ty = true → core < 192 → s.inPart (s.partOf s.cur) core = true →
      (48 ≤ (u.core core).direct.length → run = .next u) ∧
      ((u.core core).direct.length < 48 → run = .next (s.doneFrom
        (((u.onCore core fun k => { k with direct := k.direct ++ [.child child 0] }).plan (.placeHead core)).lineBorn
          k.launch) h 12 [a, b, c, e, t] [] [])))

/-- R210: SPAWNQ writes its child record to a spawn queue and wakes the dispatchers it feeds; it waits while the queue is
full, and traps as illegal-operand on an invalid type or handle. -/
def Claim.SpawnToQueue : Prop :=
  ∀ (s : State) (h : Hdr) (a b c e t : Opnd) (o : BitVec 29) (ty : BitVec 6), s.Ready .any h [a, b, c, e, t] [] →
    let hnd := s.operand [a, b, c, e] t
    let q := handleQ hnd
    let u := s.publish s.cur s.actor
    let k := u.ctx s.cur s.actor
    let child : Child := ⟨s.me.pc + o.signExtend 64 * 4, ty, s.operand [] a, s.operand [a] b, s.operand [a, b] c,
      s.operand [a, b, c] e, k.jc, k.summ, k.launch⟩
    let ok := s.typeOk s.cur ty && s.queueOk (s.partOf s.cur) hnd && (s.hwq q).spawn
    let run := exec (.spawnq h t a b c e o ty) s
    (ok = false → run = .next (s.trapped 2 0 0)) ∧
    (ok = true → (u.hwq q).isFull = true → run = .next u) ∧
    (ok = true → (u.hwq q).isFull = false → run = .next (s.doneFrom
      (((u.qPushBytes q (childEntry child) k.launch (byStrand s.cur s.actor)).wakeFeeds q).lineBorn k.launch)
        h 12 [a, b, c, e, t] [] []))

/-- R212: JINIT makes its object a join cell with the count given, its summary and record cleared, and leaves its address
in jc; a cell that already records a waiter is an illegal-operand trap. The object is reached after the core's own bytes of
it and what the core has sent there. -/
def Claim.JoinCellInit : Prop :=
  ∀ (s t : State) (h : Hdr) (a b : Opnd) (n : BitVec 20) (p : Place), s.Ready .any h [a, b] [] →
    s.objPlace s.cur s.actor (s.operand [] a) = (t, .ok p) →
    let r := t.reachObj s.cur s.actor p
    ((r.obj p.key).cont = true → exec (.jinit h a b n) s = .next (r.takeTrap s.cur s.actor 2 0 0)) ∧
    ((r.obj p.key).cont = false → ∃ u, exec (.jinit h a b n) s = .next (s.doneFrom u h 8 [a, b] [] []) ∧
      u.obj p.key = ⟨s.operand [a] b + n.setWidth 64, 0, s.cur % 256, 0, false, false, 0⟩ ∧
      (u.ctx s.cur s.actor).jc = s.operand [] a ∧
      ∀ key, key < p.key ∨ p.key + 256 ≤ key → u.byte key = r.byte key)

/-- R213: AWAIT with no jc, or on a cell whose count is 0, goes on with its new jc, refreshing by the cell's summary; on a
cell still counting it records the strand in the cell and parks, or in yield mode reserves the cell and, once no engine
operation is outstanding and a frame is at hand, leaves its context as a continuation. In yield mode a held pixel lock is an
illegal-operand trap, and so is a partition without a frame list. -/
def Claim.AwaitForms : Prop :=
  ∀ (s t : State) (h : Hdr) (a : Opnd) (p : Place), s.me.grant = none →
    let c := s.cur
    let x := s.actor
    let r := t.reachObj c x p
    let o := r.obj p.key
    let jc := s.operand [] a
    let goes := fun (u : State) => s.doneFrom (u.onMe fun k => { k with jc := jc, reserved := none }) h 8 [a] [] []
    let found := s.me.jc ≠ 0 ∧ s.objPlace c x s.me.jc = (t, .ok p) ∧ o.kind = 0 ∧ o.cont = false
    (s.Ready .any h [a] [] →
      (s.me.jc = 0 → exec (.await h a false) s = .next (goes s)) ∧
      (found → o.value = 0 → exec (.await h a false) s = .next (goes (r.refresh r.cur r.actor o.summ))) ∧
      (found → o.value ≠ 0 → ∃ u, exec (.await h a false) s = .next u ∧ (u.ctx c x).st = .parked ∧
        (u.ctx c x).wake = .cell p.key p.hm ∧ (u.obj p.key).cont = true ∧ (u.obj p.key).link = parkLink c x ∧
        (u.obj p.key).value = o.value)) ∧
    (s.Ready .user h [a] [] →
      (s.holdsLock c x = true → exec (.await h a true) s = .next (s.trapped 2 0 0)) ∧
      (s.holdsLock c x = false →
        (s.me.jc = 0 → exec (.await h a true) s = .next (goes s)) ∧
        (found → s.me.reserved = none → o.value ≠ 0 → bit (r.part (r.partOf c)).frameq 31 = false →
          exec (.await h a true) s = .next (r.takeTrap c x 2 0 0)) ∧
        (found → s.me.reserved = none → o.value ≠ 0 → bit (r.part (r.partOf c)).frameq 31 = true →
          let w := (r.setObj (r.partOf c) p.hm p.key { o with cont := true, link := 0 } (byStrand c x)).onMe fun k =>
            { k with reserved := some (p.key, p.hm) }
          (w.anyOut c x = true → exec (.await h a true) s = .next w) ∧
          (w.anyOut c x = false → (∃ v f, w.popFrame (w.partOf c) = .got v f) →
            ∃ u, exec (.await h a true) s = .next u ∧ (u.ctx c x).st = .free))))

/-- R211, R31, R32: a FORKR that passes its checks, with nothing outstanding and a frame at hand, saves its continuation
to the frame, frees its context, and makes its join cell count its recruits and record the frame; no more recruits
than chunks of the grain are made, and each is handed its chunk with the issuer's g3 and g4 as the other seeds. -/
def Claim.ForkLeaves : Prop :=
  ∀ (s t u : State) (h : Hdr) (a b c : Opnd) (o : BitVec 29) (ty : BitVec 6) (lvl : BitVec 3) (p : Place) (f : Nat),
    s.Ready .user h [a, b, c] [] → s.typeOk s.cur ty = true → s.operand [] a ≠ 0 → s.operand [a] b ≠ 0 → s.me.jc ≠ 0 →
    s.holdsLock s.cur s.actor = false → s.objPlace s.cur s.actor s.me.jc = (t, .ok p) →
    let v := t.reachObj s.cur s.actor p
    (v.obj p.key).kind = 0 → (v.obj p.key).cont = false → v.anyOut s.cur s.actor = false →
    v.cur = s.cur → v.actor = s.actor → v.popFrame (v.partOf s.cur) = .got u f →
    let left := ((u.gather s.cur s.actor).saveCont s.cur s.actor f (s.me.pc + 12) (s.operand [a, b] c) 1 s.cur).publish s.cur s.actor
    let regs := (u.landAll s.cur s.actor).gregs s.cur s.actor
    let child := left.childOf s.cur s.actor (s.me.pc + o.signExtend 64 * 4) ty 0 0 (nth 0 regs 3) (nth 0 regs 4)
    let n := (s.operand [] a).toNat
    let ks := (left.leave s.cur s.actor).recruit s.cur lvl.toNat n (s.operand [a] b).toNat
    ∃ (r w : State), exec (.forkr h a b c o ty lvl) s = .next r ∧ (r.ctx s.cur s.actor).st = .free ∧
      (r.obj p.key).cont = true ∧ (r.obj p.key).link = .ofNat 64 f ∧ (r.obj p.key).value = .ofNat 64 ks.length ∧
      (r.obj p.key).summ = 0 ∧ ks.length ≤ ceilDiv n (s.operand [a] b).toNat ∧
      r = ((w.handChunks child n ks).popAs s.me s.cur [a, b, c]).onCore s.cur fun k => { k with issued := k.issued + 1 }

/-- R211: the trip count or the grain 0, no jc, an invalid type or a held pixel lock make FORKR an illegal-operand trap; it
waits while an engine operation is outstanding. -/
def Claim.ForkRefusals : Prop :=
  ∀ (s t : State) (h : Hdr) (a b c : Opnd) (o : BitVec 29) (ty : BitVec 6) (lvl : BitVec 3) (p : Place),
    s.Ready .user h [a, b, c] [] →
    let bad := s.typeOk s.cur ty = false ∨ s.operand [] a = 0 ∨ s.operand [a] b = 0 ∨ s.me.jc = 0 ∨
      s.holdsLock s.cur s.actor = true
    (bad → exec (.forkr h a b c o ty lvl) s = .next (s.trapped 2 0 0)) ∧
    let v := t.reachObj s.cur s.actor p
    (¬bad → s.objPlace s.cur s.actor s.me.jc = (t, .ok p) → (v.obj p.key).kind = 0 → (v.obj p.key).cont = false →
      v.anyOut s.cur s.actor = true → exec (.forkr h a b c o ty lvl) s = .next v) ∧
    (¬bad → s.objPlace s.cur s.actor s.me.jc = (t, .ok p) → (v.obj p.key).kind ≠ 0 ∨ (v.obj p.key).cont = true →
      exec (.forkr h a b c o ty lvl) s = .next (v.takeTrap s.cur s.actor 2 0 0))

/-- R32: the chunks of a FORKR over its recruits: chunk `i` begins at the floor of `i N / k`, the chunks cover the N
indices with counts that differ by at most one, and the `i`-th recruit gets the child with its first index and count in g1
and g2, at the end of its direct list, or held at its source while that holds 64; no other core changes, and the launch
counts each (R371). -/
def Claim.ForkChunks : Prop :=
  ∀ (s : State) (r : Child) (n : Nat) (ks : List Nat), ks ≠ [] → ks.Nodup →
    let k := ks.length
    let start := fun (i : Nat) => i * n / k
    let t := s.handChunks r n ks
    start 0 = 0 ∧ start k = n ∧
    (∀ i, i < k → n / k ≤ start (i + 1) - start i ∧ start (i + 1) - start i ≤ (n + k - 1) / k) ∧
    (∀ i d, ks[i]? = some d →
      let e : Entry := .child { r with g1 := .ofNat 64 (start i), g2 := .ofNat 64 (start (i + 1) - start i) } 0
      ((s.core d).direct.length < 64 → (t.core d).direct = (s.core d).direct ++ [e]) ∧
      (64 ≤ (s.core d).direct.length → (t.core d).directHeld = (s.core d).directHeld ++ [e])) ∧
    (∀ d, d ∉ ks → t.core d = s.core d) ∧ (∀ key, t.byte key = s.byte key) ∧
    ∀ l, s.dev.launches.find r.launch = some l → t.dev.launches.find r.launch = some { l with live := l.live + k }

/-- R32: the recruits of a FORKR: no more than its chunks of the grain nor than its group, the issuing core first, each
other one of the group with a free user context and no head, none twice. -/
def Claim.ForkRecruits : Prop :=
  ∀ (s : State) (c level n g : Nat),
    let grp := s.group (s.partOf c) c level
    let ks := s.recruit c level n g
    ks.length ≤ min (ceilDiv n g) grp.length ∧ ks.Nodup ∧ (0 < min (ceilDiv n g) grp.length → ks.head? = some c) ∧
    ∀ d ∈ ks, d ≠ c → d ∈ grp ∧ (s.core d).head = none ∧ ∃ x, 0 < x ∧ x < 16 ∧ (s.ctx d x).st = .free

/-- FORKR: its effect and its refusals. -/
def Obligations.ForkingStrands : Prop := Claim.ForkLeaves ∧ Claim.ForkChunks ∧ Claim.ForkRecruits ∧ Claim.ForkRefusals

/-- R129, R214: QUIT waits while an engine operation of its strand is outstanding; else it publishes, with its completed
operations' regions, counts its join cell down if it has one, with the summary it has published, or hands the decrement to the
device that holds the cell (R120); and its context becomes FREE, counted out of its launch (R371). Memory changes only by the
Publish, the decrement and the core's own stores that precede the release of its locks (R297). -/
def Claim.QuitFrees : Prop :=
  ∀ (s : State) (h : Hdr), s.Ready .user h [] [] →
    let c := s.cur
    let x := s.actor
    let v := (s.gather c x).publish c x
    let ends := fun (u : State) =>
      let u1 := u.lockStores c x
      ∃ t, exec (.quit h) s = .next t ∧ (t.ctx c x).st = .free ∧ (∀ key, t.byte key = u1.byte key) ∧ t.posted = u1.posted ∧
        (∀ y, y ≠ x → (t.ctx c y).st = (u1.ctx c y).st) ∧
        ∀ l, u1.dev.launches.find (u1.ctx c x).launch = some l →
          t.dev.launches.find (u1.ctx c x).launch = some { l with live := l.live - 1 }
    (s.anyOut c x = true → exec (.quit h) s = .next s) ∧
    (s.anyOut c x = false → v.cur = c → v.actor = x → (v.ctx c x).jc = 0 → ends v) ∧
    (∀ w p, s.anyOut c x = false → v.cur = c → v.actor = x → (v.ctx c x).jc ≠ 0 →
      v.objPlace c x (v.ctx c x).jc = (w, .ok p) →
      (w.isForeign p = false → ends
        ((w.reachObj c x p).joinDec ((w.reachObj c x p).partOf c) c p.hm p.key (w.ctx c x).summ (byStrand c x))) ∧
      (w.isForeign p = true →
        ends (w.sendEdge c (keyDev w.ownDev p.key) true (.join p.key (w.ctx c x).summ))))

/-- R214: a join cell's decrement subtracts 1, unites the delivered summary, and clears the record when the count
reaches 0, taking up what it recorded. -/
def Claim.JoinDecrement : Prop :=
  ∀ (s : State) (p last a : Nat) (hm : Bool) (f : Summary) (w : Word),
    let t := s.joinDec p last hm a f w
    (t.obj a).value = (s.obj a).value - 1 ∧ (t.obj a).summ = (s.obj a).summ ||| f ∧
    ((s.obj a).value = 1 → (s.obj a).cont = true → (s.obj a).link ≠ 0 → (s.obj a).kind = 0 →
      (t.obj a).cont = false ∧ (t.obj a).link = 0) ∧
    ((s.obj a).value ≠ 1 → (t.obj a).cont = (s.obj a).cont ∧ (t.obj a).link = (s.obj a).link ∧
      t.agenda.length = (s.setObj p hm a (s.obj a) w).agenda.length)

/-- Join cells: JINIT, AWAIT and the decrement. -/
def Obligations.JoinCells : Prop := Claim.JoinCellInit ∧ Claim.AwaitForms ∧ Claim.JoinDecrement

/-- R38, R215: MIGRATE stays with 0 where its core is of the class named, or its row holds none of that class in the
partition; else, with nothing outstanding and a frame at hand, its context is freed; a held pixel lock is an
illegal-operand trap. -/
def Claim.MigrateForms : Prop :=
  ∀ (s t : State) (h : Hdr) (d : Opnd) (cls : BitVec 2) (f aim : Nat), s.Ready .user h [] [d] →
    let c := s.cur
    let x := s.actor
    (s.holdsLock c x = true → exec (.migrate h d cls) s = .next (s.trapped 2 0 0)) ∧
    (s.holdsLock c x = false → s.classOf c = cls.toNat ∨ s.migrateTo c cls.toNat = none →
      exec (.migrate h d cls) s = .next (s.done h 8 [] [(d, some 1)] [0])) ∧
    (s.holdsLock c x = false → s.classOf c ≠ cls.toNat → s.migrateTo c cls.toNat = some aim →
      (s.anyOut c x = true → exec (.migrate h d cls) s = .next s) ∧
      (s.anyOut c x = false → s.popFrame (s.partOf c) = .got t f → ∃ u, exec (.migrate h d cls) s = .next u ∧
        (u.ctx c x).st = .free))

/-- R216, R217: DQINIT leaves an empty deque of its size owned by its strand; DQPUSH puts an entry at the bottom, and
gives 0 when the deque is full; DQPOP takes the newest entry, DQSTEAL the oldest, and each gives 0 on an empty deque;
an entry 0 or odd is an illegal-operand trap, and so is, where the address is otherwise good, one that is no scratchpad of the
strand's core; that the other checks come before that one is log entry 131. A graft that DQPOP takes goes on at its frame's
pc. -/
def Claim.Deques : Prop :=
  ∀ (s t : State) (h : Hdr) (d a b : Opnd) (n : BitVec 4) (p : Place) (sp : Space),
    let c := s.cur
    let x := s.actor
    let addr := s.operand [] a
    let e := s.operand [a] b
    let u := t.drain c p.hm p.key
    let dq := u.dequeAt p.key
    let held := s.place c x addr 64 64 1 1 = (t, .ok p) ∧ 1 ≤ dq.cap ∧ dq.cap ≤ 12 ∧
      u.decodeAddr c x addr dq.size true = .ok sp
    let mine := held ∧ s.dequeTag addr true = true ∧ dq.owner = sidOf c x
    (s.Ready .any h [a] [] → 1 ≤ n.toNat → n.toNat ≤ 12 → s.dequeTag addr true = true →
      s.place c x addr (64 + 8 * 2 ^ n.toNat) 64 1 1 = (t, .ok p) → c < 192 →
      ∃ r, exec (.dqinit h a n) s = .next r ∧ (r.dequeAt p.key).top = 0 ∧ (r.dequeAt p.key).bot = 0 ∧
        (r.dequeAt p.key).owner = sidOf c x ∧ (r.dequeAt p.key).cap = n.toNat) ∧
    (s.Ready .any h [a] [] → 1 ≤ n.toNat → n.toNat ≤ 12 → s.dequeTag addr true = false → addr.toNat % 64 = 0 →
      s.decodeAddr c x addr (64 + 8 * 2 ^ n.toNat) true = .ok sp → exec (.dqinit h a n) s = .next (s.trapped 2 0 0)) ∧
    (s.Ready .any h [a, b] [d] →
      ((e = 0 ∨ e.getLsbD 0 = true) → exec (.dqpush h d a b) s = .next (s.trapped 2 0 0)) ∧
      (e ≠ 0 → e.getLsbD 0 = false → mine → exec (.dqpush h d a b) s = .next (
        if dq.isFull then s.doneFrom u h 8 [a, b] [(d, some 1)] [0]
        else s.doneFrom ((u.setBytes (dq.slot dq.bot) (toBytes 8 e.toNat)).setBytes (p.key + 8) (toBytes 8 (dq.bot + 1)))
          h 8 [a, b] [(d, some 1)] [1]))) ∧
    (s.Ready .any h [a] [d] → mine →
      (dq.isEmpty = true → exec (.dqpop h d a) s = .next (s.doneFrom u h 8 [a] [(d, none)] [0])) ∧
      (dq.isEmpty = false → let i := (dq.bot + (2 ^ 64 - 1)) % 2 ^ 64
        (u.loadN (dq.slot i) 8 % 2 = 0 → exec (.dqpop h d a) s = .next (s.doneFrom
          (u.setBytes (p.key + 8) (toBytes 8 i)) h 8 [a] [(d, none)] [.ofNat 64 (u.loadN (dq.slot i) 8)])) ∧
        (u.loadN (dq.slot i) 8 % 2 = 1 → u.cur = c → u.actor = x →
          let v := u.publish c x
          let w := v.setBytes (p.key + 8) (toBytes 8 i)
          v.cur = c → v.actor = x → (v.ctx c x).jc = 0 → ∃ r, exec (.dqpop h d a) s = .next r ∧
            (r.ctx c x).pc = frameWord (w.readFrame (w.partOf c) (graftFrame (u.loadN (dq.slot i) 8))) 74))) ∧
    (s.Ready .any h [a] [d] → held → s.dequeTag addr false = true →
      (dq.isEmpty = true → exec (.dqsteal h d a) s = .next (s.doneFrom u h 8 [a] [(d, none)] [0])) ∧
      (dq.isEmpty = false → u.loadN (dq.slot dq.top) 8 % 2 = 0 → exec (.dqsteal h d a) s = .next (s.doneFrom
        (u.setBytes p.key (toBytes 8 (dq.top + 1))) h 8 [a] [(d, none)] [.ofNat 64 (u.loadN (dq.slot dq.top) 8)])))

/-- Queue registers and deques. -/
def Obligations.BindingsAndDeques : Prop := Claim.QueueBinding ∧ Claim.Deques

/-- R218: DETACH on its own deque with room and a frame at hand saves the strand's continuation behind it, with a Publish,
pushes the graft, which names the frame, into the deque's bottom slot, counts the child for its launch, and goes on at the
child's code; no other byte changes than those of the save, the slot and the bottom. A full deque traps with KIND 7. -/
def Claim.Detach : Prop :=
  ∀ (s t r : State) (h : Hdr) (a : Opnd) (o : BitVec 20) (p : Place) (sp : Space) (f : Nat), s.Ready .user h [a] [] →
    let c := s.cur
    let x := s.actor
    let u := t.drain c p.hm p.key
    let dq := u.dequeAt p.key
    s.dequeTag (s.operand [] a) true = true → s.place c x (s.operand [] a) 64 64 1 1 = (t, .ok p) → 1 ≤ dq.cap →
    dq.cap ≤ 12 → dq.owner = sidOf c x → u.decodeAddr c x (s.operand [] a) dq.size true = .ok sp →
    u.holdsLock c x = false →
    (dq.isFull = true → exec (.detach h a o) s = .next (u.takeTrap c x 7 0 (s.operand [] a))) ∧
    (dq.isFull = false → u.popFrame (u.partOf c) = .got r f →
      let v := (r.saveCont c x f ((r.ctx c x).pc + 8) (r.ctx c x).jc 2 c).publish c x
      ∃ w, exec (.detach h a o) s = .next w ∧
      (w.ctx c x).pc = s.me.pc + o.signExtend 64 * 4 ∧ w.loadN (p.key + 8) 8 = (dq.bot + 1) % 2 ^ 64 ∧
      w.loadN (dq.slot dq.bot) 8 = (f + 1) % 2 ^ 64 ∧
      (∀ key, (key < p.key + 8 ∨ p.key + 16 ≤ key) → (key < dq.slot dq.bot ∨ dq.slot dq.bot + 8 ≤ key) →
        w.byte key = v.byte key) ∧
      ∀ l, v.dev.launches.find (r.ctx c x).launch = some l →
        w.dev.launches.find (r.ctx c x).launch = some { l with live := l.live + 1 })

/-! ### Contexts and dispatchers -/

/-- R24, R52: a wake event makes a parked context READY with what the event brings to the instruction that waits, one
stopped while parked resumes READY, and no other context changes; one that waits for nothing is left alone. -/
def Claim.WakeEvents : Prop :=
  ∀ (s : State) (c x : Nat) (v : Word) (f : Option Summary),
    let k := s.ctx c x
    (k.st = .parked → ∃ t, exec (.wake c x v f) s = .next t ∧
      t.ctx c x = { k with st := .ready, wake := .none, grant := k.wake.brings v f, woken := k.wake.looks } ∧
      (∀ r y, (r, y) ≠ (c, x) → t.ctx r y = s.ctx r y) ∧ s.SameMemory t) ∧
    (k.st = .stopped → k.resume = .parked → ∃ t, exec (.wake c x v f) s = .next t ∧
      t.ctx c x = { k with resume := .ready, wake := .none, grant := k.wake.brings v f, woken := k.wake.looks } ∧
      (∀ r y, (r, y) ≠ (c, x) → t.ctx r y = s.ctx r y) ∧ s.SameMemory t) ∧
    (k.st ≠ .parked → ¬(k.st = .stopped ∧ k.resume = .parked) → exec (.wake c x v f) s = .next s)

/-- R146, R148: RESULT_LANDS puts the oldest variable-latency result of a context that the special-function unit has not
still to deliver into its g register, where a read then finds it, and takes it out of flight with any older result to that
register; other contexts' registers and memory stay. That of a load whose strand has not gone on since is read anew by then
(R107; log entry 102). -/
def Claim.ResultLands : Prop :=
  ∀ (s : State) (c x n fifo : Nat) (v : Word) (es fs : List Flight),
    (s.ctx c x).flight = es ++ ⟨.ofNat 7 n, v, none, false, fifo⟩ :: fs → (∀ e ∈ es, e.landable = false) → 0 < n →
    n < 64 →
    (((s.ctx c x).reading = none ∨ ∃ e ∈ fs, e.landable = true) →
      ∃ t, exec (.resultLands c x) s = .next t ∧ t.regOp c x [] (.ofNat 7 n) = v ∧
        (t.ctx c x).flight = es.filter (·.o != .ofNat 7 n) ++ fs ∧
        (∀ e, e ≠ Ctx.winEntry x (s.ctx c x) + n → (t.core c).entry e = (s.core c).entry e) ∧
        (∀ r, r ≠ c → t.core r = s.core r) ∧ s.SameMemory t) ∧
    (∀ p ty, (s.ctx c x).reading = some (p, ty) → (∀ e ∈ fs, e.landable = false) →
      let u := s.loadAt c x p (tyBytes ty)
      (u.1.ctx c x).flight = (s.ctx c x).flight →
      ∃ t, exec (.resultLands c x) s = .next t ∧ t.regOp c x [] (.ofNat 7 n) = tyExtend ty u.2 ∧
        (t.ctx c x).flight = es.filter (·.o != .ofNat 7 n) ++ fs ∧ (∀ key, t.byte key = u.1.byte key) ∧
        ∀ r, r ≠ c → t.core r = u.1.core r)

/-- R21: CONTEXT_GATE gates one context that was not gated, never context 0; CONTEXT_RESTORE returns one that was. Neither
changes anything else of any context. -/
def Claim.ContextGating : Prop :=
  ∀ (s : State) (c : Nat),
    ((∃ x, 0 < x ∧ x < 16 ∧ (s.ctx c x).gated = false) → ∃ t x, exec (.contextGate c) s = .next t ∧ 0 < x ∧ x < 16 ∧
      (s.ctx c x).gated = false ∧ t.ctx c x = { s.ctx c x with gated := true } ∧
      (∀ r y, (r, y) ≠ (c, x) → t.ctx r y = s.ctx r y) ∧
      ((∃ y, 0 < y ∧ y < 16 ∧ (s.ctx c y).gated = false ∧ (s.ctx c y).st = .free) → (s.ctx c x).st = .free)) ∧
    ((∃ x, x < 16 ∧ (s.ctx c x).gated = true) → ∃ t x, exec (.contextRestore c) s = .next t ∧
      (s.ctx c x).gated = true ∧ t.ctx c x = { s.ctx c x with gated := false } ∧
      ∀ r y, (r, y) ≠ (c, x) → t.ctx r y = s.ctx r y)

/-- Wake events, landing results and gating. -/
def Obligations.WakingAndGating : Prop := Claim.WakeEvents ∧ Claim.ResultLands ∧ Claim.ContextGating

/-- R41, R58: PLACE_HEAD places a child at the head of its dispatcher, whose type is valid and whose core has a free context,
a window and a frame for it: a free user context becomes READY at the child's pc with its jc, summary and launch, its seeds
in g1 to g4, and the head is gone. -/
def Claim.PlaceHead : Prop :=
  ∀ (s : State) (c g u : Nat) (r : Child) (src : Nat),
    let k := s.core c
    let e := (s.part (s.partOf c)).ttOf r.ttype.toNat
    c < 256 → k.head = some (.child r src) → k.blocked = false → e.getLsbD 31 = true → fld e 8 7 ≤ fld k.frame 0 11 →
    (∃ x, 0 < x ∧ x < 16 ∧ (k.ctx x).st = .free) → k.findWindow (fld e 0 2 + 1) = some g →
    k.findFrame (fld e 8 7) = some u →
    ∃ t x, exec (.placeHead c) s = .next t ∧ 0 < x ∧ x < 16 ∧ (k.ctx x).st = .free ∧ (t.ctx c x).st = .ready ∧
      (t.ctx c x).pc = r.pc ∧ (t.ctx c x).jc = r.jc ∧ (t.ctx c x).summ = r.summ ∧ (t.ctx c x).launch = r.launch ∧
      (t.ctx c x).c = 1 ∧ (t.ctx c x).as = fld e 20 4 ∧ (t.ctx c x).winBase = g ∧ (t.core c).head = none ∧
      (t.core c).entry (64 + 16 * g + 1) = r.g1 ∧ (t.core c).entry (64 + 16 * g + 2) = r.g2 ∧
      (t.core c).entry (64 + 16 * g + 3) = r.g3 ∧ (t.core c).entry (64 + 16 * g + 4) = r.g4 ∧
      ∀ key, t.byte key = s.byte key

/-- R42: a head whose type is invalid, or whose frame is larger than the frame area, is refused with a record of KIND 0x10
that says which, and leaves the head. -/
def Claim.HeadRefused : Prop :=
  ∀ (s : State) (c src : Nat) (r : Child),
    let k := s.core c
    let e := (s.part (s.partOf c)).ttOf r.ttype.toNat
    c < 256 → k.head = some (.child r src) → k.blocked = false → k.trapq.length < 16 → r.launch = 0 → s.dev.launches.find 0 = none →
    (e.getLsbD 31 = false ∨ fld k.frame 0 11 < fld e 8 7) →
    ∃ t, exec (.placeHead c) s = .next t ∧ (t.core c).head = none ∧
      (t.core c).trapq = k.trapq ++ [mkRec 0x10 0 k.seq
        (.ofNat 64 (r.ttype.toNat + 64 * src + 1024 * if e.getLsbD 31 then 0 else 1)) 0 0]

/-- R209: DIRECT_LIST_APPEND moves the first held entry of a core to its direct list while that has room. -/
def Claim.DirectListAppend : Prop :=
  ∀ (s : State) (c : Nat) (r : Child) (i : Nat) (es : List Entry), (s.core c).directHeld = .child r i :: es →
    (64 ≤ (s.core c).direct.length → exec (.directListAppend c) s = .next s) ∧
    ((s.core c).direct.length < 64 → ∃ t, exec (.directListAppend c) s = .next t ∧
      (t.core c).direct = (s.core c).direct ++ [.child r i] ∧ (t.core c).directHeld = es ∧
      (∀ x, t.ctx c x = s.ctx c x) ∧ s.SameMemory t)

/-- SPAWN, SPAWNQ and the direct lists. -/
def Obligations.Spawning : Prop := Claim.SpawnToCore ∧ Claim.SpawnToQueue ∧ Claim.DirectListAppend

/-- R94: EVICTION_WRITEBACK of a sector sends its dirty bytes home and drops it; each byte the core wrote then reads the
same at home, and every byte outside the sector is unchanged. -/
def Claim.Eviction : Prop :=
  ∀ (s : State) (c sec : Nat) (v : Sector), (s.core c).l1.find sec = some v → 16 * sec + 16 ≤ 2 ^ 48 →
    ∃ t, exec (.evictionWriteback c sec) s = .next t ∧ (t.core c).l1.find sec = none ∧
      (∀ i, i < 16 → t.byte (16 * sec + i) = if v.dirty.getLsbD i then secByte v.data i else s.byte (16 * sec + i)) ∧
      ∀ key, key < 16 * sec ∨ 16 * sec + 16 ≤ key → t.byte key = s.byte key

/-- Placing a head, refusing it, and evicting a sector. -/
def Obligations.Placement : Prop := Claim.PlaceHead ∧ Claim.HeadRefused ∧ Claim.Eviction

/-! ### Traps and context 0 -/

/-- R338: a trap of a user strand leaves it TRAPPED where it stands, its pc unchanged, and puts a record with its KIND, its
context, the core's next sequence number, INFO, pc and ARG at the end of its core's queue. -/
def Claim.UserTrap : Prop :=
  ∀ (s : State) (c x kind : Nat) (info arg : Word), x ≠ 0 → kind ≠ 0x13 → kind < 256 → (s.core c).trapq.length < 16 →
    let t := s.takeTrap c x kind info arg
    (t.ctx c x).st = .trapped ∧ (t.ctx c x).pc = (s.ctx c x).pc ∧ (t.ctx c x).h = (s.ctx c x).h ∧
    (t.core c).regs = (s.core c).regs ∧ (t.core c).seq = ((s.core c).seq + 1) % 65536 ∧
    (t.core c).trapq = (s.core c).trapq ++ [mkRec kind x (s.core c).seq info (s.ctx c x).pc arg] ∧
    (∀ y, y ≠ x → t.ctx c y = s.ctx c y) ∧ s.SameMemory t

/-- R342: a trap of context 0 with its window open and the vector valid enters at the vector: h6 takes its pc, h7 the
record's low word, the window closes, and the record is queued; its resume index is kept for the instruction that h6 names
(R60; log entry 93). -/
def Claim.VectoredTrap : Prop :=
  ∀ (s : State) (c kind : Nat) (info arg : Word), (s.core c).winOpen = true → (s.core c).trapq.length < 16 →
    kind ≠ 0x13 → kind < 256 → (s.part (s.partOf c)).trapvec.getLsbD 0 = true →
    let t := s.takeTrap c 0 kind info arg
    let r := mkRec kind 0 (s.core c).seq info (s.ctx c 0).pc arg
    (t.ctx c 0).st = .ready ∧ (t.ctx c 0).h.get 0 6 = (s.ctx c 0).pc ∧ (t.ctx c 0).h.get 0 7 = r.setWidth 64 ∧
    (t.ctx c 0).pc = .ofNat 64 (fld (s.part (s.partOf c)).trapvec 5 47 * 32) ∧ (t.core c).winOpen = false ∧
    (t.core c).trapq = (s.core c).trapq ++ [r] ∧ (∀ y, y ≠ 0 → t.ctx c y = s.ctx c y) ∧
    ((s.ctx c 0).ri ≠ 0 → (t.ctx c 0).ri = 0 ∧ (t.ctx c 0).kept =
      ((s.ctx c 0).pc, (s.ctx c 0).ri, (s.ctx c 0).status, (s.ctx c 0).total) :: (s.ctx c 0).kept)

/-- R343: a trap of context 0 with its window closed, or with no valid vector, is a double fault: the core's context 0
issues nothing further, the halt tree of its partition starts, and the core's number and the failing record are kept for
firmware's report. -/
def Claim.DoubleFault : Prop :=
  ∀ (s : State) (c kind : Nat) (info arg : Word),
    ((s.core c).winOpen = false ∨ (s.part (s.partOf c)).trapvec.getLsbD 0 = false) →
    let t := s.takeTrap c 0 kind info arg
    (t.core c).dead = true ∧ t.agenda = s.agenda ++ [⟨s.mesh, .haltTree (s.partOf c)⟩] ∧
    (t.part (s.partOf c)).dfaults = (s.part (s.partOf c)).dfaults ++
      [(c, mkRec kind 0 (s.core c).seq info (s.ctx c 0).pc arg)] ∧
    s.SameMemory t

/-- Taking a trap: user strands, the vector, the double fault. -/
def Obligations.TakingTraps : Prop := Claim.UserTrap ∧ Claim.VectoredTrap ∧ Claim.DoubleFault

/-- R344, R347: TRET goes on at h6, which it reads as a source, with the window open and the resume index that was kept
for the instruction there (R60); TREN opens the window, or closes it; STOP freezes the core's user contexts or thaws them,
and mode 2 starts the halt tree as well. -/
def Claim.TrapReturnAndStop : Prop :=
  ∀ (s : State) (h : Hdr) (close : Bool) (mode : BitVec 2),
    let c := s.cur
    (s.Issues .sup h [0x46#7] [] → ∃ t, exec (.tret h) s = .next t ∧ (t.ctx c 0).pc = (s.ctx c 0).h.get 0 6 ∧
      (t.core c).winOpen = true ∧ (t.ctx c 0).h = (s.ctx c 0).h ∧ s.SameMemory t ∧
      ∀ e, (s.ctx c 0).kept.find? (·.1 == (s.ctx c 0).h.get 0 6) = some e → (t.ctx c 0).ri = e.2.1) ∧
    (s.Ready .sup h [] [] →
      exec (.tren h close) s = .next (s.doneFrom (s.onCore c fun k => { k with winOpen := !close }) h 8 [] [] []) ∧
      (∃ t, exec (.stop h mode) s = .next t ∧ (t.core c).frozen = (mode != 1) ∧ (t.ctx c s.actor).pc = s.me.pc + 8 ∧
        (mode = 2 → ⟨s.mesh, .haltTree (s.partOf c)⟩ ∈ t.agenda) ∧ s.SameMemory t))

/-- R207, R141: a form for context 0 alone that issues in a user context is an illegal instruction, and a form for user
contexts alone that issues in context 0 is one. -/
def Claim.PrivilegedForms : Prop :=
  ∀ (s : State) (h : Hdr) (d a b : Opnd) (n : BitVec 12) (cls : BitVec 2),
    let illegal := fun (i : Instr) => exec i s = .next (s.trapped 1 0 0)
    s.me.going = false → (s.actor ≠ 0 → illegal (.tret h) ∧ illegal (.mfs h d a n) ∧ illegal (.mts h a b n) ∧ illegal (.waite h d a false) ∧
      illegal (.ctxstart h a) ∧ illegal (.ctxsave h d a b true) ∧ illegal (.stop h cls) ∧ illegal (.ctxreap h a)) ∧
    (s.actor = 0 → illegal (.quit h) ∧ illegal (.migrate h d cls) ∧ illegal (.await h a true))

/-- R346: WAITE with a record at hand writes its 32 bytes to the buffer, after what its strand has posted there before
(R104), takes it from the queue and returns its low word; on an empty queue it parks, or in its polling form returns 0. -/
def Claim.WaiteForms : Prop :=
  ∀ (s : State) (h : Hdr) (d a : Opnd) (key : Nat) (r : BitVec 256) (rs : List (BitVec 256)),
    s.Ready .sup h [a] [d] → s.bufferAt (s.operand [] a) 32 32 1 = .ok key →
    ((s.core s.cur).trapq = [] → exec (.waite h d a true) s = .next (s.done h 8 [a] [(d, none)] [0]) ∧
      exec (.waite h d a false) s = .next (s.parkCtx s.cur s.actor .waite)) ∧
    ((s.core s.cur).trapq = r :: rs → (s.core s.cur).trapHeld = [] → recKind r ≠ 0x13 → ∀ poll,
      exec (.waite h d a poll) s = .next (s.doneFrom (((s.drainOwn key).setBytes key (toBytes 32 r.toNat)).onCore s.cur
        fun k => { k with trapq := rs }) h 8 [a] [(d, none)] [r.setWidth 64]))

/-- TRET, TREN, STOP, WAITE and privilege. -/
def Obligations.Context0Forms : Prop := Claim.TrapReturnAndStop ∧ Claim.PrivilegedForms ∧ Claim.WaiteForms

/-- R336: TLBINV completes after it has written the core's dirty sectors home, removed from every TLB the unlocked
translations of its partition that its kind names (a page of an address space, an address space, or all), and performed
the transactions that they served; the other translations stay. -/
def Claim.TlbInvalidate : Prop :=
  ∀ (s : State) (h : Hdr) (a : Opnd) (kind : BitVec 2) (as : BitVec 4), s.Ready .sup h [a] [] → kind ≠ 3 →
    let va := (s.operand [] a).toNat
    let named := fun (t : Tlb) => t.part = s.partOf s.cur ∧ (kind = 2 ∨ (t.as = as.toNat ∧
      (kind = 1 ∨ (t.va ≤ va ∧ va < t.va + t.size)))) ∧ t.locked = false
    (kind = 0 → 2 ^ 52 ≤ va → exec (.tlbinv h a kind as) s = .next (s.trapped 2 0 0)) ∧
    ((kind ≠ 0 ∨ va < 2 ^ 52) → ∃ u, let t := u.settleGlobal (s.partOf s.cur)
      exec (.tlbinv h a kind as) s = .next (s.doneFrom t h 8 [a] [] []) ∧ s.WrittenBack s.cur u ∧
      (∀ sec v, (u.core s.cur).l1.find sec = some v → v.dirty = 0) ∧ u.posted = s.posted ∧
      (∀ c e, e ∈ (t.core c).tlb ↔ ¬named e ∧ e ∈ (s.core c).tlb) ∧
      ∀ i e, e ∈ (t.slice i).tlb ↔ ¬named e ∧ e ∈ (s.slice i).tlb)

/-- R348: CTXRD and CTXWR read and write what their selector names in a STOPPED or TRAPPED user context, once its results
have landed (which is log entry 58, DEDUCED): its pc, jc, registers and the others of the list; a selector that is not
listed, or that may not be written, and a context in another state, are illegal-operand traps. -/
def Claim.ContextAccess : Prop :=
  ∀ (s : State) (h : Hdr) (d a b : Opnd) (sel : BitVec 12),
    let c := s.cur
    let x := (s.operand [] a).toNat
    let opened := 0 < x ∧ x < 16 ∧ ((s.ctx c x).st = .stopped ∨ (s.ctx c x).st = .trapped)
    let t := s.landAll c x
    (s.Ready .sup h [a] [d] →
      (¬opened ∨ t.ctxSel c x sel.toNat = none → exec (.ctxrd h d a sel) s = .next (s.trapped 2 0 0)) ∧
      (opened → ∀ w, t.ctxSel c x sel.toNat = some w →
        exec (.ctxrd h d a sel) s = .next (s.doneFrom t h 8 [a] [(d, none)] [w])) ∧
      t.ctxSel c x 0x80 = some (t.ctx c x).pc ∧ t.ctxSel c x 0x54 = some (t.ctx c x).jc ∧
      (0 < sel.toNat → sel.toNat < 64 → sel.toNat < (t.ctx c x).winSize x →
        t.ctxSel c x sel.toNat = some ((t.core c).entry ((t.ctx c x).winEntry x + sel.toNat)))) ∧
    (s.Ready .sup h [a, b] [] →
      (¬opened ∨ t.ctxPut c x sel.toNat (s.operand [a] b) = none →
        exec (.ctxwr h a b sel) s = .next (s.trapped 2 0 0)) ∧
      (opened → ∀ u, t.ctxPut c x sel.toNat (s.operand [a] b) = some u →
        exec (.ctxwr h a b sel) s = .next (s.doneFrom u h 8 [a, b] [] [])) ∧
      (∀ v, t.ctxPut c x 0x54 v = some (t.onCtx c x fun k => { k with jc := v })) ∧
      (∀ v, (t.ctx c x).st = .trapped → ∃ u, t.ctxPut c x 0x80 v = some u ∧ (u.ctx c x).pc = v ∧ (u.ctx c x).ri = 0) ∧
      ∀ v, t.ctxPut c x 0x81 v = none)

/-- R350, R351, R355: CTXSTART makes a TRAPPED context READY, a STOPPED one what it resumes, READY where that is TRAPPED,
at the pc where it stands, and leaves one that runs; CTXREAP frees its context; CTXSTAT shows a context's state; a number
that names no user context, or a FREE one, is an illegal-operand trap for the first two. -/
def Claim.ContextControl : Prop :=
  ∀ (s : State) (h : Hdr) (d a : Opnd),
    let c := s.cur
    let x := (s.operand [] a).toNat
    let named := 0 < x ∧ x < 16
    let st := (s.ctx c x).st
    (s.Issues .sup h [a] [] →
      (¬named ∨ st = .free → exec (.ctxstart h a) s = .next (s.trapped 2 0 0) ∧
        exec (.ctxreap h a) s = .next (s.trapped 2 0 0)) ∧
      (named → st = .trapped → ∃ t, exec (.ctxstart h a) s = .next t ∧ (t.ctx c x).st = .ready ∧
        (t.ctx c x).pc = (s.ctx c x).pc) ∧
      (named → st = .stopped → ∃ t, exec (.ctxstart h a) s = .next t ∧ (t.ctx c x).pc = (s.ctx c x).pc ∧
        (t.ctx c x).st = if (s.ctx c x).resume = .trapped then .ready else (s.ctx c x).resume) ∧
      (named → (st = .ready ∨ st = .parked) → exec (.ctxstart h a) s = .next (s.done h 8 [a] [] [])) ∧
      (named → st ≠ .free → ∃ t, exec (.ctxreap h a) s = .next t ∧ (t.ctx c x).st = .free)) ∧
    (s.Ready .sup h [a] [d] → x < 16 → ∃ w : Word,
      exec (.ctxstat h d a) s = .next (s.done h 8 [a] [(d, none)] [w]) ∧
      fld w 0 3 = (match st with | .free => 0 | .ready => 1 | .parked => 2 | .trapped => 3 | .stopped => 4) ∧
      w.getLsbD 6 = s.anyOut c x ∧ w.getLsbD 7 = s.claims c x ∧ w.getLsbD 8 = s.holdsLock c x ∧
      w.getLsbD 9 = (s.ctx c x).gated)

/-- R352, R354: CTXSAVE without FREE stops a READY context in place, its state kept to resume; CTXLOAD of an image that
the core holds, into a FREE context with a window for it, makes it STOPPED with the image's pc, and what was due to the
strand, and a RAST in progress, with what the core kept of it (R295; log entry 136); one that is not FREE answers 1. The image
is read after what the strand has posted there before (R104). -/
def Claim.ContextImages : Prop :=
  ∀ (s : State) (h : Hdr) (d a b : Opnd) (key g : Nat) (m : Held),
    let c := s.cur
    let x := (s.operand [] a).toNat
    let u := s.drainOwn key
    let bs := u.bytes key 2048
    let k := s.ctx c x
    let mine := fun (m : Held) => m.addr == key &&
      (frameWord bs 78).toNat % 2 ^ 41 == frameField m.fbase m.fsize + c * 2 ^ 32 + 2 ^ 40
    s.Ready .sup h [a, b] [d] → 0 < x → x < 16 →
    (s.bufferAt (s.operand [a] b) 256 2048 1 = .ok key → k.st = .ready → k.flight = [] → k.fin = none → k.going = false → (∀ q, (s.core c).sfu = some q → q.ctx ≠ x) →
      s.wakePending c x = false → (s.mx c).run ≠ some (sidOf c x) →
      ∃ t, exec (.ctxsave h d a b false) s = .next (s.doneFrom t h 8 [a, b] [(d, none)] [0]) ∧
        (t.ctx c x).st = .stopped ∧ (t.ctx c x).resume = .ready ∧ (t.ctx c x).pc = k.pc ∧
        t.loadN (key + 0x250) 8 = k.pc.toNat) ∧
    (s.bufferAt (s.operand [a] b) 256 2048 0 = .ok key → (u.core c).held.find? mine = some m →
      ((u.ctx c x).st ≠ .free → exec (.ctxload h d a b) s = .next (s.doneFrom u h 8 [a, b] [(d, none)] [1])) ∧
      ((u.ctx c x).st = .free → (u.core c).findWindow ((frameWord bs 77).toNat / 2 ^ 30 % 4 + 1) = some g →
        u.bindingClash c x bs = false → ∃ t, exec (.ctxload h d a b) s = .next (s.doneFrom t h 8 [a, b] [(d, none)] [0]) ∧
          (t.ctx c x).st = .stopped ∧ (t.ctx c x).pc = frameWord bs 74 ∧ (t.ctx c x).winBase = g ∧
          (t.ctx c x).rejected = m.etraps ∧ (t.ctx c x).rastOn = m.rast ∧
          (t.core c).held = dropFirst mine (u.core c).held))

/-- R342: VECTORED_ENTRY makes the entry a KIND 0x13 record waits for when context 0 may be entered: the pc goes to the
vector and h7 takes the record's low word; otherwise it waits. -/
def Claim.EntryForRecord : Prop :=
  ∀ (s : State) (c : Nat) (w : Word) (ws : List Word),
    ((s.core c).entryDue = [] → exec (.vectoredEntry c) s = .next s) ∧
    ((s.core c).winOpen = false → exec (.vectoredEntry c) s = .next s) ∧
    ((s.core c).entryDue = w :: ws → (s.core c).winOpen = true → (s.core c).dead = false →
      (s.part (s.partOf c)).trapvec.getLsbD 0 = true → (s.ctx c 0).wake = .none →
      (s.ctx c 0).going = false → s.wakePending c 0 = false →
      ∃ t, exec (.vectoredEntry c) s = .next t ∧ (t.core c).winOpen = false ∧ (t.core c).entryDue = ws ∧
        (t.ctx c 0).h.get 0 6 = (s.ctx c 0).pc ∧ (t.ctx c 0).h.get 0 7 = w ∧
        (t.ctx c 0).pc = .ofNat 64 (fld (s.part (s.partOf c)).trapvec 5 47 * 32))

/-- R261, R268: ENGINE_FAULT_TRAP readies a strand that waits in ENGREND for a trap an engine owes it; a strand that is not
parked there takes it at its next turn, one that is owed none is left alone, and taking one leaves the strand TRAPPED with its
record of KIND 8, the others still owed. That the one trap names the first of several and leaves the others owed is log entry
59 (DEDUCED). -/
def Claim.EngineFaultTrap : Prop :=
  ∀ (s : State) (c x : Nat),
    let k := s.ctx c x
    (k.etraps = [] → exec (.engineFaultTrap c x) s = .next s) ∧
    (k.etraps ≠ [] → k.st = .parked → k.wake = .engrend → ∃ t, exec (.engineFaultTrap c x) s = .next t ∧
      t.ctx c x = { k with st := .ready, wake := .none } ∧ s.SameMemory t) ∧
    (k.etraps ≠ [] → k.st = .ready → exec (.engineFaultTrap c x) s = .next s) ∧
    (∀ r rs, k.etraps = r :: rs → x ≠ 0 → (s.core c).trapq.length < 16 → ∃ t, s.takeEtrap c x = some t ∧
      (t.ctx c x).st = .trapped ∧ (t.ctx c x).pc = k.pc ∧ (t.ctx c x).etraps = rs ∧
      (t.core c).trapq = (s.core c).trapq ++ [mkRec 8 x (s.core c).seq (.ofNat 64 (fld r 64 64)) (.ofNat 64 (fld r 128 64))
        (.ofNat 64 (fld r 192 64))])

/-- Starting, reaping, saving and loading contexts; owed entries and traps. -/
def Obligations.ContextForms : Prop :=
  Claim.ContextControl ∧ Claim.ContextImages ∧ Claim.EntryForRecord ∧ Claim.EngineFaultTrap

/-! ### System registers -/

/-- R326, R327, R331: MFS reads the register its number and index name: among them CARVE, FRAME, TRAPVEC, FEEDQ, the private
window's pair, the roots, the task types and the core's own number; a number that is not listed is an illegal-operand
trap. -/
def Claim.SystemReads : Prop :=
  ∀ (s : State) (h : Hdr) (d a : Opnd) (n : BitVec 12), s.Ready .sup h [a] [d] →
    let i := ((s.operand [] a).toNat + n.toNat) % 4096
    let k := s.core s.cur
    let p := s.part (s.partOf s.cur)
    let reads := fun (v : Word) => exec (.mfs h d a n) s = .next (s.done h 8 [a] [(d, none)] [v])
    (i = 0x010 → reads k.carve) ∧ (i = 0x011 → reads k.frame) ∧ (i = 0x013 → reads p.trapvec) ∧
    (i = 0x014 → reads k.feedq) ∧ (i = 0x020 → reads p.pwbase) ∧ (i = 0x021 → reads p.pwsize) ∧
    (i = 0x022 → reads p.frameq) ∧ (i = 0x023 → reads p.scrwin) ∧ (i = 0x040 → reads p.s2root) ∧
    (i = 0x000 → reads 0x800) ∧ (i = 0x012 → reads k.fifoState) ∧ (i = 0x018 → reads 0) ∧
    (0x30 ≤ i → i < 0x40 → reads (p.s1root.get 0 (i - 0x30))) ∧
    (0x50 ≤ i → i < 0x60 → reads (p.surfAddr.get 0 (i - 0x50) ||| .ofNat 64 (p.surfRes.get 0 (i - 0x50)))) ∧
    (0x100 ≤ i → i < 0x140 → reads (p.tt.get 0 (i - 0x100))) ∧
    (i = 0x001 → ∃ v : Word, reads v ∧ fld v 0 8 = s.cur % 256) ∧
    (sysListed i = false → exec (.mfs h d a n) s = .next (s.trapped 2 0 0))

/-- R326, R331: MTS writes the register its number and index name; a read-only one is left as it was; a reserved bit that
is not zero, a breach of a stated limit, or a number that is not listed, is an illegal-operand trap. CARVE and FRAME take
a reserved bit to their ERR, and FWDREC waits for firmware that does not run (R377). -/
def Claim.SystemWrites : Prop :=
  ∀ (s t : State) (h : Hdr) (a b : Opnd) (n : BitVec 12), s.Ready .sup h [a, b] [] →
    let i := ((s.operand [] a).toNat + n.toNat) % 4096
    let v := s.operand [a] b
    let c := s.cur
    let p := s.partOf c
    let ends := fun (t : State) =>
      exec (.mts h a b n) s = .next (s.doneFrom (t.onMe fun k => { k with busy := false }) h 8 [a, b] [] [])
    let plain := i < 0x50 ∨ 0x60 ≤ i
    (sysListed i = false → exec (.mts h a b n) s = .next (s.trapped 2 0 0)) ∧
    (sysListed i = true → plain → i ≠ 0x010 → i ≠ 0x011 → v &&& ~~~sysBits i ≠ 0 →
      exec (.mts h a b n) s = .next (s.trapped 2 0 0)) ∧
    ((i = 0x000 ∨ 0x800 ≤ i) → ends s) ∧
    ((i = 0x001 ∨ i = 0x002 ∨ i = 0x023 ∨ i = 0x040) → v &&& ~~~sysBits i = 0 → ends s) ∧
    (i = 0x010 → ends (s.writeCarve c v)) ∧ (i = 0x011 → ends (s.writeFrameReg c v)) ∧
    (i = 0x012 → v.toNat < 2 ^ 32 → ends (s.flushFifos c v)) ∧
    (i = 0x013 → v &&& ~~~0x000FFFFFFFFFFFE1#64 = 0 → s.writeTrapvec p v = some t → ends t) ∧
    (i = 0x014 → v &&& 0x4000400040004000 = 0 → s.writeFeedq c v = some t → ends t) ∧
    (i = 0x018 → s.writeFwdrec c v = some t → s.dev.fwUp = true → ends t) ∧
    (i = 0x018 → s.writeFwdrec c v = some t → s.dev.fwUp = false → exec (.mts h a b n) s = .next s) ∧
    ((i = 0x018 ∧ s.writeFwdrec c v = none) ∨ (i = 0x013 ∧ s.writeTrapvec p v = none) ∨ (i = 0x014 ∧ s.writeFeedq c v = none) ∨
      (i = 0x020 ∧ s.writeWindow p false v = none) ∨ (i = 0x021 ∧ s.writeWindow p true v = none) ∨
      (i = 0x022 ∧ s.writeFrameq p v = none) ∨ (0x100 ≤ i ∧ i < 0x140 ∧ s.writeType p (i - 0x100) v = none) →
      exec (.mts h a b n) s = .next (s.trapped 2 0 0)) ∧
    (i = 0x020 → v.toNat < 2 ^ 52 → s.writeWindow p false v = some t → ends t) ∧
    (i = 0x021 → v.toNat < 64 → s.writeWindow p true v = some t → ends t) ∧
    (i = 0x022 → v &&& ~~~0x80003FFF#64 = 0 → s.writeFrameq p v = some t → ends t) ∧
    (0x30 ≤ i → i < 0x40 → v &&& ~~~0x0000FFFFFFFF8001#64 = 0 → ends (s.writeS1root c p (i - 0x30) v)) ∧
    (0x100 ≤ i → i < 0x140 → v &&& ~~~0x80FFFF03#64 = 0 → s.writeType p (i - 0x100) v = some t → ends t) ∧
    (i = 0x020 → 2 ^ 52 ≤ v.toNat → exec (.mts h a b n) s = .next (s.trapped 2 0 0))

/-- MFS and MTS. -/
def Obligations.SystemRegisterForms : Prop := Claim.SystemReads ∧ Claim.SystemWrites

/-- R90, R91, R328: CARVE_WRITE resizes the scratchpad where every condition holds, the L1's dirty bytes written home, the
L1 emptied and the bytes below the new size kept, and sets ERR where one does not; FRAME_WRITE sets the frame area of an
idle core where it fits, and ERR otherwise; FIFO_FLUSH empties the FIFOs its bits name and no other. What a byte above the
new size reads as is log entry 7 (DESIGN CHOICE). -/
def Claim.CoreRegisterWrites : Prop :=
  ∀ (s : State) (c : Nat) (v : Word),
    (s.carveOk c v = false → ∃ t, exec (.carveWrite c v) s = .next t ∧
      (t.core c).carve = (s.core c).carve ||| 0x100 ∧ s.SameMemory t) ∧
    (s.carveOk c v = true → ∃ t u, exec (.carveWrite c v) s = .next t ∧ fld (t.core c).carve 0 3 = fld v 0 3 ∧
      (t.core c).l1 = [] ∧ s.WrittenBack c u ∧
      (∀ key, key < scrKey c (262144 * (fld v 0 3 + 1)) ∨ scrKey (c + 1) 0 ≤ key → t.byte key = u.byte key) ∧
      ∀ off, 262144 * (fld v 0 3 + 1) ≤ off → off < 2 ^ 21 → t.byte (scrKey c off) = 0) ∧
    ((s.core c).idleUsers = false ∨ v &&& ~~~0x87FF07FF#64 ≠ 0 ∨
      (s.core c).scratchSize < 1024 * (fld v 16 11 + fld v 0 11) → ∃ t, exec (.frameWrite c v) s = .next t ∧ (t.core c).frame.getLsbD 31 = true ∧
      fld (t.core c).frame 0 31 = fld (s.core c).frame 0 31 ∧ s.SameMemory t) ∧
    ((s.core c).idleUsers = true → v &&& ~~~0x87FF07FF#64 = 0 →
      1024 * (fld v 16 11 + fld v 0 11) ≤ (s.core c).scratchSize → ∃ t, exec (.frameWrite c v) s = .next t ∧
      (t.core c).faBase = fld v 16 11 ∧ (t.core c).faSize = fld v 0 11 ∧ s.SameMemory t) ∧
    (∃ t, exec (.fifoFlush c v) s = .next t ∧ (∀ f, f < 16 →
      (t.core c).fifos.get [] f = if v.getLsbD (16 + f) then [] else (s.core c).fifos.get [] f) ∧ s.SameMemory t)

/-- R327, R329, R331, R335, R341, R380: the writes of a partition's registers take effect where their check holds, and
change nothing where it does not: TRAPVEC needs a pinned page that is fetchable, FEEDQ and FRAMEQ queues of their kind, the
private window its alignment, a task type a frame of at most 64 KiB. An S1ROOT write drops the address space's unlocked
translations. -/
def Claim.PartitionRegisterWrites : Prop :=
  ∀ (s : State) (p c n : Nat) (v : Word),
    (v.getLsbD 0 = true → s.vectorPage p (v &&& sysBits 0x13) = none → exec (.trapvecWrite p v) s = .next s) ∧
    (v.getLsbD 0 = false ∨ (s.vectorPage p (v &&& sysBits 0x13)).isSome = true → ∃ t, exec (.trapvecWrite p v) s = .next t ∧
      (t.part p).trapvec = v &&& 0x000FFFFFFFFFFFE1) ∧
    (let named := ∀ i, i < 4 → v.getLsbD (16 * i + 15) = true → s.queueIs (s.partOf c) (fld v (16 * i) 14) true = true
     (named → ∃ t, exec (.feedqWrite c v) s = .next t ∧ (t.core c).feedq = v &&& ~~~0x4000400040004000 ∧ s.SameMemory t) ∧
      (¬named → exec (.feedqWrite c v) s = .next s)) ∧
    (v.getLsbD 31 = false ∨ s.queueIs p (fld v 0 14) false = true → ∃ t, exec (.frameqWrite p v) s = .next t ∧
      (t.part p).frameq = v &&& 0x80003FFF) ∧
    (v.getLsbD 31 = true → s.queueIs p (fld v 0 14) false = false → exec (.frameqWrite p v) s = .next s) ∧
    (let size := v &&& 0x3F
      let base := v &&& 0x000FFFFFFFFFFFFF
      let fits := fun (n : Word) (b : Word) => n = 0 ∨ (12 ≤ n.toNat ∧ n.toNat ≤ 32 ∧ b.toNat % 2 ^ n.toNat = 0)
      (fits (s.part p).pwsize base → ∃ t, exec (.privateWindowWrite p false v) s = .next t ∧ (t.part p).pwbase = base ∧
        (t.part p).pwsize = (s.part p).pwsize) ∧
      (fits size (s.part p).pwbase → ∃ t, exec (.privateWindowWrite p true v) s = .next t ∧ (t.part p).pwsize = size ∧
        (t.part p).pwbase = (s.part p).pwbase) ∧
      (¬fits (s.part p).pwsize base → exec (.privateWindowWrite p false v) s = .next s) ∧
      (¬fits size (s.part p).pwbase → exec (.privateWindowWrite p true v) s = .next s)) ∧
    (∃ t, exec (.s1rootWrite p n v) s = .next t ∧ (t.part p).s1root.get 0 n = v &&& 0x0000FFFFFFFF8001 ∧
      ∀ r e, e ∈ (t.core r).tlb → ¬(e.part = p ∧ e.as = n ∧ e.locked = false)) ∧
    (fld v 8 7 ≤ 64 → ∃ t, exec (.taskTypeWrite p n v) s = .next t ∧ (t.part p).tt.get 0 n = v &&& 0x80FFFF03) ∧
    (64 < fld v 8 7 → exec (.taskTypeWrite p n v) s = .next s)

/-- R337, R377: FWDREC hands firmware, once it runs, a copy of the 32 bytes at an aligned offset of the core's scratchpad;
FAULT_RESOLVED, once firmware runs, posts a record of KIND 0x12 that names the strand, and drops the translations of the
address. -/
def Claim.FaultForwarding : Prop :=
  ∀ (s : State) (c x : Nat) (v : Word) (r : BitVec 256) (fs : List (Nat × BitVec 256)),
    (v.toNat % 32 ≠ 0 → exec (.fwdrec c v) s = .next s) ∧
    (v.toNat % 32 = 0 → v.toNat < 2 ^ 21 → s.scrOk (s.partOf c) c v.toNat 32 = true → s.dev.fwUp = false →
      exec (.fwdrec c v) s = .next (s.plan (.fwdrec c v))) ∧
    (v.toNat % 32 = 0 → v.toNat < 2 ^ 21 → s.scrOk (s.partOf c) c v.toNat 32 = true → s.dev.fwUp = true → ∃ t,
      exec (.fwdrec c v) s = .next t ∧
      t.dev.fwd = s.dev.fwd ++ [(c, .ofNat 256 (s.loadN (scrKey c v.toNat) 32))] ∧ s.SameMemory t) ∧
    (s.dev.fwUp = false → exec (.faultResolved c x) s = .next (s.plan (.faultResolved c x))) ∧
    (s.dev.fwUp = true → s.dev.fwd = (c, r) :: fs → recCtx r = x → (s.core c).trapq.length < 16 → ∃ t,
      exec (.faultResolved c x) s = .next t ∧
      t.dev.fwd = fs ∧ (t.core c).trapq = (s.core c).trapq ++ [mkRec 0x12 x (s.core c).seq 0 0 0] ∧
      ∀ c' e, e ∈ (t.core c').tlb → ¬(e.part = s.partOf c ∧ e.va ≤ fld r 192 64 ∧ fld r 192 64 < e.va + e.size ∧
        e.locked = false))

/-- Register writes of cores and partitions; forwarded faults. -/
def Obligations.RegisterWriteEvents : Prop :=
  Claim.CoreRegisterWrites ∧ Claim.PartitionRegisterWrites ∧ Claim.FaultForwarding

/-- The low bit and the width of a shape record's field (R222, R226). -/
def recordField (f : Nat) : Nat × Nat :=
  if f = 0 then (0, 64) else if f ≤ 7 then (32 + 32 * f, 32) else (288 + 64 * (f - 8), 64)

/-- R226, R227: LDSHP and STSHP move a record of 64 bytes at a multiple of 64, scaled from their offset; SHPSET and SHPGET
write and read one field, a stride sign-extended. -/
def Claim.ShapeRecords : Prop :=
  ∀ (s : State) (h : Hdr) (d a : Opnd) (sh : BitVec 4) (o : BitVec 16) (f : BitVec 4),
    let addr := s.operand [] a + o.signExtend 64 * 64
    let r := s.me.shape sh
    (s.Ready .any h [a] [] →
      (addr.toNat % 64 ≠ 0 → exec (.ldshp h a sh o) s = .next (s.trapped 5 0 addr) ∧
        exec (.stshp h a sh o) s = .next (s.trapped 5 0 addr)) ∧
      (fld addr 60 4 = 0xC → fld addr 21 39 = 0 → addr.toNat % 64 = 0 → s.posted = [] → (s.core s.cur).wctl = [] →
        s.scrOk (s.partOf s.cur) s.cur (fld addr 0 21) 64 = true → (s.part (s.partOf s.cur)).scrwin = 0 →
        (∃ t, exec (.ldshp h a sh o) s = .next t ∧
          (t.ctx s.cur s.actor).shape sh = .ofNat 512 (s.loadN (scrKey s.cur (fld addr 0 21)) 64) ∧
          ∀ key, t.byte key = s.byte key) ∧
        (∃ t, exec (.stshp h a sh o) s = .next t ∧ t.loadN (scrKey s.cur (fld addr 0 21)) 64 = r.toNat ∧
          ∀ key, key < scrKey s.cur (fld addr 0 21) ∨ scrKey s.cur (fld addr 0 21) + 64 ≤ key → t.byte key = s.byte key)) ∧
      (f.toNat ≤ 10 → ∃ t, exec (.shpset h a sh f) s = .next t ∧
        (∀ n : BitVec 4, n ≠ sh → (t.ctx s.cur s.actor).shape n = s.me.shape n) ∧
        (t.ctx s.cur s.actor).shape sh = setFld r (recordField f.toNat).1 (recordField f.toNat).2 (s.operand [] a).toNat ∧
        s.SameMemory t)) ∧
    (s.Ready .any h [] [d] →
      (f.toNat ≤ 10 → exec (.shpget h d sh f) s = .next (s.done h 8 [] [(d, some 1)]
        [let (lo, n) := recordField f.toNat
         if 5 ≤ f.toNat ∧ f.toNat ≤ 7 then (BitVec.ofNat 32 (fld r lo n)).signExtend 64 else .ofNat 64 (fld r lo n)])))

/-! ### Tensor instructions -/

/-- What one issue of a tensor instruction does, for its operation (R175, R225, R231, R232): at its issue the checks come
first; a special-function form waits for its turn at the core's unit; then a chunk runs from the resume index; while indices
are left the strand stays at the instruction, the last chunk plans the completion, and an element that fails traps with the
index kept. -/
def tensorRuns (s : State) (h : Hdr) (i : Instr) (o : TOp) : Prop :=
  let c := s.cur
  let x := s.actor
  let e := o.env s c x (match o.xb, o.xc with
    | none, none => []
    | some b, none => [s.operand [] b]
    | none, some g => [s.operand [] g]
    | some b, some g => [s.operand [] b, s.operand [b] g])
  let passes := s.me.busy = true ∨ s.tCheck o e = none
  s.Ready .any h o.srcs [] →
    (∀ t, s.me.busy = false → s.tCheck o e = some t → exec i s = .next (s.trapped t.1 t.2.1 t.2.2)) ∧
    (passes → o.onSfu = true → (s.core c).sfuTurn x = false → exec i s = .next (s.onCore c (·.sfuAsk x))) ∧
    (passes → o.onSfu = false ∨ (s.core c).sfuTurn x = true →
      let s1 := if o.onSfu then s.onCore c (·.sfuTake x none) else s
      let k := s1.ctx c x
      ∀ r bad, runChunk o e ⟨s1.settle c, k.ri, k.status, k.total⟩ = (r, bad) →
      let kept := fun (k : Ctx) => { k with ri := r.ri, status := r.st, total := r.total }
      (∀ t, bad = some t → exec i s = .next ((r.s.onCtx c x kept).takeTrap c x t.1 t.2.1 t.2.2)) ∧
      (bad = none → r.ri < o.count e →
        exec i s = .next (r.s.onCtx c x fun k => { kept k with busy := true })) ∧
      (bad = none → o.count e ≤ r.ri → exec i s = .next ((r.s.onCtx c x fun k =>
        { kept k with busy := true, fin := some ⟨e.d.stat, k.pc + 16, h.wait.toNat, false, o.srcs⟩ }).plan
          (.tensorCompletion c x))))

/-- R231, R232, R234 to R240: every tensor form runs so, each with the operation, roles and scalar registers its encoding
gives. -/
def Claim.TensorRuns : Prop :=
  ∀ (s : State) (h : Hdr) (xa xb : Opnd) (sd s1 s2 s3 : BitVec 4) (bsc csc : Bool) (ty : Ty) (rm : BitVec 2) (sat ar : Bool)
    (op : BitVec 2) (rel : BitVec 3) (q : Bool) (fn : BitVec 4),
    let ab := fun (n : Nat) (sat ar : Bool) => tAB n xa sd s1 s2 bsc ty rm sat ar
    tensorRuns s h (.tadd h xa sd s1 s2 bsc ty rm sat) (ab 0 sat false) ∧
    tensorRuns s h (.tsub h xa sd s1 s2 bsc ty rm sat) (ab 1 sat false) ∧
    tensorRuns s h (.tmul h xa sd s1 s2 bsc ty rm sat) (ab 2 sat false) ∧
    tensorRuns s h (.tfma h xa xb sd s1 s2 s3 bsc csc ty rm) (tFma xa xb sd s1 s2 s3 bsc csc ty rm) ∧
    tensorRuns s h (.tmin h xa sd s1 s2 bsc ty rm) (ab 4 false false) ∧
    tensorRuns s h (.tmax h xa sd s1 s2 bsc ty rm) (ab 5 false false) ∧
    tensorRuns s h (.tabs h sd s1 ty rm sat) (tA (.lanes 6 ty rm.toNat sat false) sd s1) ∧
    tensorRuns s h (.tneg h sd s1 ty rm sat) (tA (.lanes 7 ty rm.toNat sat false) sd s1) ∧
    tensorRuns s h (.tand h xa sd s1 s2 bsc ty rm) (ab 8 false false) ∧
    tensorRuns s h (.tor h xa sd s1 s2 bsc ty rm) (ab 9 false false) ∧
    tensorRuns s h (.txor h xa sd s1 s2 bsc ty rm) (ab 10 false false) ∧
    tensorRuns s h (.tshl h xa sd s1 s2 bsc ty rm) (ab 11 false false) ∧
    tensorRuns s h (.tshr h xa sd s1 s2 bsc ty rm ar) (ab 12 false ar) ∧
    tensorRuns s h (.tcvt h sd s1 rm) (tA (.cvt rm.toNat) sd s1) ∧
    tensorRuns s h (.tsplit3 h sd s1 s2 s3) (tABC .split sd s1 s2 s3) ∧
    tensorRuns s h (.tred h sd s1 ty rm op) (tA (.red op.toNat ty rm.toNat) sd s1) ∧
    tensorRuns s h (.tcmp h xa sd s1 s2 bsc ty rm rel q) (tKB (.cmp ty rel.toNat q rm.toNat) xa sd s1 s2 bsc) ∧
    tensorRuns s h (.tsel h sd s1 s2 s3) (tABC .sel sd s1 s2 s3) ∧
    tensorRuns s h (.tgath h sd s1 s2) (tKB .gath 0 sd s1 s2 false) ∧
    tensorRuns s h (.tscat h sd s1 s2) (tKB .scat 0 sd s1 s2 false) ∧
    tensorRuns s h (.tfill h xa sd) (tFill xa sd) ∧
    tensorRuns s h (.tcopy h sd s1) (tA .copy sd s1) ∧
    tensorRuns s h (.tsfu h xa sd s1 s2 bsc ty rm fn) (tSfu xa sd s1 s2 bsc ty rm fn)

/-- R228, R229, R234, R236 to R240: one element of the tensor forms, where every shape is unscaled and its element lies in
a scratchpad: the code written, the flags and the saturations, each from the codes of the source elements. -/
def Claim.TensorElements : Prop :=
  ∀ (s : State) (e : TEnv) (n ka kb kc kd : Nat) (xa xb : Opnd) (sd s1 s2 s3 : BitVec 4) (rm : BitVec 2) (t : Ty),
    let j := e.d.coord n
    let base := fun (sh : Shape) (j : Coord) (k : Nat) => sh.mode = 0 ∧ s.scrAt e.core e.ctx (sh.addr j) sh.z = .ok k
    let a := s.loadN ka e.a.z % 2 ^ e.a.f.bits
    let b := s.loadN kb e.b.z % 2 ^ e.b.f.bits
    let c := s.loadN kc e.c.z % 2 ^ e.c.f.bits
    let w := tyBits t
    let x := tyVal t a
    let y := tyVal t b
    let puts := fun (o : TOp) (v fl sat : Nat) => s.tElem o e n = .ok (s.setBytes kd (toBytes e.d.z v), fl, sat)
    let clamp := fun (v : Int) => (max (tyMin t) (min v (tyMax t)) % ((2 ^ w : Nat) : Int)).toNat
    let out := fun (v : Int) => if tyMin t ≤ v ∧ v ≤ tyMax t then 0 else 1
    base e.a (e.a.bcast j) ka → base e.b (e.b.bcast j) kb → base e.c (e.c.bcast j) kc → base e.d j kd →
    (e.a.f = .ty t → e.b.f = .ty t → e.d.f = .ty t → tyFloat t = false → t ≠ .m8 →
      let ab := fun (op : Nat) (sat ar : Bool) => tAB op xa sd s1 s2 false t rm sat ar
      puts (ab 0 false false) ((a + b) % 2 ^ w) 0 0 ∧
      puts (ab 0 true false) (clamp (x + y)) 0 (out (x + y)) ∧
      puts (ab 1 false false) ((a + (2 ^ w - b)) % 2 ^ w) 0 0 ∧
      puts (ab 2 false false) (a * b % 2 ^ w) 0 0 ∧
      puts (ab 4 false false) (if x ≤ y then a else b) 0 0 ∧
      puts (ab 5 false false) (if x ≥ y then a else b) 0 0 ∧
      puts (tA (.lanes 6 t rm.toNat true false) sd s1) (clamp (if 0 ≤ x then x else -x)) 0
        (out (if 0 ≤ x then x else -x)) ∧
      puts (tA (.lanes 7 t rm.toNat false false) sd s1) ((2 ^ w - a) % 2 ^ w) 0 0 ∧
      puts (ab 8 false false) (a &&& b) 0 0 ∧ puts (ab 9 false false) (a ||| b) 0 0 ∧
      puts (ab 10 false false) (a ^^^ b) 0 0 ∧
      puts (ab 11 false false) (if w ≤ b % 256 then 0 else a * 2 ^ (b % 256) % 2 ^ w) 0 0 ∧
      puts (ab 12 false false) (a / 2 ^ (b % 256)) 0 0 ∧
      puts (ab 12 false true) (((BitVec.ofNat w a).sshiftRight (b % 256)).toNat) 0 0) ∧
    (e.a.f = .ty t → e.b.f = .ty t → e.c.f = .ty t → e.d.f = .ty t → tyFloat t = true →
      let float := fun (o : TOp) (r : Nat × Nat) => puts o r.1 r.2 0
      let f := fmtOf t
      float (tAB 0 xa sd s1 s2 false t rm false false) (f.add rm.toNat a b) ∧
      float (tAB 1 xa sd s1 s2 false t rm false false) (f.sub rm.toNat a b) ∧
      float (tAB 2 xa sd s1 s2 false t rm false false) (f.mul rm.toNat a b) ∧
      float (tFma xa xb sd s1 s2 s3 false false t rm) (f.fma rm.toNat a b c) ∧
      float (tAB 4 xa sd s1 s2 false t rm false false) (f.minMax false a b) ∧
      float (tAB 5 xa sd s1 s2 false t rm false false) (f.minMax true a b) ∧
      float (tA (.lanes 6 t rm.toNat false false) sd s1) (a % 2 ^ (w - 1), 0) ∧
      float (tA (.lanes 7 t rm.toNat false false) sd s1) ((a + 2 ^ (w - 1)) % 2 ^ w, 0) ∧
      float (tSfu xa sd s1 s2 false t rm 0) (f.div rm.toNat a b) ∧
      float (tSfu xa sd s1 s2 false t rm 1) (f.sqrtV rm.toNat (f.value a)) ∧
      float (tSfu xa sd s1 s2 false t rm 2) (f.divV rm.toNat (.fin false 1 0) (f.value a)) ∧
      float (tSfu xa sd s1 s2 false t rm 3) (f.rsqV rm.toNat (f.value a)) ∧
      float (tSfu xa sd s1 s2 false t rm 4) (f.exp2V rm.toNat (f.value a)) ∧
      float (tSfu xa sd s1 s2 false t rm 5) (f.log2V rm.toNat (f.value a)) ∧
      float (tSfu xa sd s1 s2 false t rm 6) (f.sinV rm.toNat (f.value a)) ∧
      float (tSfu xa sd s1 s2 false t rm 7) (f.cosV rm.toNat (f.value a)) ∧
      float (tSfu xa sd s1 s2 false t rm 8) (f.tanhV rm.toNat (f.value a))) ∧
    (puts (tA (.cvt rm.toNat) sd s1) (e.a.f.conv e.d.f rm.toNat a).1 (e.a.f.conv e.d.f rm.toNat a).2.1
      (e.a.f.conv e.d.f rm.toNat a).2.2) ∧
    (e.d.fmt = e.a.fmt → puts (tA .copy sd s1) a 0 0) ∧
    puts (tFill xa sd) (e.vb.toNat % 2 ^ e.d.f.bits) 0 0 ∧
    (e.d.fmt = e.a.fmt → e.d.fmt = e.b.fmt → e.c.f = .ty t → tyFloat t = false → t ≠ .m8 →
      puts (tABC .sel sd s1 s2 s3) (if c = 0 then b else a) 0 0)

/-- R238, R162, R172: an element of TCMP is 1 where its relation holds between the elements of A and B, else 0, in an integer
format or m8; a float relation raises NV as FCMP does. -/
def Claim.TensorCompare : Prop :=
  ∀ (s : State) (e : TEnv) (n ka kb kd : Nat) (xa : Opnd) (sd s1 s2 : BitVec 4) (rm : BitVec 2) (t u : Ty) (rel : BitVec 3)
    (q : Bool),
    let j := e.d.coord n
    let base := fun (sh : Shape) (j : Coord) (k : Nat) => sh.mode = 0 ∧ s.scrAt e.core e.ctx (sh.addr j) sh.z = .ok k
    let a := s.loadN ka e.a.z % 2 ^ e.a.f.bits
    let b := s.loadN kb e.b.z % 2 ^ e.b.f.bits
    let puts := fun (holds : Bool) (fl : Nat) => s.tElem (tKB (.cmp t rel.toNat q rm.toNat) xa sd s1 s2 false) e n =
      .ok (s.setBytes kd (toBytes e.d.z (if holds then 1 else 0)), fl, 0)
    base e.a (e.a.bcast j) ka → base e.b (e.b.bcast j) kb → base e.d j kd →
    e.a.f = .ty t → e.b.f = .ty t → e.d.f = .ty u → tyFloat u = false →
    (tyFloat t = false → t ≠ .m8 →
      let x := tyVal t a
      let y := tyVal t b
      puts (match rel.toNat with
        | 0 => decide (x = y) | 1 => decide (x ≠ y) | 2 => decide (x < y) | 3 => decide (y ≤ x) | 4 => decide (x ≤ y)
        | 5 => decide (y < x) | 6 => decide (a &&& b = 0) | _ => decide (a &&& b ≠ 0)) 0) ∧
    (tyFloat t = true →
      let x := (fmtOf t).value a
      let y := (fmtOf t).value b
      let nan := x.isNan || y.isNan
      puts (match rel.toNat with
        | 0 => x.eq y | 1 => !x.eq y | 2 => !nan && x.lt y | 3 => !nan && !y.lt x | 4 => !nan && y.lt x
        | 5 => !nan && !x.lt y | 6 => nan | _ => !nan)
        (if x.snan || y.snan || (nan && !q && decide (2 ≤ rel.toNat) && decide (rel.toNat ≤ 5)) then 16 else 0))

/-- R85, R236: an element of TSPLIT3 writes its three terms to D, B and C in that order: of a finite x, x brought to BF16
toward zero, what x has beyond that toward zero, and the rest to nearest even, whose flags alone are raised; an infinite x
is itself with two zeros, and a NaN the canonical NaN with two zeros and NV. A difference is taken in f32, where it is
exact. -/
def Claim.TensorSplit : Prop :=
  ∀ (s : State) (e : TEnv) (n ka kb kc kd : Nat) (sd s1 s2 s3 : BitVec 4),
    let base := fun (sh : Shape) (k : Nat) => s.scrAt e.core e.ctx (sh.addr (sh.coord n)) sh.z = .ok k
    let bf := fmtBf16
    let x := fmtF32.value (s.loadN ka 4)
    let puts := fun (hi mid lo fl : Nat) => s.tElem (tABC .split sd s1 s2 s3) e n =
      .ok (((s.setBytes kd (toBytes 2 hi)).setBytes kb (toBytes 2 mid)).setBytes kc (toBytes 2 lo), fl, 0)
    let minus := fun (v : FVal) (c : Nat) => (fAdd 0 v (bf.value c).neg).1
    let part := fun (rm : Nat) (v : FVal) => if v.isZero then (0, 0) else bf.ofVal rm v
    e.a.f = .ty .f32 → e.d.f = .ty .bf16 → e.b.f = .ty .bf16 → e.c.f = .ty .bf16 →
    base e.a ka → base e.b kb → base e.c kc → base e.d kd →
    (∀ sign m ex, x = .fin sign m ex →
      let hi := (bf.ofVal 1 x).1
      let mid := (part 1 (minus x hi)).1
      let lo := part 0 (minus (minus x hi) mid)
      puts hi mid lo.1 lo.2) ∧
    (∀ sign, x = .inf sign → puts (bf.infCode sign) 0 0 0) ∧
    (x.isNan = true → puts bf.nanCode 0 0 16)

/-- R239: an element of TGATH is the element of A its index names, or code 0 with a saturation when the index names none;
an element of TSCAT goes to the element of D its index names, or nowhere, with a saturation. -/
def Claim.TensorIndexing : Prop :=
  ∀ (s : State) (e : TEnv) (n ka kb kd : Nat) (sd s1 s2 : BitVec 4) (t : Ty), e.d.fmt = e.a.fmt → e.b.f = .ty t →
    tyFloat t = false → t ≠ .m8 →
    let base := fun (sh : Shape) (j : Coord) (k : Nat) => s.scrAt e.core e.ctx (sh.addr j) sh.z = .ok k
    let k := tyVal t (s.loadN kb e.b.z % 2 ^ e.b.f.bits)
    let v := s.loadN ka e.a.z % 2 ^ e.a.f.bits
    let inside := fun (sh : Shape) => 0 ≤ k ∧ k < sh.count
    (base e.b (e.b.bcast (e.d.coord n)) kb → base e.d (e.d.coord n) kd →
      (inside e.a → base e.a (e.a.coord k.toNat) ka →
        s.tElem (tKB .gath 0 sd s1 s2 false) e n = .ok (s.setBytes kd (toBytes e.d.z v), 0, 0)) ∧
      (¬inside e.a →
        s.tElem (tKB .gath 0 sd s1 s2 false) e n = .ok (s.setBytes kd (toBytes e.d.z 0), 0, 1))) ∧
    (base e.b (e.b.bcast (e.a.coord n)) kb →
      (inside e.d → base e.a (e.a.coord n) ka → base e.d (e.d.coord k.toNat) kd →
        s.tElem (tKB .scat 0 sd s1 s2 false) e n = .ok (s.setBytes kd (toBytes e.d.z v), 0, 0)) ∧
      (¬inside e.d → s.tElem (tKB .scat 0 sd s1 s2 false) e n = .ok (s, 0, 1)))

/-- R86, R237: a TRED of an integer sum over up to 32 inputs writes their sum, at the type's width, to the element of D, and
goes past those inputs. -/
def Claim.TensorReduction : Prop :=
  ∀ (s : State) (e : TEnv) (t : Ty) (rm m d kd : Nat) (ks : Nat → Nat) (st : BitVec 128), 0 < m → m ≤ 32 →
    tyFloat t = false → e.a.f = .ty t → e.d.f = .ty t → e.a.mode = 0 → e.d.mode = 0 →
    (∀ i, i < m → s.scrAt e.core e.ctx (e.a.addr (redCoord e.d e.a (e.d.coord d) i)) e.a.z = .ok (ks i)) →
    s.scrAt e.core e.ctx (e.d.addr (e.d.coord d)) e.d.z = .ok kd →
    redStep e 0 t rm m ⟨s, d * m, st, 0⟩ = .ok ⟨s.setBytes kd (toBytes e.d.z
      (((List.range m).foldl (fun a i => a + s.loadN (ks i) e.a.z % 2 ^ tyBits t) 0) % 2 ^ tyBits t)), d * m + m, st, 0⟩

/-- R228, R232, R239: a chunk of any form but TRED runs every index from its start to its end, in ascending order, and
writes only bytes of the elements of D that those indices name (for TSCAT of the element that the index read at its turn
names, for TSPLIT3 of B and C as well). -/
def Claim.TensorFrame : Prop :=
  ∀ (o : TOp) (e : TEnv) (r r1 : TRun), (∀ op t rm, o.kind ≠ .red op t rm) → r.ri ≤ o.count e →
    runChunk o e r = (r1, none) →
    let hit := fun (sh : Shape) (j : Coord) (key : Nat) =>
      ∃ k, r.s.scrAt e.core e.ctx (sh.addr j) sh.z = .ok k ∧ k ≤ key ∧ key < k + sh.z
    let before := fun (n : Nat) => (runElems o e (n - r.ri) r).1.s
    r1.ri = min (r.ri + 512) (o.count e) ∧
    ∀ key, r1.s.byte key ≠ r.s.byte key → ∃ n, r.ri ≤ n ∧ n < r1.ri ∧
      ((o.kind ≠ .scat ∧ hit e.d (e.d.coord n) key) ∨
        (o.kind = .split ∧ (hit e.b (e.b.coord n) key ∨ hit e.c (e.c.coord n) key)) ∨
        (o.kind = .scat ∧ ∃ i : Nat, (before n).indexAt e (e.a.coord n) = .ok (i : Int) ∧ i < e.d.count ∧
          hit e.d (e.d.coord i) key))

/-- R230, R231: TENSOR_COMPLETION writes the status word, when STAT names one, and sends the strand past its instruction;
with no operation to complete it does nothing. -/
def Claim.TensorCompletion : Prop :=
  ∀ (s : State) (c x : Nat),
    let k := s.ctx c x
    (k.fin = none → exec (.tensorCompletion c x) s = .next s) ∧
    (∀ f, k.fin = some f → f.mx = false →
      (f.stat = 0 → ∃ t, exec (.tensorCompletion c x) s = .next t ∧ (t.ctx c x).fin = none ∧ (t.ctx c x).pc = f.pc ∧
        (t.ctx c x).ri = 0 ∧ s.SameMemory t) ∧
      (∀ key, f.stat ≠ 0 → s.scrAt c x f.stat 16 = .ok key → ∃ t, exec (.tensorCompletion c x) s = .next t ∧
        (t.ctx c x).fin = none ∧ (t.ctx c x).pc = f.pc ∧ (t.ctx c x).ri = 0 ∧ t.loadN key 16 = k.status.toNat ∧
        ∀ b, b < key ∨ key + 16 ≤ b → t.byte b = s.byte b))

/-- Reductions, frame and completion of tensor operations. -/
def Obligations.TensorResults : Prop := Claim.TensorReduction ∧ Claim.TensorFrame ∧ Claim.TensorCompletion

/-! ### The matrix engine -/

/-- R244, R247, R248, R251, R254: MMLDB, MMA and MMST wait for their engine; at their issue they trap on their checks before
anything is changed; and then they run a row, or 512 elements and what their sectors still take (R131), at a time until all
are done, or an element traps, with the index kept. -/
def Claim.MatrixRuns : Prop :=
  ∀ (s : State) (h : Hdr) (n : BitVec 4) (rm : BitVec 2) (arow acol : BitVec 8), s.Ready .any h [] [] →
    let c := s.cur
    let x := s.actor
    let runs := fun (i : Instr) (o : MOp) =>
      (s.claimGang c (sidOf c x) (s.partOf c) = none → exec i s = .next (s.awaitMx c (sidOf c x) s.me.pc)) ∧
      ∀ s1, s.Engine s1 →
        let ms := s1.members c
        let k := s1.me
        let sh := shapeOf (k.shape n)
        (∀ t, k.busy = false → s1.mCheck ms x o sh = some t → exec i s = .next (s.mxBack.takeTrap c x t.1 t.2.1 t.2.2)) ∧
        (k.busy = false → s1.mCheck ms x o sh = none → s1.mReady ms x o sh = false →
          exec i s = .next (s.mxBack.takeTrap c x 2 0 0)) ∧
        (k.busy = true ∨ (s1.mCheck ms x o sh = none ∧ s1.mReady ms x o sh = true) → ∀ r bad,
          ((s1.settle c).setRun c (some (sidOf c x))).mChunk ms x o sh k.pc k.ri k.status = (r, bad) →
          let s2 := r.s.onCtx c x fun k => { k with ri := r.ri, status := r.st }
          (∀ t, bad = some t → exec i s = .next ((s2.setRun c none).takeTrap c x t.1 t.2.1 t.2.2)) ∧
          (bad = none → r.ri < o.count sh → exec i s = .next (s2.onCtx c x fun k => { k with busy := true })) ∧
          (bad = none → o.count sh ≤ r.ri → exec i s = .next ((s2.onCtx c x fun k => { k with
            busy := true, fin := some ⟨match o with | .st _ _ _ => sh.stat | _ => 0, k.pc + 16, h.wait.toNat, true, []⟩ }).plan
              (.matrixCompletion c x))))
    runs (.mmldb h n) .ldb ∧ runs (.mma h n arow) (.mma arow.toNat) ∧
    runs (.mmst h n rm arow acol) (.st rm.toNat arow.toNat acol.toNat)

/-- R131, R242, R247: a row of B enters the array of a member core with the codes of the member's own shape, each as the
engine's one read of its sector gave it; that no descriptor of B stands until its last row is in is log entry 126 (DESIGN
CHOICE). -/
def Claim.MatrixLoad : Prop :=
  ∀ (s s1 : State) (x m k : Nat) (sh : Shape) (vs : List Nat) (ks : Nat → Nat) (t : State),
    s.codes m x sh k sh.e0 = .ok (s1, vs) → s.ldbRow x sh k m = .ok t → vs.length = sh.e0 ∧ (t.mx m).b = none ∧
      (∀ j, j < sh.e0 → sh.e0 ≤ 192 → (t.mx m).array.get 0 (k * 192 + j) = vs.getD j 0) ∧
      ((∀ j, j < sh.e0 → s.scrAt m x (sh.addr ⟨j, k, 0, 0⟩) sh.z = .ok (ks j) ∧ ks j % 16 + sh.z ≤ 16) →
        (s.mx m).seen = [] → ∀ j, j < sh.e0 → vs.getD j 0 = s.loadN (ks j) sh.z % 2 ^ sh.f.bits) ∧
      (∀ i j, i < k → j < 192 → sh.e0 ≤ 192 → (t.mx m).array.get 0 (i * 192 + j) = (s.mx m).array.get 0 (i * 192 + j)) ∧
      (t.mx m).acc = (s.mx m).acc ∧ (∀ r, r ≠ m → t.core r = s.core r) ∧ ∀ key, t.byte key = s.byte key

/-- R83, R248: an integer row of MMA adds the row's products with each column of B to the row's accumulators, saturating at
32 bits once for each group of 32, and leaves every other accumulator. -/
def Claim.MatrixProduct : Prop :=
  ∀ (v : Matrix) (b : BDesc) (ta tb : Ty) (a : List Nat) (i : Nat), v.b = some b → efmt b.fmt = .ty tb → b.n ≤ 192 →
    a.length = b.k → b.k ≤ 32 → 0 < b.k →
    let t := v.addRow 0 (.ty ta) a i
    (∀ j, j < b.n →
      let sum := sgn 32 (v.acc.get 0 (i * 192 + j)).toNat + dot (a.map (intVal ta))
        ((List.range b.k).map fun k => intVal tb (v.array.get 0 (k * 192 + j)))
      (t.acc.get 0 (i * 192 + j)).toInt = max (-2 ^ 31) (min sum (2 ^ 31 - 1))) ∧
    (∀ r j, r ≠ i → j < 192 → t.acc.get 0 (r * 192 + j) = v.acc.get 0 (r * 192 + j)) ∧
    t.array = v.array ∧ t.b = v.b

/-- Exp, Sig and the aligned integer of an element among the elements `l` of its group, of width W (R81). -/
def groupExp (f : Fmt) (c : Nat) : Int := (max 1 (c / 2 ^ f.mw % 2 ^ f.ew) : Nat) - f.bias
def groupSig (f : Fmt) (c : Nat) : Nat := c % 2 ^ f.mw + if c / 2 ^ f.mw % 2 ^ f.ew = 0 then 0 else 2 ^ f.mw
def groupTop (f : Fmt) (l : List Nat) : Int := l.foldl (fun a c => max a (groupExp f c)) (1 - f.bias)
def groupInt (f : Fmt) (w : Nat) (l : List Nat) (c : Nat) : Int :=
  let m : Int := (groupSig f c * 2 ^ (w - 2) / 2 ^ (f.mw + (groupTop f l - groupExp f c)).toNat : Nat)
  if f.sg && c.testBit (f.mw + f.ew) then -m else m

/-- R81, R248: a float row of MMA goes through K in groups of 32, in ascending order, the last one short; each group of finite
elements of A and of column j of B is aligned, its exact sum of products brought to f32 to nearest even, and that added to the
entry to nearest even. A NaN among a column's elements or the row's makes the entry the canonical NaN (R82). Every other entry
stays. -/
def Claim.MatrixFloatProduct : Prop :=
  ∀ (v : Matrix) (b : BDesc) (ea : EFmt) (a : List Nat) (i cl : Nat), v.b = some b → b.n ≤ 192 → a.length = b.k → 0 < b.k →
    opClass ea = some cl → opClass (efmt b.fmt) = some cl → cl ≠ 0 →
    let fa := ea.fmt
    let fb := (efmt b.fmt).fmt
    let w := if cl = 2 then 16 else 8
    let col := fun (j : Nat) => (List.range b.k).map fun k => v.array.get 0 (k * 192 + j)
    let group := fun (l : List Nat) (q : Nat) => (l.drop (32 * q)).take 32
    let g := fun (x y : List Nat) =>
      let sum := dot (x.map (groupInt fa w x)) (y.map (groupInt fb w y))
      (fmtF32.round false 0 (decide (sum < 0)) sum.natAbs (groupTop fa x + groupTop fb y - 2 * ((w - 2 : Nat) : Int)) false).1
    let finite := fun (f : Fmt) (l : List Nat) => ∀ c ∈ l, ∃ sign m e, f.value c = .fin sign m e
    let t := v.addRow cl ea a i
    (∀ j, j < b.n → finite fa a → finite fb (col j) →
      t.acc.get 0 (i * 192 + j) = .ofNat 32 ((List.range ((b.k + 31) / 32)).foldl (fun acc q =>
        (fmtF32.add 0 acc (g (group a q) (group (col j) q))).1) (v.acc.get 0 (i * 192 + j)).toNat)) ∧
    (∀ j, j < b.n → (∃ c ∈ a, (fa.value c).isNan = true) ∨ (∃ c ∈ col j, (fb.value c).isNan = true) →
      t.acc.get 0 (i * 192 + j) = .ofNat 32 fmtF32.nanCode) ∧
    (∀ r j, r ≠ i → j < 192 → t.acc.get 0 (r * 192 + j) = v.acc.get 0 (r * 192 + j)) ∧
    t.array = v.array ∧ t.b = v.b

/-- R78, R251: an element MMST stores from an unscaled accumulator entry to an unscaled shape is the entry's i32 or f32
value brought to the shape's format. -/
def Claim.MatrixStore : Prop :=
  ∀ (s : State) (x rm arow acol n m key : Nat) (sh : Shape),
    let r := n / sh.e0
    let c := n % sh.e0
    let v := s.mx m
    let entry := (v.acc.get 0 ((arow + r) * 192 + (acol + c))).toNat
    let from_ : EFmt := .ty (if v.cls = 1 then .i32 else .f32)
    sh.mode = 0 → (v.rowL.get none (arow + r)) = none → (v.colL.get none (acol + c)) = none →
    s.scrAt m x (sh.addr ⟨c, r, 0, 0⟩) sh.z = .ok key →
    let q := if from_ = sh.f then (entry, 0, 0) else from_.conv sh.f rm entry
    s.stElem x rm arow acol sh n m =
      .ok (s.setBytes key (toBytes sh.z q.1), (arow + r) * 192 + (acol + c), q.2.1, q.2.2)

/-- R246: MMZ zeroes the accumulator, its class, its latches and the pending status of its engines, and with RL releases
them. -/
def Claim.MatrixClear : Prop :=
  ∀ (s s1 : State) (h : Hdr), s.Ready .any h [] [] → s.Engine s1 →
    (exec (.mmz h false) s = .next ((s1.mmz s.actor (s1.members s.cur) false).mxEnds h 8 0)) ∧
    (exec (.mmz h true) s = .next ((s1.mmz s.actor (s1.members s.cur) true).mxEnds h 8 0)) ∧
    ∀ rl m, m ∈ s1.members s.cur →
      let v := (s1.mmz s.actor (s1.members s.cur) rl).mx m
      v.acc = [] ∧ v.cls = 0 ∧ v.rowL = [] ∧ v.colL = [] ∧ v.status = 0 ∧ v.array = (s1.mx m).array ∧
      v.b = (s1.mx m).b ∧ (rl = true → v.owner = none)

/-- R244, R245: MMGANG takes a core whose column is a multiple of the gang's size, with every member in its partition, or
is an illegal-operand trap; that a size of 1, which dissolves a gang and releases its members, keeps the issuer's own
engine is log entry 35 (DEDUCED), stated here of a strand that leads no gang. -/
def Claim.MatrixGang : Prop :=
  ∀ (s s1 : State) (h : Hdr) (gsz : BitVec 2), s.Ready .any h [] [] →
    let c := s.cur
    let g := 2 ^ gsz.toNat
    ((colOf c % g ≠ 0 ∨ (∃ i, i < g ∧ s.inPart (s.partOf c) (c + i) = false)) →
      exec (.mmgang h gsz) s = .next (s.trapped 2 0 0)) ∧
    (s.Engine s1 → (s1.mx c).gang = 1 → s.inPart (s.partOf c) c = true →
      exec (.mmgang h 0) s = .next ((s1.onMx c fun v => { v with gang := 1 }).mxEnds h 8 0)) ∧
    (s.Engine s1 → (s1.mx c).gang = 1 → colOf c % g = 0 → (∀ i, i < g → s.inPart (s.partOf c) (c + i) = true) →
      (∀ m, c < m → m < c + g → (s1.mx m).owner = none ∧ (s1.mx m).waiters = [] ∧
        ((s1.mx m).lastPart = some (s.partOf c) ∨ (s1.mxSpill.find (spillKey (s.partOf c) m)) = none)) →
      ∃ t, exec (.mmgang h gsz) s = .next t ∧ (t.mx c).gang = g ∧
        ∀ m, c ≤ m → m < c + g → (t.mx m).owner = some (sidOf c s.actor))

/-- R253: MATRIX_COMPLETION ends the engine's operation and sends the strand past its instruction; with no matrix operation
to complete it does nothing. -/
def Claim.MatrixCompletion : Prop :=
  ∀ (s : State) (c x : Nat),
    ((s.ctx c x).fin = none → exec (.matrixCompletion c x) s = .next s) ∧
    (∀ f, (s.ctx c x).fin = some f → f.mx = true → f.stat = 0 →
      ∃ t, exec (.matrixCompletion c x) s = .next t ∧ (t.ctx c x).fin = none ∧ (t.ctx c x).pc = f.pc ∧ (t.ctx c x).ri = 0 ∧
        (s.owns c (sidOf c x) (s.partOf c) = true → (t.mx c).run = none) ∧ (t.mx c).acc = (s.mx c).acc ∧ s.SameMemory t)

/-- Matrix stores, clearing, gangs and completion. -/
def Obligations.MatrixControl : Prop :=
  Claim.MatrixStore ∧ Claim.MatrixClear ∧ Claim.MatrixGang ∧ Claim.MatrixCompletion

/-! ### The copy engine -/

/-- R255 to R257, R259: a copy instruction makes its checks before anything; one that passes takes the lowest free slot in
its turn, with its shapes and action captured, and goes past; while no slot is free, or its turn has not come, it waits. A
CPYMM has its engine first, and MOP 1 needs a gang of one core. -/
def Claim.CopyAccepted : Prop :=
  ∀ (s : State) (h : Hdr) (xa xb : Opnd) (sd s1 s2 : BitVec 4) (act : BitVec 3) (pri : Bool) (rop mop : BitVec 2)
    (arow : BitVec 8), s.Ready .any h (actSrcs act.toNat xa xb) [] →
    let c := s.cur
    let x := s.actor
    let k := s.me
    let srcs := actSrcs act.toNat xa xb
    let target := if act = 0 then 0 else s.operand [] xa
    let val := if act = 0 ∨ act = 3 then 0 else s.operand [xa] xb
    let q := fun (form : Nat) (m : BitVec 512) (mop arow rop : Nat) => newCopy form (k.shape sd) (k.shape s1) m mop arow rop
      act.toNat pri target val x (s.partOf c) k.as k.pc k.summ none
    let takes := fun (i : Instr) (t : State) (q : Copy) =>
      (∀ slot, (t.core c).freeSlot = some slot → t.copyTurn c x = true →
        exec i s = .next (s.doneFrom (t.acceptCopy c slot q) h 16 srcs [] [])) ∧
      ((t.core c).freeSlot = none ∨ t.copyTurn c x = false →
        ∃ r, exec i s = .next r ∧ (r.ctx c x).pc = k.pc ∧ (r.core c).copies = (t.core c).copies ∧ t.SameMemory r)
    let fails := fun (i : Instr) (q : Copy) =>
      ∀ e, s.copyBad c q = some e → exec i s = .next (s.trapped e.1 e.2.1 e.2.2)
    let cpy := q 0 (k.shape 0) 0 0 0
    let red := q 1 (k.shape 0) 0 0 rop.toNat
    let cmm := q 2 (k.shape s2) mop.toNat arow.toNat 0
    fails (.cpy h xa xb sd s1 act pri) cpy ∧ fails (.cpyred h xa xb sd s1 act pri rop) red ∧
    fails (.cpymm h xa xb sd s1 s2 act pri mop arow) cmm ∧
    (s.copyBad c cpy = none → takes (.cpy h xa xb sd s1 act pri) s cpy) ∧
    (s.copyBad c red = none → takes (.cpyred h xa xb sd s1 act pri rop) s red) ∧
    (s.copyBad c cmm = none → ∀ t, s.claim c (sidOf c x) (s.partOf c) = some t →
      (mop = 1 ∧ 1 < (t.mx c).gang → exec (.cpymm h xa xb sd s1 s2 act pri mop arow) s = .next (s.trapped 2 0 0)) ∧
      (¬(mop = 1 ∧ 1 < (t.mx c).gang) → takes (.cpymm h xa xb sd s1 s2 act pri mop arow) t cmm)) ∧
    (s.copyBad c cmm = none → s.claim c (sidOf c x) (s.partOf c) = none →
      exec (.cpymm h xa xb sd s1 s2 act pri mop arow) s = .next (s.awaitMx c (sidOf c x) k.pc))

/-- R258: an element whose source and destination are unscaled keeps its code where the formats are one, and otherwise is
converted, rounding to nearest even. -/
def Claim.CopyElement : Prop :=
  ∀ (s s1 : State) (k : Copy) (c n v : Nat),
    let d := shapeOf k.d
    let a := shapeOf k.a
    d.mode = 0 → a.mode = 0 → s.engRead k.part k.as c k.ctx (a.addr (a.bcast (d.coord n))) a.z = (s1, .ok v) →
    (a.f = d.f → s.copyElem k c n = (s1, .ok (v % 2 ^ a.f.bits, 0, 0))) ∧
    (a.f ≠ d.f → s.copyElem k c n = (s1, .ok (a.f.conv d.f 0 (v % 2 ^ a.f.bits))))

/-- R258, R261: a unit whose sources or destination fail stops its copy, with nothing written; one that goes through into
a scratchpad of this device writes its bytes, those and no other, and goes on to the next unit, or to what follows the last
one. That it is confirmed in the step that applies it is log entry 117 (DESIGN CHOICE). -/
def Claim.CopyUnit : Prop :=
  ∀ (s : State) (c slot : Nat) (k : Copy), (s.core c).copies.find slot = some k → k.phase = 0 → k.stopped = false →
    let d := shapeOf k.d
    let ns := unitFrom d k.pos
    let as := ns.map fun n => (d.addr (d.coord n)).toNat
    let lo := as.foldl min (as.headD 0)
    let hi := as.foldl max 0 + d.z
    (∀ s1 e, s.copyCodes k c ns = (s1, .error e) → exec (.copyUnitConfirm c slot) s = .next (s1.stopCopy c slot e)) ∧
    (∀ s1 s2 vs st e, s.copyCodes k c ns = (s1, .ok (vs, st)) →
      s1.placeIn k.part k.as c k.ctx (.ofNat 64 lo) (hi - lo) 1 1 3 = (s2, .error e) →
      exec (.copyUnitConfirm c slot) s = .next (s2.stopCopy c slot e)) ∧
    (∀ s1 s2 vs st pl, s.copyCodes k c ns = (s1, .ok (vs, st)) →
      s1.placeIn k.part k.as c k.ctx (.ofNat 64 lo) (hi - lo) 1 1 3 = (s2, .ok pl) →
      s2.posted = [] → ownScr ≤ pl.key → k.form = 0 →
      ∃ t, exec (.copyUnitConfirm c slot) s = .next t ∧
        (∀ key, t.byte key = if pl.key ≤ key ∧ key < pl.key + (unitBytes k (s2.bytes pl.key (hi - lo)) lo vs st).1.length
          then (unitBytes k (s2.bytes pl.key (hi - lo)) lo vs st).1.getD (key - pl.key) 0 else s2.byte key) ∧
        ∃ k1, (t.core c).copies.find slot = some k1 ∧ k1.ri = k.ri + 1 ∧ k1.pos = k.pos + ns.length ∧
          (d.count ≤ k.pos + ns.length → k1.phase = 3) ∧ (k.pos + ns.length < d.count → k1.phase = 0) ∧
          k1.regs = k.regs ||| pl.region)

/-- R258: CPYRED reduces each element into the sector's old code, with its own operation; a plain copy puts the code over
it; bytes of the sector that hold no element of the unit stay. -/
def Claim.CopyUnitBytes : Prop :=
  ∀ (k : Copy) (old : List Byte) (base n v : Nat) (st : BitVec 128),
    let d := shapeOf k.d
    let i := (d.addr (d.coord n)).toNat - base
    i + d.z ≤ old.length →
    let r := (unitBytes k old base [(n, v)] st).1
    r.length = old.length ∧ (∀ j, (j < i ∨ i + d.z ≤ j) → r.getD j 0 = old.getD j 0) ∧
    (k.form = 0 → ofBytes ((r.drop i).take d.z) = v % 2 ^ (8 * d.z)) ∧
    (∀ t, k.form = 1 → d.f = .ty t → ofBytes ((r.drop i).take d.z) =
      (redOp t k.rop (ofBytes ((old.drop i).take d.z)) v).1 % 2 ^ (8 * d.z))

/-- R259: MATRIX_COMMAND_GIVEN waits for its partition, the strand's earlier commands and the engine; it then makes the
checks of R242 and performs the command a row at a time, the last row giving way to the completion. That it waits while
its partition is swapped out, where R360 and R362 let the partition's copies go on, is the model's reading: log entry
75. -/
def Claim.CopyCommand : Prop :=
  ∀ (s : State) (c slot : Nat) (k : Copy), (s.core c).copies.find slot = some k → k.phase = 1 ∨ k.phase = 2 →
    k.stopped = false →
    let waits := exec (.matrixCommandGiven c slot) s = .next (s.plan (.matrixCommandGiven c slot))
    (s.partOf c ≠ k.part → waits) ∧ ((s.core c).firstCommand k = false → waits) ∧
    (s.mxBusy c (8192 + slot) = true → waits) ∧
    (s.partOf c = k.part → (s.core c).firstCommand k = true → s.mxBusy c (8192 + slot) = false →
      (s.claimGang c (sidOf c k.ctx) k.part = none → waits) ∧
      (∀ s1, s.claimGang c (sidOf c k.ctx) k.part = some s1 →
        let ms := s1.members c
        let sh := shapeOf k.m
        (∀ e, k.mri = 0 → s1.mCheck ms k.ctx k.command sh = some e →
          exec (.matrixCommandGiven c slot) s = .next (s1.stopCopy c slot e)) ∧
        (k.mri ≠ 0 ∨ (s1.mCheck ms k.ctx k.command sh = none ∧ s1.mReady ms k.ctx k.command sh = true) → ∀ r,
          (s1.setRun c (some (8192 + slot))).mChunk ms k.ctx k.command sh k.pc k.mri 0 = (r, none) →
          let t := r.s.onCopy c slot fun k => { k with mri := r.ri, phase := 2 }
          (r.ri < k.command.count sh →
            exec (.matrixCommandGiven c slot) s = .next (t.plan (.matrixCommandGiven c slot))) ∧
          (k.command.count sh ≤ r.ri → exec (.matrixCommandGiven c slot) s =
            .next (((t.setRun c none).onCopy c slot fun k => { k with phase := 3 }).plan (.copyCompletion c slot))))))

/-- R108, R255, R260, R268: COPY_COMPLETION publishes and performs the copy's action, whether or not its partition runs, and
frees its slot: the strand's next ENGREND is given the copy's summary; a message that finds no room is tried again; action 2
adds to its signal; action 3 hands the decrement to its node's core, and frees the slot once that has accepted it. -/
def Claim.CopyCompletion : Prop :=
  ∀ (s : State) (c slot : Nat) (k : Copy), (s.core c).copies.find slot = some k → k.stopped = false →
    k.launch = 0 → k.seqr = none →
    let f := k.summ ||| k.regs
    let run := exec (.copyCompletion c slot) s
    let freed := fun (s1 : State) => ∃ t, run = .next t ∧ (t.core c).copies.find slot = none ∧
      (t.ctx (s1.home k.part c) k.ctx).eng = (s1.ctx (s1.home k.part c) k.ctx).eng ||| f ∧ s1.SameMemory t
    let s1 := s.publish c k.ctx
    let stays := fun (n : Nat) (t : State) =>
      run = .next ((t.onCopy c slot fun k => { k with phase := n }).plan (.copyCompletion c slot))
    (k.phase = 6 → freed s) ∧
    (k.phase = 5 → (s.decPending k c = false → freed s) ∧
      (s.decPending k c = true → run = .next (s.plan (.copyCompletion c slot)))) ∧
    (k.phase = 4 →
      (k.act = 0 → freed s) ∧
      (∀ aim, k.act = 1 → s1.mailName k.part k.target = .ok aim →
        (s1.sendMail k.part c aim k.pri ⟨k.val, some f⟩ = none → stays 4 s1) ∧
        (∀ s2, s1.sendMail k.part c aim k.pri ⟨k.val, some f⟩ = some s2 → freed s2)) ∧
      (∀ s2 s3 pl, k.act = 2 → s1.placeIn k.part k.as c k.ctx k.target 256 256 1 3 = (s2, .ok pl) →
        s2.isForeign pl = false → s2.signalAt k.part c pl.hm pl.key false false k.val f (byCopy c) = some s3 → freed s3) ∧
      (∀ core off, k.act = 3 → s1.decodeIn k.part c k.ctx k.target 32 true = .ok (.scr core off) →
        stays 5 (s1.sendDec k.part core off f)))

/-- Copies: bytes, matrix commands and completion. -/
def Obligations.CopyEnds : Prop := Claim.CopyUnitBytes ∧ Claim.CopyCommand ∧ Claim.CopyCompletion

/-! ### Dependence graphs and engine scripts -/

/-- R263: DGN, after what its strand has posted to the node's bytes (R104), writes a live node into its own scratchpad
with its action, context, summary slot, count, argument and target; it waits while the core has no free summary slot; and
it traps as illegal-operand on a node that is live or an action above 5. A count of 0 fires at once: LIVE is clear, and
the node's action waits its turn at the graph unit. -/
def Claim.NodeCreate : Prop :=
  ∀ (s : State) (h : Hdr) (a b c : Opnd) (act : BitVec 3) (count : BitVec 10) (off : Nat), s.Ready .any h [a, b, c] [] →
    s.ownAddr s.cur s.actor (s.partOf s.cur) (s.operand [] a) 32 32 = .ok off →
    let key := scrKey s.cur off
    let run := exec (.dgn h a b c act count) s
    let v := s.drainOwn key
    (v.nodeLive s.cur off = true ∨ 6 ≤ act.toNat → run = .next (v.takeTrap s.cur s.actor 2 0 0)) ∧
    (v.nodeLive s.cur off = false → act.toNat < 6 →
      ((v.core s.cur).freeSumm = none → run = .next v) ∧
      (∀ i, (v.core s.cur).freeSumm = some i → i < 64 ∧ ∃ t, run = .next t ∧
        t.loadN (key + 16) 8 = (s.operand [a, b] c).toNat ∧ t.loadN (key + 24) 8 = (s.operand [a] b).toNat ∧
        t.loadN (key + 12) 4 = count.toNat ∧
        t.loadN key 4 = act.toNat + 256 * s.actor + 2 ^ 16 * i + (if count = 0 then 0 else 2 ^ 31) ∧
        (t.core s.cur).slots.find i = some v.me.summ ∧ (∀ b, b < key ∨ key + 32 ≤ b → t.byte b = v.byte b) ∧
        (count ≠ 0 → (t.core s.cur).fired = (v.core s.cur).fired ∧ off ∈ (t.core s.cur).nodes) ∧
        (count = 0 → off ∉ (t.core s.cur).nodes ∧ ⟨s.mesh, .nodeAction s.cur⟩ ∈ t.agenda ∧ ∃ g : Fired,
          (t.core s.cur).fired = (v.core s.cur).fired ++ [g] ∧ g.act = act.toNat ∧ g.ctx = s.actor ∧ g.slot = i ∧
          g.off = off ∧ g.target = s.operand [a] b ∧ g.arg = s.operand [a, b] c ∧ g.summ = v.me.summ ∧ g.stopped = false)))

/-- R264, R265: a decrement of a live node unites its summary into the node's slot and takes 1 from the count; the one
that reaches 0 clears LIVE and queues the action; one of a node that is not live posts a record of KIND 0x11 and changes
no byte; while such a record waits for room in the trap queue, a decrement waits (R340), and with it the DGDEC that makes
it. DGDEC publishes first, and what its core has sent to the node's scratchpad is performed; an address that names no node
that is live then is an illegal-operand trap. -/
def Claim.NodeDecrement : Prop :=
  ∀ (s : State) (c off : Nat) (f : Summary),
    let key := scrKey c off
    let w := s.nodeWord c off
    let slot := w / 2 ^ 16 % 64
    let free := (s.core c).graphBlocked = false
    ((s.core c).graphBlocked = true → exec (.nodeDecrement c off f) s = .next (s.plan (.nodeDecrement c off f))) ∧
    (free → s.nodeLive c off = false →
      exec (.nodeDecrement c off f) s = .next (s.post c 0x11 0 0 0 (.ofNat 64 (0xC * 2 ^ 60 + off)))) ∧
    (free → s.nodeLive c off = true → 1 < s.loadN (key + 12) 4 → ∃ t, exec (.nodeDecrement c off f) s = .next t ∧
      t.loadN (key + 12) 4 = s.loadN (key + 12) 4 - 1 ∧ (t.core c).slots.get 0 slot = (s.core c).slots.get 0 slot ||| f ∧
      (t.core c).fired = (s.core c).fired ∧ ∀ b, b < key + 12 ∨ key + 16 ≤ b → t.byte b = s.byte b) ∧
    (free → s.nodeLive c off = true → s.loadN (key + 12) 4 = 1 → ∃ t g, exec (.nodeDecrement c off f) s = .next t ∧
      t.loadN (key + 12) 4 = 0 ∧ t.loadN key 4 = w - 2 ^ 31 ∧ (t.core c).fired = (s.core c).fired ++ [g] ∧
      g.act = w % 8 ∧ g.target.toNat = s.loadN (key + 24) 8 ∧ g.arg.toNat = s.loadN (key + 16) 8 ∧
      g.summ = (s.core c).slots.get 0 slot ||| f ∧ t.agenda = s.agenda ++ [⟨s.mesh, .nodeAction c⟩]) ∧
    (∀ (h : Hdr) (a : Opnd), s.Ready .any h [a] [] →
      (s.nodePlace s.cur s.actor (s.partOf s.cur) (s.operand [] a) = none →
        exec (.dgdec h a) s = .next (s.trapped 2 0 0)) ∧
      (s.nodePlace s.cur s.actor (s.partOf s.cur) (s.operand [] a) = some (c, off) →
        let u := (s.publish s.cur s.actor).drain s.cur false key
        (u.nodeLive c off = false → exec (.dgdec h a) s = .next (u.takeTrap s.cur s.actor 2 0 0)) ∧
        (u.nodeLive c off = true → (u.core c).graphBlocked = true → exec (.dgdec h a) s = .next u) ∧
        (u.nodeLive c off = true → (u.core c).graphBlocked = false →
          exec (.dgdec h a) s = .next (s.doneFrom (u.nodeDec c off (u.ctx s.cur s.actor).summ) h 8 [a] [] []))))

/-- R108, R260, R264: NODE_ACTION checks the target of the first fired action of the core's partition as an instruction's
is checked, publishes and performs it: action 0 none; 1 and 2 a message of each priority, tried again while the mailbox is
full; 3 a signal's sum; 4 a decrement of another node; 5 a script, after the core's Refresh; and frees its summary slot.
With no action left it does nothing. -/
def Claim.NodeAction : Prop :=
  ∀ (s : State) (c : Nat) (g : Fired),
    let first := (s.core c).fired.find? fun f => !f.stopped && f.part == s.partOf c
    let run := exec (.nodeAction c) s
    let s1 := s.publish c g.ctx
    ((s.core c).fired = [] → run = .next s) ∧
    (first = some g → (s.core c).graphBlocked = true → run = .next (s.plan (.nodeAction c))) ∧
    (first = some g → (s.core c).graphBlocked = false →
      (g.act = 0 → ∃ t, run = .next t ∧ (t.core c).slots.find g.slot = none ∧
        (t.core c).fired.length + 1 = (s.core c).fired.length ∧ s.SameMemory t) ∧
      (∀ e, g.act ≠ 5 → s.firedBad c g = some e → run = .next (s.stopFired c g e)) ∧
      (∀ aim, g.act = 1 ∨ g.act = 2 → s.firedBad c g = none → s1.mailName g.part g.target = .ok aim →
        let sent := s1.sendMail g.part c aim (g.act == 2) ⟨g.arg, some g.summ⟩
        (sent = none → run = .next (s1.plan (.nodeAction c))) ∧ ∀ m, sent = some m → run = .next (m.endFired c g)) ∧
      (∀ s2 s3 pl, g.act = 3 → s.firedBad c g = none → s1.placeIn g.part g.as c g.ctx g.target 256 256 1 3 = (s2, .ok pl) →
        s2.isForeign pl = false → s2.signalAt g.part c pl.hm pl.key false false g.arg g.summ (byCopy c) = some s3 →
        run = .next (s3.endFired c g)) ∧
      (∀ core off, g.act = 4 → s.firedBad c g = none → s1.decodeIn g.part c g.ctx g.target 32 true = .ok (.scr core off) →
        run = .next ((s1.sendDec g.part core off g.summ).endFired c g)) ∧
      (∀ e, g.act = 5 → s.scriptAt c g.ctx g.part g.target = .error e → run = .next (s.stopFired c g e)) ∧
      (∀ off q, g.act = 5 → s.scriptAt c g.ctx g.part g.target = .ok off → (s.core c).freeSeqr = some q →
        run = .next (((s.invalidate c g.summ).takeScript c q off g.arg g.ctx g.part g.as g.summ).endFired c g)))

/-- Dataflow nodes. -/
def Obligations.Nodes : Prop := Claim.NodeCreate ∧ Claim.NodeDecrement ∧ Claim.NodeAction

/-- R103, R267: ENGFORK, after what its core has posted, starts its script on the lowest idle sequencer, with the header as
it is then, and waits while there is none; a bad script address or header, or a completion node that is not live, is a
trap. -/
def Claim.ScriptFork : Prop :=
  ∀ (s : State) (h : Hdr) (a b : Opnd), s.Ready .any h [a, b] [] →
    let u := s.settle s.cur
    let c := u.cur
    let x := u.actor
    let p := u.partOf c
    let node := s.operand [a] b
    let run := exec (.engfork h a b) s
    (∀ e, u.scriptAt c x p (s.operand [] a) = .error e → run = .next (u.takeTrap s.cur s.actor e.1 e.2.1 e.2.2)) ∧
    (∀ off, u.scriptAt c x p (s.operand [] a) = .ok off →
      (node ≠ 0 → u.nodeTarget c x p node = none → run = .next (u.takeTrap s.cur s.actor 2 0 0)) ∧
      (node = 0 ∨ (u.nodeTarget c x p node).isSome = true →
        ((u.core c).freeSeqr = none → run = .next u) ∧
        (∀ q, (u.core c).freeSeqr = some q →
          let key := scrKey c off
          let t := u.takeScript c q off node x p u.me.as u.me.summ
          run = .next (s.doneFrom t h 8 [a, b] [] []) ∧
          ∃ r, (t.core c).seqrs.find q = some r ∧ r.off = off ∧ r.ctx = x ∧ r.node = node ∧
            r.len = (u.settle c).loadN (key + 16) 2 ∧ r.shpt.toNat = (u.settle c).loadN (key + 24) 8 ∧
            (r.h.getD 2 0).toNat = (u.settle c).loadN (key + 48) 8)))

/-- R266 to R268: SCRIPT_START goes to the first instruction; SCRIPT_INSTRUCTION stops on a word it cannot
hold and passes a NOP; SCRIPT_END frees the sequencer and keeps its edge for its owner's ENGREND; none of them does
anything for an idle sequencer. -/
def Claim.ScriptEvents : Prop :=
  ∀ (s : State) (c q : Nat),
    ((s.core c).seqrs.find q = none → exec (.scriptStart c q) s = .next s ∧ exec (.scriptInstruction c q) s = .next s ∧
      exec (.scriptEnd c q) s = .next s) ∧
    (∀ r, (s.core c).seqrs.find q = some r →
      exec (.scriptStart c q) s = .next (s.plan (.scriptInstruction c q)) ∧
      (r.stopped = false → s.partOf c = r.part →
        (∀ e, s.scriptFetch c r = .error e → exec (.scriptInstruction c q) s = .next (s.stopScript c q r e)) ∧
        (∀ n w, s.scriptFetch c r = .ok (n, w) → decode w = .ok (.nop ⟨0, 0, false⟩) →
          exec (.scriptInstruction c q) s = .next (s.scriptNext c q n)) ∧
        (∀ n w i, s.scriptFetch c r = .ok (n, w) → decode w = .ok i → scriptOp i = none →
          exec (.scriptInstruction c q) s = .next (s.stopScript c q r (1, 0, 0))) ∧
        (r.node = 0 → ∃ t, exec (.scriptEnd c q) s = .next t ∧ (t.core c).seqrs.find q = none ∧
          (t.ctx c r.ctx).eng = (s.ctx c r.ctx).eng ||| (r.summ ||| r.regs) ∧ s.SameMemory t)))

/-- R268: ENGREND parks while the strand has an engine operation outstanding; with none it refreshes with the completed
operations' summaries and goes on; with FIN set outside a script it is an illegal instruction. -/
def Claim.EngineRendezvous : Prop :=
  ∀ (s : State) (h : Hdr),
    exec (.engrend h true) s = .next (s.trapped 1 0 0) ∧
    (s.Ready .any h [] [] →
      (s.engOut s.cur s.actor = true → exec (.engrend h false) s = .next (s.parkCtx s.cur s.actor .engrend)) ∧
      (s.engOut s.cur s.actor = false → exec (.engrend h false) s = .next (s.doneFrom
        ((s.refresh s.cur s.actor s.me.eng).onMe fun k => { k with eng := 0 }) h 8 [] [] [])))

/-- Scripts and the engine rendezvous. -/
def Obligations.Scripts : Prop := Claim.ScriptFork ∧ Claim.ScriptEvents ∧ Claim.EngineRendezvous

/-! ### Refinement -/

/-- R279, R283: RFSTART checks its address, waits while the slice's controller is busy, publishes, and hands over a block
that passes the check, or is an illegal-operand trap; RFSTAT returns the live RES of a solve of that block that has not
written its results, else the RES the block holds, refreshing when it is finished. -/
def Claim.RefineStart : Prop :=
  ∀ (s : State) (h : Hdr) (d a : Opnd),
    let c := s.cur
    let x := s.actor
    let i := sliceOf c
    let addr := s.operand [] a
    (s.Ready .any h [a] [] →
      (addr.toNat % 256 ≠ 0 → exec (.rfstart h a) s = .next (s.trapped 5 0 addr)) ∧
      (∀ s1 p, s.blockPlace addr 1 = (s1, .ok p) →
        ((s1.slice i).rf.phase ≠ 0 → exec (.rfstart h a) s = .next s1) ∧
        ((s1.slice i).rf.phase = 0 →
          let s2 := s1.publish c x
          let b := s2.bytes p.key 256
          let k := s2.ctx c x
          let r := newRefine b addr c x (s2.partOf c) k.as k.pc k.summ
          (s2.blockBad c x b = true → exec (.rfstart h a) s = .next (s2.takeTrap c x 2 0 0)) ∧
          (s2.blockBad c x b = false → exec (.rfstart h a) s =
            .next (s.doneFrom ((s2.onRf i fun _ => r).plan (.refineFactor i)) h 16 [a] [] [])) ∧
          r.phase = 1 ∧ r.blk = addr ∧ r.n = ofBytes ((b.drop 0x20).take 4)))) ∧
    (s.Ready .any h [a] [d] → ∀ s1 p, s.blockPlace addr 0 = (s1, .ok p) →
      let r := (s1.slice i).rf
      let live := r.phase ≠ 0 ∧ r.phase < 5 ∧ r.blk = addr ∧ r.part = s1.partOf c ∧ r.as = (s1.ctx c x).as
      (live → exec (.rfstat h d a) s = .next (s.doneFrom s1 h 16 [a] [(d, none)] [r.res 0])) ∧
      (¬live →
        let s2 := (s1.clearSector c x (p.key + 0x60)).drain c p.hm (p.key + 0x60)
        let v : Word := .ofNat 64 (s2.loadN (p.key + 0x60) 8)
        exec (.rfstat h d a) s = .next (s.doneFrom (if fld v 0 4 = 0 then s2 else s2.refresh c x fullSummary) h 16 [a]
          [(d, none)] [v])))

/-- R272: RES holds the exit, the rung, the escalations, the rungs that failed and the passes, each in its field. -/
def Claim.RefineResult : Prop :=
  ∀ (r : Refine) (exit : Nat), exit < 16 → r.rung < 8 → r.esc < 16 →
    fld (r.res exit) 0 4 = exit ∧ fld (r.res exit) 4 3 = r.rung ∧ fld (r.res exit) 8 4 = r.esc ∧
    fld (r.res exit) 32 4 = r.fail.toNat ∧ fld (r.res exit) 48 16 = r.passes % 2 ^ 16 ∧ fld (r.res exit) 12 20 = 0

/-- R274: a column breaks down when an entry from the diagonal down is NaN or infinite, or all of them are zero, and leaves
the matrix; otherwise its pivot, the lowest of the largest, comes to the diagonal with its entry of the permutation. -/
def Claim.RefinePivot : Prop :=
  ∀ (l : Lu) (f : Fmt) (n p q : Nat), l.t.length = n → l.perm.length = n → p < n →
    let col := fun (i : Nat) => getE l.t i p
    ((∃ i, p ≤ i ∧ i < n ∧ f.wild (col i) = true) ∨ (∀ i, p ≤ i → i < n → f.mag (col i) = 0) →
      l.column f n (p + 1) p = (l, false)) ∧
    ((∀ i, p ≤ i → i < n → f.wild (col i) = false) → p ≤ q → q < n → 0 < f.mag (col q) →
      (∀ i, p ≤ i → i < n → f.mag (col i) ≤ f.mag (col q)) → (∀ i, p ≤ i → i < q → f.mag (col i) < f.mag (col q)) →
      (l.column f n (p + 1) p).2 = true ∧ getE (l.column f n (p + 1) p).1.t p p = col q ∧
      (l.column f n (p + 1) p).1.perm.getD p 0 = l.perm.getD q 0 ∧
      (l.column f n (p + 1) p).1.perm.getD q 0 = l.perm.getD p 0)

/-- Refinement: starting, results and pivots. -/
def Obligations.RefinementStart : Prop := Claim.RefineStart ∧ Claim.RefineResult ∧ Claim.RefinePivot

/-- R276, R277: the tests of a pass: converged when the norm is at most tol × β, decided exactly; else diverged on a NaN or
infinite norm, or past δ × ν₀ after the first pass; stagnated after STAG passes that do not improve by ρ; else the limit. -/
def Claim.RefineTests : Prop :=
  ∀ (r : Refine) (nu : Word),
    let v := fmtF64.value nu.toNat
    let bound := exactMul r.tol r.beta
    (v.isNan = false → bound.isNan = false → bound.lt v = false → (passExit r nu).2 = 1) ∧
    (v.isNan = true → (passExit r nu).2 = 3) ∧
    (v.isNan = false → fmtF64.wild nu.toNat = false → bound.isNan = false → bound.lt v = true →
      (1 ≤ r.k → (exactMul r.delta r.nu0).lt v = true → (passExit r nu).2 = 3) ∧
      (r.k = 0 → 0 < r.stag → r.run = 0 → (passExit r nu).2 = if r.maxit ≤ r.passes + 1 then 4 else 0) ∧
      (1 ≤ r.k → (exactMul r.delta r.nu0).lt v = false → (exactMul r.rho r.nuPrev).lt v = true →
        (passExit r nu).1 = r.run + 1 ∧ (r.stag ≤ r.run + 1 → (passExit r nu).2 = 2)))

/-- R245, R269, R276, R281, R282: REFINE_FACTOR waits for its partition, for its strand's matrix operations and for its
gang's engines, each of which it then waits at, and claims them as one gang; that it claims none while one is taken is log
entry 34 (DEDUCED). A pass that goes on corrects x and plans the next; one that exits escalates while its action says so
and the rung is below TOP, or plans the exit; a fault on A stops the solve; and a controller that is idle or stopped does
nothing. -/
def Claim.RefineLoop : Prop :=
  ∀ (s : State) (i : Nat),
    let r := (s.slice i).rf
    (r.phase = 0 ∨ r.stopped = true → exec (.refineFactor i) s = .next s ∧ exec (.refinePass i) s = .next s ∧
      exec (.refineExit i) s = .next s) ∧
    (r.stopped = false → r.phase = 1 →
      (s.partOf r.core ≠ r.part → exec (.refineFactor i) s = .next (s.plan (.refineFactor i))) ∧
      (s.partOf r.core = r.part → s.mxOutstanding r (gangOf i r.ctrl) = true →
        exec (.refineFactor i) s = .next (s.plan (.refineFactor i))) ∧
      (s.partOf r.core = r.part → s.mxOutstanding r (gangOf i r.ctrl) = false →
        let s0 := s.dissolve r.core r.ctx r.part
        let sid := sidOf r.core r.ctx
        (s0.claimAll sid r.part (gangOf i r.ctrl) = none →
          ∃ t, exec (.refineFactor i) s = .next t ∧ t.agenda = s0.agenda ++ [⟨s0.mesh, .refineFactor i⟩] ∧
            (∀ m, (t.mx m).owner = (s0.mx m).owner) ∧
            ∀ m ∈ gangOf i r.ctrl, s0.owns m sid r.part = false → (solveName sid, r.pc) ∈ (t.mx m).waiters) ∧
        (∀ s1, s0.claimAll sid r.part (gangOf i r.ctrl) = some s1 →
          ∃ t, exec (.refineFactor i) s = .next t ∧ (t.mx ((gangOf i r.ctrl).headD 0)).gang = 4 ∧ (t.slice i).rf.phase = 2 ∧
            t.agenda = s1.agenda ++ [⟨s1.mesh, .refineFactor i⟩]))) ∧
    (r.stopped = false → r.phase = 3 → s.partOf r.core = r.part →
      (∀ s1 e, s.readMat r r.a r.n = (s1, .error e) → exec (.refinePass i) s = .next (s1.stopSolve i 1 e)) ∧
      (∀ s1 a, s.readMat r r.a r.n = (s1, .ok a) →
        let res := residual a r.bs r.xs
        let nu : Word := .ofNat 64 (normInf res)
        let exit := (passExit r nu).2
        ∃ t, exec (.refinePass i) s = .next t ∧
          (exit = 0 →
            let p := solveUpdate r.rung (r.t.map fun row => row.map BitVec.toNat) r.perm res r.xs r.status
            (t.slice i).rf.xs = p.1 ∧ (t.slice i).rf.k = r.k + 1 ∧ (t.slice i).rf.passes = r.passes + 1 ∧
            (t.slice i).rf.nuPrev = nu ∧ t.agenda = s1.agenda ++ [⟨s1.mesh, .refinePass i⟩]) ∧
          (exit = 2 → fld r.ctrl 8 2 = 1 → r.rung < fld r.ctrl 3 3 → (t.slice i).rf.rung = r.rung + 1 ∧
            (t.slice i).rf.phase = 2 ∧ t.agenda = s1.agenda ++ [⟨s1.mesh, .refineFactor i⟩]) ∧
          (exit = 1 → (t.slice i).rf.phase = 4 ∧ (t.slice i).rf.exit = 1 ∧ (t.slice i).rf.act = 0 ∧
            t.agenda = s1.agenda ++ [⟨s1.mesh, .refineExit i⟩])))

/-- R274, R276, R284: REFINE_FACTOR at phase 2, with b already read, reads A, factors it at the rung and writes the
workspace, once and whole, which is log entry 46 (DEDUCED); a factored matrix leads to the passes, and a breakdown sets
FAIL and exits as diverged. -/
def Claim.RefineFactored : Prop :=
  ∀ (s s2 s3 : State) (i : Nat) (a : List (List Word)) (l : Lu) (ok : Bool) (f : Summary),
    let r := (s.slice i).rf
    let r1 := { r with
      status := l.st
      t := if ok then l.t.map fun row => row.map (.ofNat 64 ·) else r.t
      trung := if ok then r.rung else r.trung
      perm := if ok then l.perm else r.perm }
    let img := wsBytes r1 s2.free
    r.stopped = false → r.phase = 2 → s.partOf r.core = r.part → r.bs ≠ [] → s.readMat r r.a r.n = (s2, .ok a) →
    factor r.rung r.n a r.status ((gangOf i r.ctrl).map fun m => (s2.mx m).err) = (l, ok, false) →
    ({ s2 with free := s2.free + img.length / 8 }).homeStores r r.ws r.summ (words (img.length / 8) img) = (s3, f, none) →
    exec (.refineFactor i) s = .next (if ok = true
      then ((s3.onRf i fun _ => { r1 with summ := f }).onRf i fun r => { r with phase := 3 }).plan (.refinePass i)
      else ((s3.onRf i fun _ => { r1 with summ := f }).onRf i fun r =>
        { r with fail := r.fail ||| .ofNat 4 (2 ^ r.rung) }).rungExit i 3)

/-- R272, R280: REFINE_EXIT writes the results, releases the gang and performs the exit's action; then the controller is
idle, and the strand's next ENGREND has the solve's summary; a trap action leaves the strand a refinement-exit trap
instead; an exit write that fails stops the solve. -/
def Claim.RefineExit : Prop :=
  ∀ (s s1 : State) (i : Nat) (f : Summary),
    let r := (s.slice i).rf
    r.stopped = false → r.phase = 4 → s.partOf r.core = r.part →
    (∀ e, s.exitWrites r = (s1, f, some e) → exec (.refineExit i) s = .next (s1.stopSolve i 2 e)) ∧
    (s.exitWrites r = (s1, f, none) →
      let u := s1.freeGang i r
      (r.act ≠ 2 → fld r.ctrl 20 3 = 0 → ∃ t, exec (.refineExit i) s = .next t ∧ (t.slice i).rf = .reset ∧
        (t.ctx r.core r.ctx).eng = (u.ctx r.core r.ctx).eng ||| f ∧ u.SameMemory t) ∧
      (r.act = 2 → ∃ t, exec (.refineExit i) s = .next t ∧ (t.slice i).rf = .reset ∧
        (t.ctx r.core r.ctx).rtrap = some (r.blk, r.exit, f) ∧ u.SameMemory t))

/-- Refinement: tests, passes, factoring and exit. -/
def Obligations.RefinementRun : Prop := Claim.RefineTests ∧ Claim.RefineLoop ∧ Claim.RefineFactored ∧ Claim.RefineExit

/-! ### Rasterisation and emission -/

/-- R291: no pixel is covered by both of two triangles that share an edge and lie on its two sides. -/
def Claim.CoverageOnce : Prop :=
  ∀ (v0 v1 v2 w : Vertex) (x y : Nat), 0 < area2 v0 v1 v2 → 0 < area2 v1 v0 w →
    covered (edgesOf v0 v1 v2) x y = true → covered (edgesOf v1 v0 w) x y = false

/-- R291: coverage does not depend on the order in which a triangle's vertices are given. -/
def Claim.CoverageOrder : Prop :=
  ∀ (v0 v1 v2 : Vertex) (x y : Nat), area2 v0 v1 v2 ≠ 0 →
    covered (edgesOf v1 v2 v0) x y = covered (edgesOf v0 v1 v2) x y ∧
    covered (edgesOf v1 v0 v2) x y = covered (edgesOf v0 v1 v2) x y

/-- Coverage: no shared pixel twice, no order of vertices. -/
def Obligations.Coverage : Prop := Claim.CoverageOnce ∧ Claim.CoverageOrder

/-- R103, R290: TRIBIN, after what its core has posted, traps on a surface that is not bound, more than 8 attributes, a
bad address or a coordinate out of range; a discarded triangle and one whose box meets no owner complete at once;
otherwise the strand has one message on its way to each owner, all under one number of its core that its resume index holds,
waits while any is not accepted, and then goes on. The order of those checks is log entry 49 (DEDUCED). -/
def Claim.TriangleBin : Prop :=
  ∀ (s : State) (h : Hdr) (a b : Opnd) (surf nattr : BitVec 4) (cull : BitVec 2), s.Ready .any h [a, b] [] →
    let s1 := s.settle s.cur
    let c := s1.cur
    let x := s1.actor
    let addr := s.operand [] a
    let run := exec (.tribin h a b surf nattr cull) s
    let traps := fun (kind : Nat) (arg : Word) => run = .next (s1.takeTrap s.cur s.actor kind 0 arg)
    let ends := run = .next (s.doneFrom (s1.onMe fun k => { k with ri := 0, busy := false, eng := k.eng ||| k.summ }) h 16
      [a, b] [] [])
    (s1.me.ri ≠ 0 →
      ((∃ e ∈ (s1.core c).primOut, e.1 = s1.me.ri) → run = .next s1) ∧
      ((∀ e ∈ (s1.core c).primOut, e.1 ≠ s1.me.ri) → ends)) ∧
    (s1.me.ri = 0 →
      (s1.surfAt (s1.partOf c) surf.toNat = none → traps 2 0) ∧
      (∀ u key, s1.surfAt (s1.partOf c) surf.toNat = some u →
        (8 < nattr.toNat → traps 2 0) ∧
        (nattr.toNat ≤ 8 → addr.toNat % 16 ≠ 0 → traps 5 addr) ∧
        (nattr.toNat ≤ 8 → addr.toNat % 16 = 0 → fld addr 60 4 = 0xC → s1.scrAt c x addr 144 = .ok key →
          let v := fun (i : Nat) => vertexOf (s1.bytes key 144) nattr.toNat i
          let fits := ∀ i, i < 3 → -2 ^ 23 ≤ (v i).x ∧ (v i).x < 2 ^ 23 ∧ -2 ^ 23 ≤ (v i).y ∧ (v i).y < 2 ^ 23
          (¬fits → traps 2 0) ∧
          (fits → area2 (v 0) (v 1) (v 2) = 0 → ends) ∧
          (fits → cull = 1 → area2 (v 0) (v 1) (v 2) < 0 → ends) ∧
          (fits → cull = 2 → 0 < area2 (v 0) (v 1) (v 2) → ends) ∧
          (fits → cull = 0 → area2 (v 0) (v 1) (v 2) ≠ 0 → boxOwners u.desc u.map (v 0) (v 1) (v 2) ≠ [] →
            let n := (s1.core c).parkCtr + 1
            ∃ t, run = .next t ∧ t.me.ri = n ∧ t.me.pc = s1.me.pc ∧ (t.core c).primOut.map (fun e => (e.1, e.2.1)) =
              (s1.core c).primOut.map (fun e => (e.1, e.2.1)) ++ (boxOwners u.desc u.map (v 0) (v 1) (v 2)).map (n, ·)))))

/-- R290: PRIMITIVE_MESSAGE brings the oldest message for an owner to the end of its queue, and leaves it on its way while
the queue holds 32. -/
def Claim.PrimitiveQueue : Prop :=
  ∀ (s : State) (c o x : Nat) (p : Prim) (r : List (Nat × Nat × Prim)), (s.core c).primOut = (x, o, p) :: r →
    (32 ≤ (s.core o).prims.length → exec (.primitiveMessage c o) s = .next (s.plan (.primitiveMessage c o))) ∧
    ((s.core o).prims.length < 32 → (s.core o).rastWaiter p.surf = none → ∃ t, exec (.primitiveMessage c o) s = .next t ∧
      (t.core c).primOut = r ∧ (t.core o).prims = (s.core o).prims ++ [p])

/-- R103, R293, R294, R295: RAST, after what its core has posted, traps as illegal-operand on a surface that is not bound or a
bad operand; parks while its core has no primitive of the surface; and ends, when no further tile of its core is met, by
writing its list's header and removing the primitive. One that has issued makes no check again: that it goes on over the
surface that it issued on, bound still or not, is the model's reading of R288 and R293 (log entry 49). -/
def Claim.RasterList : Prop :=
  ∀ (s : State) (h : Hdr) (a : Opnd) (surf : BitVec 4) (zf : BitVec 3) (zw ilk : Bool) (qcap : BitVec 16),
    s.Ready .any h [a] [] →
    let s1 := s.settle s.cur
    let c := s1.cur
    let addr := s.operand [] a
    let run := exec (.rast h a surf zf zw ilk qcap) s
    let st := s1.me.status
    let traps := run = .next (s1.takeTrap s.cur s.actor 2 0 0)
    let ends := fun (d : BitVec 512) (map : List Nat) (key : Nat) (pr : Prim) =>
      (s1.core c).prims.find? (mine st) = some pr →
      nextTile d map c pr.edges (reserved d map c - pr.done / (sdTW d * sdTH d / 4)) (pr.done / (sdTW d * sdTH d / 4)) = none →
      (s1.core c).rastWaiter surf.toNat = none → pr.planes.length ≤ 9 →
      ∃ t, run = .next t ∧ t.loadN key 4 = pr.seq % 2 ^ 32 ∧ t.loadN (key + 4) 4 = s1.me.ri % 2 ^ 32 ∧
        t.loadN (key + 8) 4 = fld st 0 32 ∧ (t.core c).prims = editPrim (mine st) (fun _ => none) (s1.core c).prims ∧
        ∀ b, b < key ∨ key + 64 + 16 * pr.planes.length ≤ b → t.byte b = s1.byte b
    (∀ d map pr, s1.me.rastGoes = some (d, map) → ends d map (scrKey c (fld addr 0 21)) pr) ∧
    (s1.me.rastGoes = none → s1.surfAt (s1.partOf c) surf.toNat = none → traps) ∧
    (∀ u, s1.me.rastGoes = none → s1.surfAt (s1.partOf c) surf.toNat = some u →
      (addr.toNat % 64 ≠ 0 ∨ qcap = 0 ∨ fld addr 60 4 ≠ 0xC ∨ (sdDepth u.desc = false ∧ (zf ≠ 7 ∨ zw = true)) → traps) ∧
      (∀ key, fld addr 60 4 = 0xC → addr.toNat % 64 = 0 → qcap ≠ 0 → (sdDepth u.desc = true ∨ (zf = 7 ∧ zw = false)) →
        s1.scrAt c s1.actor addr (64 + 144 + 8 * qcap.toNat) = .ok key →
        (st = 0 → (s1.core c).nextPrim surf.toNat = none →
          run = .next ((s1.onMe fun k => { k with rastOn := some (u.desc, u.map) }).parkCtx s.cur s.actor (.prim surf.toNat))) ∧
        (∀ pr, st ≠ 0 → ends u.desc u.map key pr)))

/-- Binning triangles and rasterising. -/
def Obligations.Primitives : Prop := Claim.TriangleBin ∧ Claim.PrimitiveQueue ∧ Claim.RasterList

/-- R294: a quad's mask has a bit for each of its pixels that lies in the surface, is covered and passes the depth test. -/
def Claim.QuadMask : Prop :=
  ∀ (s : State) (e : RastEnv) (pr : Prim) (l qx qy m : Nat), m < 4 →
    let px := qx + m % 2
    let py := qy + m / 2
    (s.quadMask e pr l qx qy).1.testBit m = (decide (px < sdW e.d) && decide (py < sdH e.d) &&
      covered pr.edges px py && (!sdDepth e.d || depthTest e.zf (planeAt (nth (0, 0, 0) pr.planes 0) px py)
        (s.loadN (e.depthKey l px py) 4)))

/-- R99, R296, R297: PXLOCK and PXREL reach a quad's owner after what their core has sent it. PXLOCK joins the requests at
the quad's owner and parks until it is granted; PXLOCK_GRANT grants the earliest entry of a quad that no strand holds;
PXREL gives the entry up; an operand that names no quad of a bound surface, or a release of what the strand does not hold,
is an illegal-operand trap. -/
def Claim.PixelLocks : Prop :=
  ∀ (s : State) (h : Hdr) (a b : Opnd), s.Ready .any h [a, b] [] →
    let c := s.cur
    let sid := sidOf c s.actor
    let q := s.quadAt (s.partOf c) (s.operand [] a)
    let seq := fld (s.operand [a] b) 0 32
    let held := fun (quad : Nat) (l : Lock) => l.quad == quad && l.seq == seq && l.holder == some sid
    (q = none → (s.me.grant = none → exec (.pxlock h a b) s = .next (s.trapped 2 0 0)) ∧
      exec (.pxrel h a b) s = .next (s.trapped 2 0 0)) ∧
    (s.me.grant ≠ none → exec (.pxlock h a b) s = .next (s.done h 16 [a, b] [] [])) ∧
    (∀ o quad, q = some (o, quad) →
      (s.me.grant = none → ∃ t, exec (.pxlock h a b) s = .next t ∧ (t.ctx c s.actor).st = .parked ∧
        (sid, quad, seq) ∈ (t.core o).lockReqs) ∧
      ((s.core o).locks.any (held quad) = false → exec (.pxrel h a b) s = .next (s.trapped 2 0 0)) ∧
      ((s.core o).locks.any (held quad) = true → ∃ t, exec (.pxrel h a b) s = .next t ∧
        (t.core o).locks = dropFirst (held quad) ((s.drain c false (scrKey o 0)).core o).locks))

/-- R296: PXLOCK_GRANT grants the first request whose entry is its quad's earliest and whose quad no strand holds, and
does nothing when there is none. -/
def Claim.PixelGrant : Prop :=
  ∀ (s : State) (o : Nat),
    let k := s.core o
    (k.lockReqs = [] → exec (.pxlockGrant o) s = .next s) ∧
    (∀ sid quad seq r l ls, k.lockReqs = (sid, quad, seq) :: r → k.locks = l :: ls → l.quad = quad → l.seq = seq →
      (∀ e ∈ k.locks, e.quad = quad → e.holder = none) → ∃ t, exec (.pxlockGrant o) s = .next t ∧
        (t.core o).locks = { l with holder := some sid } :: ls ∧ (t.core o).lockReqs = r ∧
        (⟨s.mesh, .wake (sid / 16) (sid % 16) 0 none⟩ : Pend) ∈ t.agenda)

/-- R172, R294: the depth test compares the pixel's f32 depth with the stored one by the relation that ZF names, which a NaN
fails but for not-equal; ZF 0 never passes and ZF 7 always. -/
def Claim.DepthTests : Prop :=
  ∀ (z d : Nat),
    let a := fmtF32.value z
    let b := fmtF32.value d
    let nan := a.isNan || b.isNan
    depthTest 0 z d = false ∧ depthTest 7 z d = true ∧
    (nan = true → ∀ zf, 0 < zf → zf < 7 → depthTest zf z d = decide (zf = 5)) ∧
    (nan = false → depthTest 1 z d = a.lt b ∧ depthTest 4 z d = b.lt a ∧ depthTest 2 z d = (!a.lt b && !b.lt a) ∧
      depthTest 3 z d = !b.lt a ∧ depthTest 6 z d = !a.lt b ∧ depthTest 5 z d = (a.lt b || b.lt a))

/-- Quad masks, depth tests and pixel locks. -/
def Obligations.Pixels : Prop := Claim.QuadMask ∧ Claim.DepthTests ∧ Claim.PixelLocks ∧ Claim.PixelGrant

/-- R104, R301, R304: EMIT traps as illegal-operand on a surface that is not bound or a tile the core does not own; its
handover then goes to the engine, which it reaches a turn later, after what the core has posted to its own scratchpad: it
leaves it pending and returns 0, or 1 where it replaces one of a frame no later, or 2 with no effect where the pending one
is later, or 3 where the surface's bind has ended. That the way takes one turn of the strand, and that a bind is told from
a later one by its number, is the model's choice: log entry 51. EMSTAT returns the counters, and traps on a surface that
is not bound. -/
def Claim.Emission : Prop :=
  ∀ (s : State) (h : Hdr) (d a b : Opnd) (hold : Bool) (sel : BitVec 2),
    let p := s.partOf s.cur
    (s.Ready .any h [a, b] [d] →
      let v := s.operand [a] b
      let n := fld v 24 4
      let tx := fld v 0 12
      let ty := fld v 12 12
      let f : BitVec 32 := (s.operand [] a).setWidth 32
      let run := exec (.emit h d a b hold) s
      let out := fun (s' : State) (r : Word) => run = .next (s.doneFrom s' h 8 [a, b] [(d, some 1)] [r])
      (s.me.grant = none →
        (s.surfAt p n = none → run = .next (s.trapped 2 0 0)) ∧
        (∀ u, s.surfAt p n = some u →
          let good := ownerAt u.desc u.map tx ty = s.cur ∧ tx < sdTX u.desc ∧ ty < sdTY u.desc ∧ fld v 29 35 = 0
          (¬good → run = .next (s.trapped 2 0 0)) ∧
          (good → run = .next (s.onMe fun k => { k with grant := some (.ofNat 64 u.number, none) })))) ∧
      (∀ bind x, s.me.grant = some (bind, x) →
        let w := s.drain s.cur false (scrKey s.cur 0)
        let p := w.partOf w.cur
        (w.surfAt p n = none → out w 3) ∧
        (∀ u, w.surfAt p n = some u →
          let i := ty * sdTX u.desc + tx
          let t := u.tiles.get ⟨none, none⟩ i
          let put := w.onSurf p n fun u => { u with tiles := u.tiles.put i { t with pend := some (v.getLsbD 28, f, hold) } }
          (u.number ≠ bind.toNat → out w 3) ∧
          (u.number = bind.toNat → (t.pend = none → out put 0) ∧
            (∀ b g q, t.pend = some (b, g, q) → (0 ≤ (f - g).toInt → out put 1) ∧ ((f - g).toInt < 0 → out w 2)))))) ∧
    (s.Ready .any h [a] [d] →
      let n := fld (s.operand [] a) 0 4
      (s.surfAt p n = none → exec (.emstat h d a sel) s = .next (s.trapped 2 0 0)) ∧
      (∀ u, s.surfAt p n = some u → exec (.emstat h d a sel) s = .next (s.done h 8 [a] [(d, none)]
        [.ofNat 64 (if sel = 0 then (if u.fBand = 0 then u.fFrame else u.fFrame + 1) else if sel = 1 then u.late
          else if sel = 2 then u.lost else u.captured)])))

/-- R300: a tile taken for a frame shows its pending buffer when that is of the frame or an earlier one; else what it
showed before, as zero codes when there was none; a buffer shown again without HOLD is late, which is counted and told to
the owner. -/
def Claim.TileTaken : Prop :=
  ∀ (s : State) (p n : Nat) (u : Surface) (f : BitVec 32) (tx ty : Nat), s.surfAt p n = some u →
    let i := ty * sdTX u.desc + tx
    let t := u.tiles.get ⟨none, none⟩ i
    (∀ b g q, t.pend = some (b, g, q) → 0 ≤ (f - g).toInt →
      s.takeTile p n u f tx ty = (s.onSurf p n fun u => { u with tiles := u.tiles.put i ⟨none, some (b, q)⟩ }, some b)) ∧
    ((∀ b g q, t.pend = some (b, g, q) → (f - g).toInt < 0) →
      (t.shown = none → s.takeTile p n u f tx ty = (s, none)) ∧
      (∀ b, t.shown = some (b, true) → s.takeTile p n u f tx ty = (s, some b)) ∧
      (∀ b, t.shown = some (b, false) → (s.takeTile p n u f tx ty).2 = some b ∧
        ∃ v, (s.takeTile p n u f tx ty).1.surfAt p n = some v ∧ v.late = u.late + 1))

/-- R298, R303: TILE_TAKE of a bound surface takes the next band, plans its capture and the next band's fetch;
BAND_CAPTURE of a display surface lets the band go and counts the frames scanned; an unbound number has none. -/
def Claim.BandEvents : Prop :=
  ∀ (s : State) (p n : Nat) (u : Surface),
    (s.surfAt p n = none → exec (.tileTake p n) s = .next s ∧ exec (.bandCapture p n) s = .next s) ∧
    (s.surfAt p n = some u → (u.fBand ≠ 0 ∨ u.unbind = none) → ∃ t v, exec (.tileTake p n) s = .next t ∧
      t.surfAt p n = some v ∧ v.bands.length = u.bands.length + 1 ∧
      (u.fBand + 1 < sdTY u.desc → v.fBand = u.fBand + 1 ∧ v.fFrame = u.fFrame) ∧
      (u.fBand + 1 = sdTY u.desc → v.fBand = 0 ∧ v.fFrame = u.fFrame + 1) ∧
      (∃ d, (⟨d, .tileTake p n⟩ : Pend) ∈ t.agenda) ∧ ∃ d, (⟨d, .bandCapture p n⟩ : Pend) ∈ t.agenda) ∧
    (∀ f b bs r, s.surfAt p n = some u → sdHead u.desc < 4 → u.bands = (f, b, bs) :: r → ∃ t v,
      exec (.bandCapture p n) s = .next t ∧ t.surfAt p n = some v ∧ v.bands = r ∧ s.SameMemory t ∧
      (sdTY u.desc ≤ b + 1 → v.sFrame = f + 1 ∧ v.sBand = 0) ∧ (b + 1 < sdTY u.desc → v.sBand = b + 1))

/-- Emission, tile takes and bands. -/
def Obligations.TilesAndBands : Prop := Claim.Emission ∧ Claim.TileTaken ∧ Claim.BandEvents

/-- R287, R288: a bind that fails a check leaves the number unbound with the check's result; one that passes binds the
descriptor; a bound surface with no frame in progress is unbound at once, another when its last frame ends. -/
def Claim.SurfaceBinding : Prop :=
  ∀ (s : State) (p n : Nat) (v : Word),
    let a := v &&& ~~~63#64
    (∀ s1 code d map, s.surfAt p n = none → a ≠ 0 → s.bindChecks p a = (s1, code, d, map) → ∃ t,
      exec (.surfaceBind p n v) s = .next t ∧
      (code ≠ 0 → (t.part p).surfRes.get 0 n = code ∧ (t.part p).surfAddr.get 0 n = 0 ∧
        (s1.surfAt p n = none → t.surfAt p n = none)) ∧
      (code = 0 → (t.part p).surfRes.get 0 n = 0 ∧ (t.part p).surfAddr.get 0 n = a ∧
        ∃ u, t.surfAt p n = some u ∧ u.desc = d ∧ u.map = map ∧ u.fFrame = 0 ∧ u.tiles = [])) ∧
    (s.surfAt p n = none → a = 0 → exec (.surfaceBind p n v) s = .next s) ∧
    (s.surfAt p n = none → exec (.surfaceUnbind p n) s = .next s ∧ exec (.unbindComplete p n) s = .next s) ∧
    (∀ u, s.surfAt p n = some u →
      (u.fBand = 0 → u.fFrame = u.sFrame → ∃ t, exec (.surfaceUnbind p n) s = .next t ∧ t.surfAt p n = none ∧
        (t.part p).surfAddr.get 0 n = 0) ∧
      (¬(u.fBand = 0 ∧ u.fFrame = u.sFrame) → ∃ t, exec (.surfaceUnbind p n) s = .next t ∧
        t.surfAt p n = some { u with unbind := some 0 }) ∧
      (u.unbind = none → exec (.unbindComplete p n) s = .next s) ∧
      (u.unbind = some 0 → u.fBand = 0 → u.fFrame = u.sFrame → ∃ t, exec (.unbindComplete p n) s = .next t ∧
        t.surfAt p n = none))

/-- A mode written to a head, with the timing it holds, can be shown beside `others` further heads (R12, R299): its sizes are
not 0 and leave a blank, it is at most 3840 × 2160 at 120 Hz or, with at most two heads, 7680 × 4320 at 60 Hz, and its pixels
fit the payload of its lanes. What the channel coding leaves of a lane's rate is presumed: log entry 14. -/
def modeShows (v time : Word) (others : Nat) : Prop :=
  let va := fld v 0 16
  let vt := fld v 16 16
  let ha := fld time 32 16
  let ht := fld time 48 16
  let lt := fld time 0 32
  let hz := 1800000000 / (vt * lt)
  let lanes := fld v 48 4
  let rate := fld v 44 4
  let bits := if v.getLsbD 40 then fld v 32 8 else 24 * 16
  let coding := if rate ≤ 3 then (8, 10) else (128, 132)
  0 < va ∧ va < vt ∧ 0 < ha ∧ ha < ht ∧ 0 < lt ∧
    ((ha * va ≤ 3840 * 2160 ∧ hz ≤ 120) ∨ (others < 2 ∧ ha * va ≤ 7680 * 4320 ∧ hz ≤ 60)) ∧
    (lanes = 1 ∨ lanes = 2 ∨ lanes = 4) ∧ rate < 7 ∧
    ht * 1800000000 * bits * coding.2 ≤
      lanes * nth 0 [162, 270, 540, 810, 1000, 1350, 2000] rate * 10000000 * lt * 16 * coding.1

/-- The fields of a mode keep their stated limits (R299); that LANES may be 0 while EN is 0 is log entry 143. -/
def modeKeepsLimits (v : Word) : Prop :=
  let lanes := fld v 48 4
  (lanes = 1 ∨ lanes = 2 ∨ lanes = 4 ∨ (lanes = 0 ∧ v.getLsbD 63 = false)) ∧ fld v 44 4 < 7 ∧
    (v.getLsbD 40 = true → 96 ≤ fld v 32 8 ∧ fld v 32 8 ≤ 384)

/-- R299, R381: a write of a head's mode or timing is refused while a surface is bound to the head or the head is not wired,
when a field breaks its stated limit, and when it sets EN over a mode that does not fit (what a link's coding leaves is
presumed: log entry 14): both registers then stay; a sink that leaves makes EN read 0. -/
def Claim.HeadModes : Prop :=
  ∀ (s : State) (h : Nat) (v : Word),
    (s.headPresent h = false ∨ s.headBound h = true → ∀ b, exec (.headModeWrite h b v) s = .next s) ∧
    (s.headPresent h = true → s.headBound h = false →
      (∃ t, exec (.headModeWrite h true v) s = .next t ∧ (t.head h).htime = v ∧ (t.head h).hmode = (s.head h).hmode) ∧
      (¬modeKeepsLimits v → exec (.headModeWrite h false v) s = .next s) ∧
      (v.getLsbD 63 = false → modeKeepsLimits v → ∃ t, exec (.headModeWrite h false v) s = .next t ∧
        (t.head h).hmode &&& 0x800FF1FFFFFFFFFF = v &&& 0x800FF1FFFFFFFFFF) ∧
      (let fits := modeKeepsLimits v ∧ modeShows v (s.head h).htime
        ((List.range 4).filter fun i => i != h && (s.head i).hmode.getLsbD 63).length
       v.getLsbD 63 = true → (¬fits → exec (.headModeWrite h false v) s = .next s) ∧
        (fits → ∃ t, exec (.headModeWrite h false v) s = .next t ∧ (t.head h).htime = (s.head h).htime ∧
          (t.head h).hmode &&& 0x800FF1FFFFFFFFFF = v &&& 0x800FF1FFFFFFFFFF))) ∧
    (s.headPresent h = true → ∃ t, exec (.displaySinkChange h false) s = .next t ∧ (t.head h).sink = false ∧
      (t.head h).mode.getLsbD 63 = false ∧ (t.head h).htime = (s.head h).htime)

/-- Surfaces and display heads. -/
def Obligations.SurfacesAndHeads : Prop := Claim.SurfaceBinding ∧ Claim.HeadModes

/-! ### Partitions -/

/-- R368, R377: a report of firmware is an event of KIND 7 with its code; a partition that has set PERRSIG to a signal of its
own finds the code there. -/
def Claim.FirmwareReport : Prop :=
  ∀ (s s1 : State) (p : Nat) (v : Word) (pl : Place),
    let a := (s.part p).perrsig
    let c := s.firstCore p
    (a = 0 → s.report p v = s.event srcFirmware 7 (v.setWidth 128)) ∧
    (a ≠ 0 → a.toNat % 256 = 0 → fld a 60 4 = 0 → s.placeIn p 0 c 0 a 256 256 1 1 = (s1, .ok pl) → s1.isForeign pl = false →
      (s1.obj pl.key).kind = 1 → s1.dev.evctl.getLsbD 31 = false →
      ((s.report p v).obj pl.key).value = v ∧ ((s.report p v).obj pl.key).summ = (s1.obj pl.key).summ ||| fullSummary ∧
      (s.report p v).dev.evseq.get 0 srcFirmware = s1.dev.evseq.get 0 srcFirmware + 1)

/-- R377, R381, R382: a start waits for firmware. One that fails a check then leaves the partition off, with the check's
number in RES, and is reported (the report names the lowest core of QMASK: the model's reading, log entry 77); one that
passes with no twin forms: V and ST 1, and on each of its cores context 0 READY at PARTPC with its window open, the others
FREE. -/
def Claim.PartitionStart : Prop :=
  ∀ (s : State) (p : Nat) (v : Word), (s.part p).st = 0 →
    let u := (s.unstart p).onPart p fun q => { q with qmask := .ofNat 4 (fld v 4 4), spill := v.getLsbD 27 }
    let m := (u.part p).qmask
    (s.dev.fwUp = false → ∃ t, exec (.partitionStart p v) s = .next t ∧ (t.part p).st = 0 ∧ (t.part p).v = true ∧
      (⟨s.mesh, .partitionStart p v⟩ : Pend) ∈ t.agenda) ∧
    (s.dev.fwUp = true → u.startCode p ≠ 0 → ∃ t r, exec (.partitionStart p v) s = .next t ∧ (t.part p).v = false ∧
      (t.part p).st = 0 ∧ (t.part p).res = u.startCode p ∧ fld r 48 12 = 0xFFF ∧
      (m ≠ 0 → fld r 0 48 < 192 ∧ m.getLsbD (quadOf (fld r 0 48)) = true) ∧
      t = (u.onPart p fun q => { q with v := false, res := u.startCode p }).report p r) ∧
    (s.dev.fwUp = true → u.startCode p = 0 → u.mate p m.toNat = none → ∃ t, exec (.partitionStart p v) s = .next t ∧
      (t.part p).v = true ∧ (t.part p).st = 1 ∧ (t.part p).res = 0 ∧
      ∀ c, c < 192 → m.getLsbD (quadOf c) = true → (t.ctx c 0).st = .ready ∧ (t.ctx c 0).pc = (s.part p).pc ∧
        (t.core c).winOpen = true ∧ (t.core c).halted = false ∧ ∀ x, 0 < x → (t.ctx c x).st = .free)

/-- R382: the checks of a start, in order: a QMASK that is one quadrant, a row or column of two, or all; no quadrant of
another partition; a valid S2ROOT. -/
def Claim.StartChecks : Prop :=
  ∀ (s : State) (p : Nat),
    let q := s.part p
    let m := q.qmask.toNat
    (m ∉ [1, 2, 4, 8, 3, 12, 5, 10, 15] → s.startCode p = 1) ∧
    (m ∈ [1, 2, 4, 8, 3, 12, 5, 10, 15] →
      (∀ r, r < 4 → r ≠ p → (s.part r).st ≠ 0 → (s.part r).qmask.toNat &&& m ≠ 0 → (s.part r).qmask.toNat ≠ m →
        s.mate p m = none → s.startCode p = 2) ∧
      ((∀ r, r < 4 → r ≠ p → (s.part r).st = 0) →
        (q.s2root.getLsbD 0 = false → s.startCode p = 3) ∧
        (q.s2root.getLsbD 0 = true → q.trapvec.getLsbD 0 = false → q.ending = false → s.startCode p = 0)))

/-- Starting a partition. -/
def Obligations.PartitionStarts : Prop := Claim.FirmwareReport ∧ Claim.PartitionStart ∧ Claim.StartChecks

/-- R359, R360, R362, R377, R383: HALT_TREE halts every core of a running partition, which stays halted (ST 3) and keeps
its strands' registers; ending a partition that is off clears V; one that is being swapped, or that firmware is yet to
end, is ending from the write on; a swapped-out twin that ends loses its heartwood images; a swap waits for firmware,
gives RES 6 without a twin, and with one halts the partition in place first. -/
def Claim.PartitionHalt : Prop :=
  ∀ (s : State) (p : Nat),
    ((s.part p).st = 1 → (s.part p).swapping = false → (s.part p).dfaults = [] → ∃ t,
      exec (.haltTree p) s = .next t ∧ (t.part p).st = 3 ∧
      (∀ c ∈ s.coresOf p, (t.core c).halted = true ∧ ∀ x, (s.ctx c x).fin = none → (s.ctx c x).flight = [] →
        (s.core c).sfu = none → (t.ctx c x).pc = (s.ctx c x).pc ∧ (t.ctx c x).h = (s.ctx c x).h) ∧
      ((∀ c ∈ s.coresOf p, (s.core c).sfu = none ∧ ∀ x, x < 16 → (s.ctx c x).fin = none ∧ (s.ctx c x).flight = []) →
        (∀ e ∈ s.agenda, ∀ c x v d, e.ev ≠ .wake c x v d) →
        ∀ c ∈ s.coresOf p, ∀ x, (t.ctx c x).st = (s.ctx c x).st)) ∧
    ((s.part p).st = 0 → ∃ t, exec (.partitionEnd p) s = .next t ∧ (t.part p).v = false ∧ (t.part p).st = 0 ∧
      s.SameMemory t) ∧
    ((s.part p).st = 1 → (s.part p).swapping = false → (s.part p).ending = false → s.twinOf p = none → ∃ t,
      exec (.partitionEnd p) s = .next t ∧ (t.part p).v = false ∧
      ((t.part p).st = 0 ∨ ((t.part p).ending = true ∧ (⟨s.mesh, .partitionEnd p⟩ : Pend) ∈ t.agenda))) ∧
    ((s.part p).st ≠ 0 → s.dev.fwUp = false → exec (.partitionEnd p) s =
      .next ((s.onPart p fun q => { q with v := false, ending := true }).plan (.partitionEnd p))) ∧
    ((s.part p).st = 2 → s.dev.fwUp = true → (s.part p).swapping = false → (∀ r, s.twinOf p = some r → (s.part r).swapping = false) →
      (s.part p).surfs = [] → ∃ t, exec (.partitionEnd p) s = .next t ∧ (t.part p).st = 0 ∧ (t.part p).v = false ∧
        ∀ c ∈ s.coresOf p, t.cores.find (heartKey c) = none) ∧
    ((s.part p).st ≠ 0 → (s.part p).swapping = true → ∃ t, exec (.partitionEnd p) s = .next t ∧
      (t.part p).ending = true ∧ (t.part p).st = (s.part p).st ∧ (⟨s.mesh, .partitionEnd p⟩ : Pend) ∈ t.agenda ∧
      ∀ v, exec (.partitionStart p v) t = .next (t.onPart p fun q => { q with res := 5 })) ∧
    (s.dev.fwUp = false → exec (.partitionSwap p) s = .next (s.plan (.partitionSwap p))) ∧
    (s.dev.fwUp = true → s.twinOf p = none → ∃ t, exec (.partitionSwap p) s = .next t ∧ (t.part p).res = 6 ∧
      (t.part p).st = (s.part p).st) ∧
    (∀ r, s.dev.fwUp = true → s.twinOf p = some r → (s.part p).st = 1 → (s.part p).swapping = false → (s.part p).ending = false →
      (s.part r).swapping = false → (s.part r).ending = false → ∃ t, exec (.partitionSwap p) s = .next t ∧
      (t.part p).swapping = true ∧ t.agenda = s.agenda ++ [⟨s.mesh, .haltTree p⟩])

/-- The halted contexts of a partition in place that neither wait nor have a result in flight, no wake event being on its way:
those that a save leaves as they stand. -/
def Sys2Proof.Machine.State.Quiet (s : State) (p : Nat) : Prop :=
  (∀ e ∈ s.agenda, ∀ c x v d, e.ev ≠ .wake c x v d) ∧
  ∀ c ∈ s.coresOf p, s.partOf c = p ∧ ∀ x, x < 16 → (s.ctx c x).st ≠ .parked ∧ (s.ctx c x).running = none ∧
    (s.ctx c x).reserved = none ∧ (s.ctx c x).flight = []

/-- Two cores' register states are one: each context's pc, h registers, guards, flags, join cell, summary and state, the
registers and the FIFOs (R59, R360). -/
def Sys2Proof.Machine.Core.SameRegisters (a b : Core) : Prop :=
  a.regs = b.regs ∧ a.fifos = b.fifos ∧ ∀ x,
    (a.ctx x).pc = (b.ctx x).pc ∧ (a.ctx x).h = (b.ctx x).h ∧ (a.ctx x).c = (b.ctx x).c ∧ (a.ctx x).ff = (b.ctx x).ff ∧
    (a.ctx x).jc = (b.ctx x).jc ∧ (a.ctx x).summ = (b.ctx x).summ ∧ (a.ctx x).st = (b.ctx x).st

/-- R359 to R363, R392: a halted partition that is being swapped gives its cores to its twin, in spill mode once its
copies are complete. Each core takes the register state of its heartwood image and leaves its own there; its L1 and its
instruction cache are empty, its translations and its engine's contents stay; the outgoing mailboxes are in the images'
spill rings, and the incoming entries return in order; in reserve mode the scratchpads stay, and in spill mode, where no
tile area is bound, they are exchanged; the outgoing partition's events are held and the incoming one's go on; the
outgoing one is swapped out (ST 2), the incoming one runs, or is halted again where a core of it had a double fault; and
an event of KIND 9 says so. -/
def Claim.SwapExchange : Prop :=
  ∀ (s : State) (out inc : Nat) (spill : Bool), out ≠ inc → s.Quiet out → s.coresOf out = s.coresOf inc →
    let t := s.exchange out inc spill true
    let heart := fun (c : Nat) => s.core (heartKey c)
    let homed := (∀ c ∈ s.coresOf inc, ∀ e ∈ (s.core c).l1, 16 * e.1 + 16 ≤ ownScr) ∧ (s.part out).spillbase.toNat < 2 ^ 38
    ((t.part out).st = 2 ∧ (t.part out).swapping = false ∧
      (t.part inc).st = if (s.coresOf inc).any (fun c => (heart c).dead) = true then 3 else 1) ∧
    (∀ c ∈ s.coresOf inc,
      (t.core c).SameRegisters (heart c) ∧ (t.core (heartKey c)).SameRegisters (s.core c) ∧
      (t.core c).l1 = [] ∧ (t.core c).icache = [] ∧ (t.core c).tlb = (s.core c).tlb ∧
      (t.mx c).array = (s.mx c).array ∧ (t.mx c).acc = (s.mx c).acc ∧ (t.mx c).owner = (s.mx c).owner ∧
      (∀ hi, (t.core (heartKey c)).mail hi = [] ∧ (t.core (heartKey c)).spill hi = (s.core c).mail hi ++ (s.core c).spill hi ∧
        ((∀ x, ((heart c).ctx x).st ≠ .parked) →
          (t.core c).mail hi ++ (t.core c).spill hi = (heart c).mail hi ++ (heart c).spill hi)) ∧
      (homed → spill = false → (t.core c).scratch = (s.core c).scratch) ∧
      (homed → spill = true → (∀ e ∈ s.parts, e.2.surfs = []) → (t.core c).scratch = (heart c).scratch ∧
        (t.core (heartKey c)).scratch = (s.core c).scratch) ∧
      ((∀ d ∈ s.coresOf inc, (heart d).dead = false) → (t.core c).halted = false)) ∧
    (t.part out).held = (s.part out).held ++ s.agenda.filter (s.evOf out) ∧ (t.part inc).held = [] ∧
    (∀ e ∈ (s.part inc).held, e ∈ t.agenda) ∧ (∀ e ∈ s.agenda, s.evOf out e = false → e ∈ t.agenda) ∧
    t.dev.evseq.get 0 srcFirmware = s.dev.evseq.get 0 srcFirmware + 1 ∧
    (∀ p r, let u := (((s.haltPart p).wakeAll p).holdEvents p).reportFaults p
      (u.part p).swapping = true → u.twinOf p = some r → u.dev.fwUp = true →
        ((u.part p).spill = true → u.copying p = true → exec (.haltTree p) s = .next (u.plan (.haltTree p))) ∧
        ((u.part p).spill = false ∨ u.copying p = false →
          exec (.haltTree p) s = .next (u.exchange p r (u.part p).spill true)))

/-- R244, R361: an engine that still holds another partition's contents gives them to that partition's spill area before a
claim, and then has those that the claiming partition left, or is cleared; one of the claiming partition stays as it is. -/
def Claim.EngineHandOver : Prop :=
  ∀ (s : State) (m p q o : Nat), m < 192 → p < 4 → q < 4 →
    let v := s.mx m
    let t := s.handOver m p
    let back := s.mxSpill.find (spillKey p m)
    (v.lastPart = some p → t = s) ∧
    (v.owner = some o → v.lastPart = some q → q ≠ p →
      t.mxSpill.find (spillKey q m) = some v ∧ t.mxSpill.find (spillKey p m) = none ∧ (t.mx m).lastPart = some p ∧
      (back = none → (t.mx m).array = [] ∧ (t.mx m).acc = [] ∧ (t.mx m).owner = none ∧ (t.mx m).b = none) ∧
      (∀ w, back = some w → (t.mx m).array = w.array ∧ (t.mx m).acc = w.acc ∧ (t.mx m).owner = w.owner ∧ (t.mx m).b = w.b) ∧
      (s.spillBase q m + v.spillBytes.length ≤ 2 ^ 38 → ∀ i, i < v.spillBytes.length →
        t.byte (s.spillBase q m + i) = v.spillBytes.getD i 0))

/-- R335, R384: S2INV removes the partition's translations of a page, or all of them, from every TLB, the locked ones among
them, and no other; then the global accesses on their way that used them are performed. -/
def Claim.StageTwoInvalidate : Prop :=
  ∀ (s : State) (p page : Nat),
    let hits := fun (t : Tlb) => t.part = p
    let on := fun (t : Tlb) => t.pa < 4096 * page + 4096 ∧ 4096 * page < t.pa + t.size
    let drops := fun (i : Instr) (gone : Tlb → Prop) => ∃ t : State, exec i s = .next (t.settleGlobal p) ∧
      (∀ c e, (e ∈ (t.core c).tlb ↔ e ∈ (s.core c).tlb ∧ ¬gone e)) ∧
      ∀ n e, (e ∈ (t.slice n).tlb ↔ e ∈ (s.slice n).tlb ∧ ¬gone e)
    drops (.s2invPage p page) (fun t => hits t ∧ on t) ∧ drops (.s2invAll p) hits

/-- Halting, ending and swapping partitions; S2INV. -/
def Obligations.PartitionStops : Prop :=
  Claim.PartitionHalt ∧ Claim.SwapExchange ∧ Claim.EngineHandOver ∧ Claim.StageTwoInvalidate

/-! ### The command processor -/

/-- R380: a queue whose descriptor passes its checks becomes valid and empty; a bad one, or one that is valid, stays as
it was; a queue is undefined unless a strand waits for its entries or a register names it, and a strand that its last spawn
record would have become counts as ended for its launch (R371; log entry 144). -/
def Claim.QueueDefinition : Prop :=
  ∀ (s : State) (stack idx : Nat) (d : BitVec 256),
    let q := stack * 4096 + idx
    let n := fld d 24 5
    let base := fld d 192 64
    let good := d.getLsbD 31 = true ∧ (s.hwq q).v = false ∧ 4 ≤ n ∧ n ≤ 20 ∧ base % (256 * 2 ^ n) = 0 ∧ base < 2 ^ 38 ∧
      base / 2 ^ 36 = stack ∧ fld d 32 32 = 0 ∧ fld d 0 20 = 0
    (¬good → exec (.queueDefine stack idx d) s = .next s) ∧
    (good → ∃ t, exec (.queueDefine stack idx d) s = .next t ∧ (t.hwq q).v = true ∧ (t.hwq q).count = 0 ∧
      (t.hwq q).log2n = n ∧ (t.hwq q).rbase.toNat = base ∧ (t.hwq q).spawn = d.getLsbD 30 ∧
      ∀ r, r ≠ q → t.hwq r = s.hwq r) ∧
    ((s.hwq q).pops ≠ [] ∨ s.queueNamed q = true → exec (.queueUndefine stack idx) s = .next s) ∧
    ((s.hwq q).pops = [] → s.queueNamed q = false → ∃ t, exec (.queueUndefine stack idx) s = .next t ∧
      (t.hwq q).v = false ∧ (t.hwq q).count = 0 ∧
      ∀ m l, (s.hwq q).lin = [m] → m ≠ 0 → s.dev.launches.find m = some l →
        t.dev.launches.find m = some { l with live := l.live - 1 })

/-- A slot's next packet, of a type, may start: the dispatcher serves the slot, its ring lies in memory, its entries are
submitted, and its reserved bits are zero (R365 to R368, R375). -/
def packetStarts (s : State) (i : Nat) (h : HSlot) (ty : Nat) : Prop :=
  s.dev.hslots.find i = some h ∧ s.cpNext = some i ∧ h.number = 0 ∧ pkType (s.header h) = ty ∧
  (h.bufs ≠ [] ∨ (s.ringOk (qdPart h.desc) (qdBase h.desc) (64 * 2 ^ qdLog h.desc) = true ∧
    qdBase h.desc % (64 * 2 ^ qdLog h.desc) = 0)) ∧
  h.next = none ∧ pkLen ty ≤ h.ready ∧ maskedBy (s.packet h (pkLen ty)) (pkMask ty) = true

/-- R365, R368, R374: a queue that halts keeps RPTR at its packet, shows the error code, gives up its buffers, and its
error is reported with the nesting that it was in (how the nesting is given is the model's choice: log entry 79) and
raised on EVEC. -/
def Claim.QueueHalts : Prop :=
  ∀ (s : State) (i code : Nat) (h : HSlot), s.dev.hslots.find i = some h →
    ∃ l, (s.haltSlot i code).dev.hslots.find i = some l ∧ l.halted = true ∧ l.err = code ∧ l.rptr = h.rptr ∧ l.queue = h.queue ∧
      (h.next = none → l.bufs = [] ∧ l.number = 0) ∧ (s.haltSlot i code).dev.nesting.get [] h.queue = h.bufs ∧
      ∃ d v, (⟨d, .msixEvent v⟩ : Pend) ∈ (s.haltSlot i code).agenda

/-- R367, R368, R372, R374: a NOP is dispatched; a SIGNAL updates its signal with a full summary and is dispatched, or
halts its queue; a WAIT whose condition holds is dispatched with the signal's summary, another joins the object's list,
and its queue waits; an INDIRECT enters its buffer, four deep at most; a packet of a type above 5, in the ring or in a
buffer, halts its queue with code 1, and a ring that does not lie in memory with code 4, or in an aperture that its partition
has no grant to (R391). That an INDIRECT of count 0 halts with code 1 and a misaligned buffer with code 4 is log entry 79
(DEDUCED). -/
def Claim.PlainPackets : Prop :=
  ∀ (s : State) (i : Nat) (h : HSlot),
    let u := s.onDev fun d => { d with lastSlot := i }
    let w := fun (j : Nat) => (s.packet h 1).getD j 0
    (packetStarts s i h 0 → exec (.nopPacket i) s = .next (u.dispatched i 1).kick) ∧
    (∀ ty, 6 ≤ ty → s.dev.hslots.find i = some h → s.cpNext = some i → h.number = 0 → pkType (s.header h) = ty →
      (h.bufs ≠ [] ∨ (s.ringOk (qdPart h.desc) (qdBase h.desc) (64 * 2 ^ qdLog h.desc) = true ∧
        qdBase h.desc % (64 * 2 ^ qdLog h.desc) = 0) → exec (.nopPacket i) s = .next (u.haltSlot i 1).kick)) ∧
    (∀ p a n, mpaRange a n = false ∨ (a / 2 ^ 46 = 2 ∧ s.granted p (a / 2 ^ 42 % 16) (a / 2 ^ 36 % 4) false = false) →
      s.ringOk p a n = false) ∧
    (s.dev.hslots.find i = some h → s.cpNext = some i → h.number = 0 → pkType (s.header h) = 0 → h.bufs = [] →
      (s.ringOk (qdPart h.desc) (qdBase h.desc) (64 * 2 ^ qdLog h.desc) = false ∨ qdBase h.desc % (64 * 2 ^ qdLog h.desc) ≠ 0) →
      exec (.nopPacket i) s = .next (u.haltSlot i 4).kick) ∧
    (packetStarts s i h 2 →
      (2 ≤ fld (w 0) 16 2 → exec (.signal i) s = .next (u.haltSlot i 1).kick) ∧
      (fld (w 0) 16 2 < 2 → ∀ t e, u.deviceSignal (qdPart h.desc) (qdAs h.desc) (w 1) (fld (w 0) 16 2 == 0) (w 2)
        fullSummary = (t, e) →
        (e = 0 → exec (.signal i) s = .next ((t.dispatched i 1).vecEvent (w 3)).kick) ∧
        (e ≠ 0 → exec (.signal i) s = .next (t.haltSlot i e).kick))) ∧
    (packetStarts s i h 3 → h.woken = false → (w 1).toNat % 256 = 0 → fld (w 1) 60 4 = 0 → ∀ t pl,
      u.placeIn (qdPart h.desc) (qdAs h.desc) (u.firstCore (qdPart h.desc)) 0 (w 1) 256 256 1 1 = (t, .ok pl) →
      ((t.obj pl.key).kind ≠ 1 → exec (.waitPacket i) s = .next (t.haltSlot i 5).kick) ∧
      ((t.obj pl.key).kind = 1 → relHolds (fld (w 0) 16 2) (t.obj pl.key).value (w 2) = true →
        exec (.waitPacket i) s =
          .next ((t.onSlot i fun h => { h with summ := h.summ ||| (t.obj pl.key).summ }).dispatched i 1).kick) ∧
      ((t.obj pl.key).kind = 1 → relHolds (fld (w 0) 16 2) (t.obj pl.key).value (w 2) = false → ∃ v l,
        exec (.waitPacket i) s = .next v ∧ v.waits = t.waits ++ [(pl.key, waiterSlot i)] ∧ v.dev.hslots.find i = some l ∧
        l.wcond = some (pl.key, pl.hm, fld (w 0) 16 2, w 2) ∧ l.st = 2 ∧ l.rptr = h.rptr ∧
        (v.obj pl.key).cont = true ∧ (v.obj pl.key).value = (t.obj pl.key).value)) ∧
    (s.dev.hslots.find i = some h → h.woken = true → exec (.waitPacket i) s = .next (s.dispatched i 1).kick) ∧
    (packetStarts s i h 4 →
      let a := (w 1).toNat
      let n := fld (w 2) 0 16
      (n = 0 → exec (.indirect i) s = .next (u.haltSlot i 1).kick) ∧
      let lies := s.ringOk (qdPart h.desc) a (64 * n)
      (n ≠ 0 → a % 64 ≠ 0 ∨ lies = false → exec (.indirect i) s = .next (u.haltSlot i 4).kick) ∧
      (n ≠ 0 → a % 64 = 0 → lies = true → (∃ r ∈ h.running, overlap a (64 * n) r.1 r.2 = true) →
        exec (.indirect i) s = .next (u.haltSlot i 7).kick) ∧
      (n ≠ 0 → a % 64 = 0 → lies = true → (∀ r ∈ h.running, overlap a (64 * n) r.1 r.2 = false) →
        (h.bufs.length < 4 → exec (.indirect i) s =
          .next (u.onSlot i fun h => { h with bufs := ⟨a, n, 0⟩ :: h.bufs }).kick) ∧
        (4 ≤ h.bufs.length → exec (.indirect i) s = .next (u.haltSlot i 6).kick)))

/-- R367, R374: a packet's dispatch moves RPTR past its entries in the ring; in a buffer it moves the buffer on, and the
last packet of a buffer ends it and dispatches the INDIRECT; a queue that has halted meanwhile leaves its buffers. -/
def Claim.PacketAdvance : Prop :=
  ∀ (h : HSlot) (b : Buf) (bs : List Buf) (n : Nat),
    (h.bufs = [] → (h.advance n).rptr = h.rptr + .ofNat 32 n ∧ (h.advance n).bufs = []) ∧
    (h.bufs = b :: bs → b.pos + n < b.count →
      (h.advance n).bufs = (if h.halted = true then [] else { b with pos := b.pos + n } :: bs) ∧
      (h.advance n).rptr = h.rptr) ∧
    (h.bufs = [b] → b.count ≤ b.pos + n → (h.advance n).bufs = [] ∧ (h.advance n).rptr = h.rptr + 1) ∧
    (h.advance n).number = 0 ∧ (h.advance n).wptr = h.wptr

/-- Queue definitions and packets. -/
def Obligations.HostQueues : Prop :=
  Claim.QueueDefinition ∧ Claim.QueueHalts ∧ Claim.PlainPackets ∧ Claim.PacketAdvance

/-- R369, R370: a LAUNCH or a COPY that fails its checks halts its queue with their code; one that passes takes the next
launch number, and with its handles free acquires them and goes on. -/
def Claim.LaunchPackets : Prop :=
  ∀ (s : State) (i : Nat) (h : HSlot),
    let u := s.onDev fun d => { d with lastSlot := i }
    (packetStarts s i h 1 →
      let ws := s.packet h 2
      let code := u.launchCode h ws
      (code ≠ 0 → exec (.launch i) s = .next (u.haltSlot i code).kick) ∧
      (code = 0 → ∃ t l, exec (.launch i) s = .next t ∧ t.dev.hslots.find i = some l ∧ l.number = s.dev.nextLaunch ∧
        l.words = ws ∧ t.dev.nextLaunch = nextNumber s.dev.nextLaunch ∧
        (s.handlesFree (qdPart h.desc) (pkHandles ws) = true → l.next = some 0 ∧
          ∃ r, t.dev.launches.find s.dev.nextLaunch = some r ∧ r.handles = pkHandles ws ∧ r.dealt = false ∧ r.live = 0) ∧
        (s.handlesFree (qdPart h.desc) (pkHandles ws) = false → l.next = h.next))) ∧
    (packetStarts s i h 5 →
      let ws := s.packet h 1
      let code := u.copyCode h ws
      (code ≠ 0 → exec (.copyPacket i) s = .next (u.haltSlot i code).kick) ∧
      (code = 0 → s.handlesFree (qdPart h.desc) (pkHandles ws) = true → (s.part (qdPart h.desc)).st = 1 → ∀ k,
        (s.core (s.firstCore (qdPart h.desc))).freeSlot = some k → s.posted = [] → ∃ t r,
          exec (.copyPacket i) s = .next t ∧ t.dev.launches.find s.dev.nextLaunch = some r ∧
          r.copy = some (s.firstCore (qdPart h.desc), k) ∧ r.dealt = true))

/-- R28, R209, R370: strand `j` of a LAUNCH goes to the (`j` mod `n`)-th core of the set, with its index added to its
seed, as long as that core's direct list has room; its launch then counts it. -/
def Claim.LaunchDeal : Prop :=
  ∀ (s : State) (cs : List Nat) (r : Child) (seed : Word) (f j : Nat),
    let c := cs.getD (j % cs.length) 0
    (48 ≤ (s.core c).direct.length → s.deal cs r seed (f + 1) j = (s, j)) ∧
    ((s.core c).direct.length < 48 → s.deal cs r seed (f + 1) j =
      ((((s.onCore c fun k => { k with direct := k.direct ++ [.child { r with g1 := seed + .ofNat 64 j } 0] }).plan
        (.placeHead c)).onLaunch r.launch fun l => { l with live := l.live + 1 }).deal cs r seed f (j + 1)))

/-- R369, R371: a launch gives its handles back: LASTW of one that it held for writing is 0, NRD of one that it held for
reading is one less, and nothing else changes. -/
def Claim.HandleRelease : Prop :=
  ∀ (s : State) (p i acc : Nat) (hs : List (Nat × Nat)),
    let u := s.releaseHandles p hs
    let t := s.releaseHandles p (hs ++ [(i, acc)])
    let key := u.handleKey p i
    s.releaseHandles p [] = s ∧
    (acc / 2 % 2 = 1 → t.lastw p i = 0 ∧ ∀ b, b < key + 16 ∨ key + 20 ≤ b → t.byte b = u.byte b) ∧
    (acc / 2 % 2 ≠ 1 → t.nrd p i = u.nrd p i - 1 ∧ ∀ b, b < key + 20 ∨ key + 24 ≤ b → t.byte b = u.byte b)

/-- R371: LAUNCH_COMPLETE waits for the last strand of its launch; the launch then releases its handles, adds CADD to its
signal with a full summary and raises its event; a signal that rejects the update is the queue's error at the launch's
packet. -/
def Claim.LaunchCompletes : Prop :=
  ∀ (s : State) (n : Nat) (l : Launch),
    (s.dev.launches.find n = none → exec (.launchComplete n) s = .next s) ∧
    (s.dev.launches.find n = some l → l.copy = none →
      (l.dealt = false ∨ l.live ≠ 0 → exec (.launchComplete n) s = .next s) ∧
      (l.dealt = true → l.live = 0 →
        let u := (s.releaseHandles l.part l.handles).onDev fun d => { d with launches := d.launches.del n }
        let ends := fun (v : State) => exec (.launchComplete n) s =
          .next (if l.ven = true then v.plan (.msixEvent l.vec) else v).kick
        u.dev.launches.find n = none ∧ (l.csig = 0 → ends u) ∧
        (l.csig ≠ 0 → ∀ v e, u.deviceSignal l.part l.as l.csig false l.cadd fullSummary = (v, e) →
          (e = 0 → ends v) ∧ (e ≠ 0 → ends (v.queueError l.queue e l.rpos))) ∧
        (l.csig = 0 → ∃ t, exec (.launchComplete n) s = .next t ∧ t.dev.launches.find n = none ∧
          (l.handles = [] → ∀ key, t.byte key = s.byte key) ∧
          (l.ven = true → (⟨s.mesh, .msixEvent l.vec⟩ : Pend) ∈ t.agenda))))

/-- Launches: start, dealing and completion. -/
def Obligations.Launches : Prop :=
  Claim.LaunchPackets ∧ Claim.LaunchDeal ∧ Claim.HandleRelease ∧ Claim.LaunchCompletes

/-- R376: an event of a vector sends its message once COUNT events are held, and starts the timer with the first; the timer
sends what is held; a masked vector's message pends. -/
def Claim.Interrupts : Prop :=
  ∀ (s : State) (v : Nat),
    let c := s.dev.coalOf v
    let sends := fun (i : Instr) => ∃ t, exec i s = .next t ∧ fld (t.dev.coalOf v) 56 8 = 0 ∧
      (s.dev.masked v = false → t.dev.msgs = s.dev.msgs ++ [v]) ∧
      (s.dev.masked v = true → t.dev.msgs = s.dev.msgs ∧ t.dev.pba.get false v = true)
    (fld c 0 8 ≤ fld c 56 8 + 1 → sends (.msixEvent v)) ∧
    (fld c 56 8 + 1 < fld c 0 8 → ∃ t, exec (.msixEvent v) s = .next t ∧ t.dev.msgs = s.dev.msgs ∧
      fld (t.dev.coalOf v) 56 8 = fld c 56 8 + 1 ∧
      (fld c 56 8 = 0 → (⟨s.mesh + 1800 * fld c 12 10, .coalescingTimer v⟩ : Pend) ∈ t.agenda)) ∧
    (fld c 56 8 = 0 → exec (.coalescingTimer v) s = .next s) ∧
    (fld c 56 8 ≠ 0 → sends (.coalescingTimer v))

/-- R366, R405: while the host link is up, a doorbell more than a ring ahead of RPTR halts the queue with the overrun
error; one that goes back is ignored; any other moves WPTR. A queue that is not defined ignores it; of a defined queue
that no slot holds firmware is told. -/
def Claim.Doorbells : Prop :=
  ∀ (s : State) (q i : Nat) (h : HSlot) (v : BitVec 32),
    (s.powered = false → exec (.doorbell q v) s = .next s) ∧ (s.powered = true →
    (s.slotOf q = some i → s.dev.hslots.find i = some h →
      let ahead := (v - h.rptr).toNat
      (2 ^ qdLog h.desc < ahead → exec (.doorbell q v) s = .next (s.haltSlot i 8)) ∧
      (ahead ≤ 2 ^ qdLog h.desc → ahead < (h.wptr - h.rptr).toNat → ∃ t, exec (.doorbell q v) s = .next t ∧
        t.dev.hslots.find i = some h) ∧
      (ahead ≤ 2 ^ qdLog h.desc → (h.wptr - h.rptr).toNat ≤ ahead → ∃ t, exec (.doorbell q v) s = .next t ∧
        t.dev.hslots.find i = some { h with wptr := v })) ∧
    (s.slotOf q = none → qdV (s.queueDesc q) = false → exec (.doorbell q v) s = .next s) ∧
    (s.slotOf q = none → qdV (s.queueDesc q) = true → (v - qdRptr (s.queueDesc q)).toNat ≤ 2 ^ qdLog (s.queueDesc q) →
      ∃ t, exec (.doorbell q v) s = .next t ∧ q ∈ t.dev.bells ∧ t.dev.hslots = s.dev.hslots))

/-- R370, R372, R375, R379: while firmware runs, a defined queue in no slot is loaded with its pointers and state from its
descriptor and with what its WAITs have brought; a slot is given up with its pointers written back, a WAIT that an update has
satisfied being dispatched first, and one whose packet goes on starts no further packet and is given up later, which is log
entry 82; a restarted queue goes on. While firmware is down no slot is mapped or given up: that such writes are dropped is log
entry 82. A write of V = 1 to a slot that holds a queue is the model's reading (log entry 141): for the same queue only PRI
changes, firmware running or not, for another one the slot is given up first. -/
def Claim.Slots : Prop :=
  ∀ (s : State) (i : Nat) (v : Word) (h : HSlot), i < 64 →
    let q := fld v 0 12
    let d := s.queueDesc q
    (s.dev.fwUp = false → (s.dev.hslots.find i = none → exec (.slotMap i v) s = .next s) ∧
      (s.dev.hslots.find i = some h → exec (.slotUnmap i) s = .next s ∧
        (h.queue ≠ q → h.closing = false → exec (.slotMap i v) s = .next s))) ∧
    (s.dev.fwUp = true → s.dev.hslots.find i = none → exec (.slotUnmap i) s = .next s ∧
      (qdDefined d = false ∨ (s.slotOf q).isSome = true → exec (.slotMap i v) s = .next s) ∧
      (qdDefined d = true → s.slotOf q = none → ∃ t l, exec (.slotMap i v) s = .next t ∧
        t.dev.hslots.find i = some l ∧ l.queue = q ∧ l.pri = fld v 27 3 ∧ l.rptr = qdRptr d ∧ l.wptr = qdWptr d ∧
        l.summ = s.dev.waitSumm.get 0 q ∧ (l.halted = true ↔ fld d 114 2 = 3))) ∧
    (s.dev.fwUp = true → s.dev.hslots.find i = some h → h.next = none → h.bufs = [] →
      (h.woken = true → exec (.slotUnmap i) s = exec (.slotUnmap i) (s.dispatched i 1)) ∧
      ∃ t, exec (.slotUnmap i) s = .next t ∧ t.dev.hslots.find i = none ∧ t.dev.waitSumm.get 0 h.queue = h.summ) ∧
    (s.dev.fwUp = true → s.dev.hslots.find i = some h → h.next.isSome = true → exec (.slotUnmap i) s =
      .next ((s.onSlot i fun h => { h with closing := true }).plan (.slotUnmap i))) ∧
    (s.dev.hslots.find i = some h → h.queue = q → ∃ t, exec (.slotMap i v) s = .next t ∧
      t.dev.hslots.find i = some { h with pri := fld v 27 3 }) ∧
    (s.dev.hslots.find i = some h → h.queue ≠ q → qdDefined d = false ∨ (s.slotOf q).isSome = true →
      exec (.slotMap i v) s = .next s) ∧
    (s.dev.fwUp = true → s.dev.hslots.find i = some h → h.queue ≠ q → qdDefined d = true → s.slotOf q = none →
      (h.busy = true → exec (.slotMap i v) s = .next ((s.onSlot i fun h => { h with closing := true }).plan (.slotMap i v))) ∧
      (h.busy = false → ∃ t l, exec (.slotMap i v) s = .next t ∧ t.dev.hslots.find i = some l ∧ l.queue = q ∧
        l.pri = fld v 27 3 ∧ t.dev.waitSumm.get 0 h.queue = h.summ)) ∧
    (s.dev.hslots.find i = some h → ∃ t, exec (.slotRestart i) s = .next t ∧
      t.dev.hslots.find i = some { h with halted := false })

/-- Interrupts, doorbells and slots. -/
def Obligations.HostSignals : Prop := Claim.Interrupts ∧ Claim.Doorbells ∧ Claim.Slots

/-- R378, R379, R404: a firmware exception or an expired watchdog takes FWUP away, clears the firmware core and its
memory, and with CRASHEN writes record `k` of the retention region, `k` counting from 1, at 4,096 × (`k` mod 16): its
number, the core's registers, the cycle and whether the watchdog was the cause. That `k` is SEQ, and that FWUP falls with
CRASHEN 0 too, is the model's reading: log entry 83. FIRMWARE_RETURN sets FWUP. -/
def Claim.FirmwareFailure : Prop :=
  ∀ (s : State) (a b c : Word) (xs : List (BitVec 32)),
    let k := s.dev.crashSeq + 1
    let base := 4096 * (k % 16)
    let fails := fun (i : Instr) (wdog : Nat) => ∃ t, exec i s = .next t ∧ t.dev.fwUp = false ∧
      (t.dev.fw = .blank s.dev.fw.size) ∧
      (⟨s.mesh, .firmwareReturn⟩ : Pend) ∈ t.agenda ∧
      (s.dev.cpcfg.getLsbD 0 = false → t.dev.crash = s.dev.crash ∧ t.dev.crashSeq = s.dev.crashSeq) ∧
      (s.dev.cpcfg.getLsbD 0 = true → t.dev.crashSeq = k ∧
        (∀ o, o < base ∨ base + 4096 ≤ o → t.dev.crash.get 0 o = s.dev.crash.get 0 o) ∧
        (let field := fun (o n : Nat) => ofBytes ((List.range n).map fun j => t.dev.crash.get 0 (base + o + j))
         field 0 4 = k % 2 ^ 32 ∧ field 8 8 = a.toNat ∧ field 16 8 = b.toNat ∧ field 24 8 = c.toNat ∧
          field 32 8 = s.mesh % 2 ^ 64 ∧ (xs.length = 31 → (∀ j, j < 31 → field (40 + 4 * j) 4 = (xs.getD j 0).toNat) ∧
            field 164 4 = 0 ∧ field 168 1 = wdog ∧ ∀ o, 169 ≤ o → o < 4096 → field o 1 = 0)))
    fails (.firmwareException a b c xs) 0 ∧ fails (.watchdogExpiry a b c xs) 1 ∧
    ∃ t, exec .firmwareReturn s = .next t ∧ t.dev.fwUp = true ∧ t.dev.crash = s.dev.crash

/-! ### Links, power and boot -/

/-- R388, R389: a flit that a port makes carries a good CRC, and a flit with a good CRC and any one bit changed does
not. -/
def Claim.FlitCheck : Prop :=
  (∀ kind payload, crcGood (mkFlit kind payload) = true) ∧
  ∀ (f : BitVec 256) (i : Nat), i < 256 → crcGood f = true → crcGood (f ^^^ (1#256 <<< i)) = false

/-- R389: a port that is not up ignores flits; every bad flit counts in CRCERR and is answered with a negative
acknowledgement of the number due, and it and what follows are discarded until the partner resends the flit that is due
(whether an arriving flit is that one is given with it: log entry 17); flits that come good are taken in order; an
acknowledgement frees the replay buffer up to its number, and a negative one has what follows that number sent again, each
flit at most 8 times: when one of them has been, the port retrains instead. -/
def Claim.FlitReceive : Prop :=
  ∀ (s : State) (k : Nat) (f : BitVec 256) (resent : Bool),
    let p := s.port k
    let run := exec (.flitReceive k (f, resent)) s
    (p.st ≠ 2 → run = .next s) ∧
    (p.st = 2 → crcGood f = false → ∃ t, run = .next t ∧
      (t.port k).crcerr = min 0xFFFF (p.crcerr + 1) ∧ (t.port k).rxSeq = p.rxSeq ∧ (t.port k).rx = p.rx ∧
      (t.port k).discard = true ∧ (t.port k).out = p.out ++ [mkFlit 4 p.rxSeq]) ∧
    (p.st = 2 → crcGood f = true → p.discard = true → resent = false → run = .next s) ∧
    (p.st = 2 → crcGood f = true → p.discard = false ∨ resent = true → p.sinceAck < 63 → flitKind f ≠ 4 → ∃ t,
      run = .next t ∧ (t.port k).rxSeq = (p.rxSeq + 1) % 4096 ∧ (t.port k).out = p.out ∧ (t.port k).discard = false ∧
      (t.port k).rx = (if flitKind f = 1 ∨ flitKind f = 2 then p.rx ++ [f] else p.rx) ∧
      (t.port k).buf = (if flitKind f = 3 then p.buf.filter (fun e => !seqLe e.1 (flitSeq f)) else p.buf)) ∧
    (p.st = 2 → crcGood f = true → p.discard = false ∨ resent = true → p.sinceAck < 63 → flitKind f = 4 →
      let again := p.buf.filter fun e => seqLe (flitSeq f) e.1
      ∃ t, run = .next t ∧ (t.port k).rxSeq = (p.rxSeq + 1) % 4096 ∧
        ((∀ e ∈ again, e.2.2 < 8) → (t.port k).out = p.out ++ again.map (·.2.1) ∧ (t.port k).st = 2 ∧
          (t.port k).buf = p.buf.map fun e => if seqLe (flitSeq f) e.1 = true then (e.1, e.2.1, e.2.2 + 1) else e) ∧
        ((∃ e ∈ again, 8 ≤ e.2.2) → (t.port k).out = p.out ∧ (t.port k).buf = p.buf ∧ (t.port k).st = 1 ∧
          ∃ ok, (⟨s.mesh, .linkRetrain k ok⟩ : Pend) ∈ t.agenda))

/-- R390: a transaction to another device leaves by one port of that device's route, and by the same one for every byte of a
128-byte line; a port that is up sends one flit of it. Which port the hash names, and what the flit holds, is not stated: log
entry 120. -/
def Claim.PortChoice : Prop :=
  ∀ (s : State) (key d : Nat), keyDev s.ownDev key = d →
    (d = s.ownDev → s.transact key = s) ∧
    (d ≠ s.ownDev → s.routeOf d = 0 → s.transact key = s) ∧
    (d ≠ s.ownDev → s.routeOf d ≠ 0 → s.routeOf d &&& 0xFF = s.routeOf d → ∃ k f, s.portOf d key = some k ∧
      (s.routeOf d).getLsbD k = true ∧ (∀ other, other / 128 = key / 128 → s.portOf d other = some k) ∧
      ((s.port k).st = 2 → ((s.transact key).port k).out = (s.port k).out ++ [f]) ∧
      ∀ j, j ≠ k → (s.transact key).port j = s.port j)

/-- R389, R390: the acknowledgement timer acknowledges what has come; retraining brings the port up with its numbers from 0
and resends what was not acknowledged, or takes it down, and firmware, once it runs, takes it out of every route; where it was
the last port to a device, every partition with a grant to that device halts; a route keeps the port bits written. -/
def Claim.LinkUpkeep : Prop :=
  ∀ (s : State) (k d : Nat) (v : Word),
    let p := s.port k
    (p.st = 2 → p.sinceAck ≠ 0 → ∃ t, exec (.ackTimer k) s = .next t ∧ (t.port k).sinceAck = 0 ∧
      (t.port k).out = p.out ++ [mkFlit 3 ((p.rxSeq + 4095) % 4096)]) ∧
    (p.sinceAck = 0 → exec (.ackTimer k) s = .next s) ∧
    (∃ t, exec (.linkRetrain k true) s = .next t ∧ (t.port k).st = 2 ∧ (t.port k).rxSeq = 0 ∧
      (t.port k).out = p.out ++ p.buf.map (·.2.1) ∧ (t.port k).buf.map Prod.fst = List.range p.buf.length ∧
      ∀ e ∈ (t.port k).buf, e.2.2 = 0) ∧
    (s.dev.fwUp = false → ∃ t, exec (.linkRetrain k false) s = .next t ∧ (t.port k).st = 0 ∧
      (⟨s.mesh, .linkRetrain k false⟩ : Pend) ∈ t.agenda ∧ ∀ d, t.routeOf d = s.routeOf d) ∧
    (s.dev.fwUp = true → ∃ t, exec (.linkRetrain k false) s = .next t ∧ (t.port k).st = 0 ∧
      (∀ d, d < 16 → t.routeOf d = if (s.routeOf d).getLsbD k = true then s.routeOf d &&& ~~~(1#64 <<< k) &&& 0xFF
        else s.routeOf d) ∧
      ∀ d p, d < 16 → p < 4 → s.routeOf d = 1#64 <<< k → k < 8 → (s.part p).st = 1 →
        ((s.part p).fgrant.get 0 d).getLsbD 31 = true → (t.part p).st = 3) ∧
    (∃ t, exec (.routeWrite d v) s = .next t ∧ t.routeOf d = v &&& 0xFF ∧ ∀ e, e ≠ d → t.routeOf e = s.routeOf e)

/-- Firmware failures and the links. -/
def Obligations.FirmwareAndLinks : Prop :=
  Claim.FirmwareFailure ∧ Claim.FlitCheck ∧ Claim.FlitReceive ∧ Claim.PortChoice ∧ Claim.LinkUpkeep

/-- R21, R397 to R399: a droop counts in STRETCH; a limiter step asks for one context more or fewer per core of its slice,
between 0 and 14; collectives count only while pacing is enabled, the first one after that unmeasured. -/
def Claim.PowerControl : Prop :=
  ∀ (s : State) (i : Nat) (above below : Bool) (lead : Int) (period : Nat),
    (∃ t, exec (.clockStretch i) s = .next t ∧ (t.slice i).stretch = min 0xFFFF ((s.slice i).stretch + 1) ∧
      s.SameMemory t) ∧
    (∃ t, exec (.currentLimiterStep i above below) s = .next t ∧ s.SameMemory t ∧
      (t.slice i).limit = if above = true then min 14 ((s.slice i).limit + 1)
        else if below = true then (s.slice i).limit - 1 else (s.slice i).limit) ∧
    (s.dev.pacectl.getLsbD 31 = false → exec (.collectiveComplete lead period) s = .next s) ∧
    (s.dev.pacectl.getLsbD 31 = true →
      (s.dev.paceSkip = true → ∃ t, exec (.collectiveComplete lead period) s = .next t ∧ t.dev.paceSkip = false ∧
        t.dev.leads = s.dev.leads) ∧
      (s.dev.paceSkip = false → s.dev.leads.length < 15 → ∃ t, exec (.collectiveComplete lead period) s = .next t ∧
        t.dev.leads = s.dev.leads ++ [(lead, period)] ∧ t.dev.rem = s.dev.rem))

/-- R401: an emergency save waits for firmware; it halts every partition and blanks the heads; then, a partition a step and in
ascending number, it writes the save area, which begins with the first core's scratchpad, and seals it; and last the device
powers down with its seals. That a partition's save is one step, between which a trip may come, is the model's choice: log
entry 86. -/
def Claim.EmergencySave : Prop :=
  ∀ (s : State),
    (s.dev.thermState ≠ 2 ∨ s.powered = false → exec .emergencySave s = .next s) ∧
    (s.dev.thermState = 2 → s.powered = true → s.dev.fwUp = false → exec .emergencySave s = .next (s.plan .emergencySave)) ∧
    (s.dev.thermState = 2 → s.powered = true → s.dev.fwUp = true →
      (s.dev.saving = none → ∃ t, exec .emergencySave s = .next t ∧ t.powered = true ∧ t.dev.saving = some 0 ∧
        t.dev.sealedM = s.dev.sealedM ∧ (⟨s.mesh, .emergencySave⟩ : Pend) ∈ t.agenda ∧
        (∀ p, p < 4 → (s.part p).st = 1 → (t.part p).st = 3) ∧ ∀ e ∈ t.dev.hd, e.2.hmode.getLsbD 63 = false) ∧
      (∀ p, s.dev.saving = some p → p < 4 → ∃ t, exec .emergencySave s = .next t ∧ t.powered = true ∧
        t.dev.saving = some (p + 1) ∧ (⟨s.mesh, .emergencySave⟩ : Pend) ∈ t.agenda ∧
        (∀ q, q < 4 → (t.dev.sealedM.getLsbD q = true ↔ s.dev.sealedM.getLsbD q = true ∨ (q = p ∧ (s.part p).st ≠ 0))) ∧
        ((s.part p).st = 3 → (s.part p).savebase.toNat < 2 ^ 38 → (∀ c ∈ s.coresOf p, (s.core c).l1 = []) →
          ∀ c cs, s.coresOf p = c :: cs → ∀ i, i < (s.core c).scratchSize →
            t.byte ((s.part p).savebase.toNat + i) = (s.core c).scratch.get 0 i)) ∧
      (∀ p, s.dev.saving = some p → 4 ≤ p → ∃ t, exec .emergencySave s = .next t ∧ t.powered = false ∧
        t.dev.sealedM = s.dev.sealedM ∧ t.mem = s.mem))

/-- R400 to R402: TEMP at HOT makes STATE 1, at CRIT it makes it 2 with an emergency save due; a step at or above HOT gates
one context more, up to 12, and one well below gates one fewer; the trip ends without power, with SEALED as it stood recorded
and memory and the retention region kept. -/
def Claim.ThermalControl : Prop :=
  ∀ (s : State) (temp : BitVec 8), s.dev.hot.toNat < s.dev.crit.toNat →
    (s.dev.thermState ≠ 2 → s.dev.crit.toNat ≤ temp.toNat → ∃ t, exec (.tempReachesHot temp) s = .next t ∧
      t.dev.thermState = 2 ∧ t.dev.temp = temp ∧ (⟨s.mesh, .emergencySave⟩ : Pend) ∈ t.agenda) ∧
    (s.dev.thermState ≠ 2 → s.dev.hot.toNat ≤ temp.toNat → temp.toNat < s.dev.crit.toNat → ∃ t,
      exec (.tempReachesHot temp) s = .next t ∧ t.dev.thermState = 1 ∧ t.dev.temp = temp) ∧
    (∃ t, exec (.thermalStep temp) s = .next t ∧ t.dev.thermGate = (if s.dev.hot.toNat ≤ temp.toNat
      then min 12 (s.dev.thermGate + 1) else if temp.toNat + 5 < s.dev.hot.toNat then s.dev.thermGate - 1
      else s.dev.thermGate)) ∧
    (∃ t, exec .thermalTrip s = .next t ∧ t.powered = false ∧ t.mgmt.tripped = true ∧ t.mgmt.sealedRec = s.dev.sealedM ∧
      t.dev.crash = s.dev.crash ∧ t.mem = s.mem)

/-- R392, R393: an event takes its source's next number; while the ring is enabled and has room its record of 32 bytes is
written at EVPROD's place, and EVPROD advances; a soft error is an event of KIND 2 where it was corrected, and of KIND 3 where
it was not. -/
def Claim.EventRing : Prop :=
  ∀ (s : State) (src kind : Nat) (data : BitVec 128), kind < 2 ^ 16 → src < 2 ^ 16 →
    let t := s.event src kind data
    let n := 2 ^ fld s.dev.evctl 0 5
    let key := 2 ^ 46 + (fld s.dev.evbase 12 34 * 4096 + 32 * (s.dev.evprod.toNat % n)) % 2 ^ 46
    t.dev.evseq.get 0 src = s.dev.evseq.get 0 src + 1 ∧
    (s.dev.evctl.getLsbD 31 = false ∨ (s.dev.evprod - s.dev.evcons).toNat = n →
      t.dev.evprod = s.dev.evprod ∧ ∀ k, t.byte k = s.byte k) ∧
    (s.dev.evctl.getLsbD 31 = true → (s.dev.evprod - s.dev.evcons).toNat ≠ n → t.dev.evprod = s.dev.evprod + 1 ∧
      t.loadN key 4 = (s.dev.evseq.get 0 src).toNat ∧ t.loadN (key + 4) 2 = kind ∧ t.loadN (key + 6) 2 = src ∧
      t.loadN (key + 16) 16 = data.toNat ∧ ∀ k, k < key ∨ key + 32 ≤ k → t.byte k = s.byte k) ∧
    ∀ corrected, ∃ u, exec (.softError src corrected data) s = .next u ∧
      let t := s.event src (if corrected then 2 else 3) data
      u.dev.evseq.get 0 src = s.dev.evseq.get 0 src + 1 ∧ u.dev.evprod = t.dev.evprod ∧ ∀ k, u.byte k = t.byte k

/-- Power, heat and the event ring. -/
def Obligations.PowerAndEvents : Prop :=
  Claim.PowerControl ∧ Claim.EmergencySave ∧ Claim.ThermalControl ∧ Claim.EventRing

/-- R1, R406: PROFNEXT takes a profile that the ordering code allows and is busy until it is committed; another value
changes nothing; the commit makes it the stored profile. -/
def Claim.Profiles : Prop :=
  ∀ (s : State) (v : Word),
    (profileOk s.dev.order (v.setWidth 2) = false → exec (.profnextWrite v) s = .next s) ∧
    (profileOk s.dev.order (v.setWidth 2) = true → ∃ t, exec (.profnextWrite v) s = .next t ∧
      t.mgmt.pendProf = some (v.setWidth 2) ∧ t.mgmt.profile = s.mgmt.profile ∧
      t.agenda = s.agenda ++ [⟨s.mesh, .profileStoreCommitted⟩]) ∧
    (∀ p, s.mgmt.pendProf = some p → ∃ t, exec .profileStoreCommitted s = .next t ∧ t.mgmt.profile = some p ∧
      t.mgmt.pendProf = none ∧ t.dev = s.dev) ∧
    (s.mgmt.pendProf = none → exec .profileStoreCommitted s = .next s)

/-- R408, R409: an attestation request joins those that have arrived before it, and nothing else changes; at the controller's
turn the first of them has the counter committed before it is signed, or is refused by a key at 2^20; at the next turn it is
answered with the index before the commit, its nonce, the measurement, SVN, profile and ordering code, in a signature of 2,820
bytes; no turn takes the counter back. -/
def Claim.Attestation : Prop :=
  ∀ (s : State) (nonce : BitVec 256) (rest : List (BitVec 256)),
    (∃ t, exec (.attestationRequest (some nonce)) s = .next t ∧ t.mgmt = { s.mgmt with reqs := s.mgmt.reqs ++ [nonce] } ∧
      t.dev = s.dev ∧ (s.mgmt.pendSig = none → s.mgmt.reqs = [] →
        (⟨s.mesh, .attestationRequest none⟩ : Pend) ∈ t.agenda)) ∧
    (s.mgmt.pendSig = none → s.mgmt.reqs = nonce :: rest → ∃ t, exec (.attestationRequest none) s = .next t ∧
      t.mgmt.reqs = rest ∧ t.dev = s.dev ∧
      (s.mgmt.counter < 2 ^ 20 → t.mgmt.counter = s.mgmt.counter + 1 ∧ t.mgmt.replies = s.mgmt.replies ∧
        t.mgmt.pendSig = some (s.mgmt.counter, nonce) ∧ (⟨s.mesh, .attestationRequest none⟩ : Pend) ∈ t.agenda) ∧
      (2 ^ 20 ≤ s.mgmt.counter → t.mgmt.counter = s.mgmt.counter ∧ t.mgmt.replies = s.mgmt.replies ++ [none] ∧
        t.mgmt.pendSig = none)) ∧
    (∀ i, s.mgmt.pendSig = some (i, nonce) → ∃ t r, exec (.attestationRequest none) s = .next t ∧
      t.mgmt.replies = s.mgmt.replies ++ [some r] ∧ r.index = i ∧ r.nonce = nonce ∧ r.measurement = s.dev.measurement ∧
      r.svn = s.dev.svn ∧ r.profile = s.dev.profile ∧ r.order = s.dev.order ∧ r.signature.length = 2820 ∧
      t.mgmt.counter = s.mgmt.counter ∧ t.mgmt.pendSig = none ∧ t.mgmt.reqs = s.mgmt.reqs) ∧
    (s.mgmt.pendSig = none → s.mgmt.reqs = [] → exec (.attestationRequest none) s = .next s)

/-- Profiles and attestation. -/
def Obligations.ProfilesAndAttestation : Prop := Claim.Profiles ∧ Claim.Attestation

/-- R1, R404, R405, R407: a boot of the same part stops at the first of its steps that fails: 1 the rails, 2 the profile,
3 a firmware image, slot A before slot B, 5 the training, 6 the host link; the management controller reports that step,
and the device is up when there is none. The board's number, heads and ordering code show from the reset on, the profile
from step 2, the image's SVN as the least from step 3, and FWUP from step 5. Which steps may fail, and with which cause,
is the model's reading: log entry 16. A power-on reset clears memory and SEALED; a device reset keeps the sealed save
areas and the retention region. -/
def Claim.Boots : Prop :=
  ∀ (s : State) (b : Board), b.order = s.board.order →
    let prof := s.mgmt.profile.getD b.profsel
    let image := if imageOk s.mgmt.minSvn b.slotA = true then some b.slotA
      else if imageOk s.mgmt.minSvn b.slotB = true then some b.slotB else none
    let stop := if b.railsOk = false then 1 else if profileOk b.order prof = false then 2 else if image = none then 3
      else if b.trainOk = false then 5 else if b.pcieOk = false then 6 else 0
    let boots := fun (t : State) => t.powered = decide (stop = 0) ∧
      t.mgmt.bootStop.map Prod.fst = (if stop = 0 then none else some stop) ∧ t.dev.order = b.order ∧
      t.dev.heads = wiredHeads b ∧ t.dev.number = (if b.domain = true then b.dev else 0) ∧
      (stop ≠ 1 → t.dev.profile = prof) ∧ t.dev.fwUp = decide (stop = 0 ∨ stop = 6) ∧
      t.mgmt.minSvn = (if stop = 1 ∨ stop = 2 then s.mgmt.minSvn else image.elim s.mgmt.minSvn
        fun i => max s.mgmt.minSvn (imageSvn i)) ∧ t.mgmt.counter = s.mgmt.counter ∧ t.mgmt.profile = s.mgmt.profile
    (∃ t, exec (.powerOnReset b) s = .next t ∧ (∀ key, key < 2 ^ 46 → t.byte key = 0) ∧ t.dev.sealedM = 0 ∧
      t.dev.crash = [] ∧ t.cores = [] ∧ boots t) ∧
    (∃ t, exec (.deviceReset b) s = .next t ∧ t.cores = [] ∧ t.dev.sealedM = s.dev.sealedM ∧ t.dev.crash = s.dev.crash ∧
      t.dev.evseq = [] ∧ (∀ key, key < 2 ^ 46 → t.byte key = if s.dev.saved.any (fun a => decide (a.2.1 ≤ key) &&
        decide (key < a.2.1 + a.2.2)) = true then s.byte key else 0) ∧ boots t)

/-- R407: the ROM takes no image whose MAGIC, reserved bits or LEN are not as the header has them, whose SVN is below the
least, or that ends before the 2,820 bytes of its signature. -/
def Claim.ImageRefusals : Prop :=
  ∀ (least : Nat) (img : List Byte),
    let word := fun (i : Nat) => ofBytes ((img.drop (4 * i)).take 4)
    word 0 ≠ 0x4B524746 ∨ word 1 < least ∨ 253952 < word 2 ∨ img.length < 64 + word 2 + 2820 ∨
      (∃ i, 12 ≤ i ∧ i < 64 ∧ img.getD i 0 ≠ 0) → imageOk least img = false

/-- R378, R402, R409: a loss of power takes memory, SEALED, what was not committed and, without the always-on rail, the
retention region; the counter and the stored profile stay. -/
def Claim.PowerLosses : Prop :=
  ∀ (s : State) (rail : Bool), ∃ t, exec (.powerLoss rail) s = .next t ∧ t.powered = false ∧
    (∀ key, key < 2 ^ 46 → t.byte key = 0) ∧ t.cores = [] ∧
    t.agenda = [] ∧ t.mgmt.pendSig = none ∧ t.mgmt.pendProf = none ∧ t.dev.sealedM = 0 ∧
    t.mgmt.counter = s.mgmt.counter ∧ t.mgmt.profile = s.mgmt.profile ∧
    t.dev.crash = if rail = true then [] else s.dev.crash

/-- R122, R125, R326, R405: while the host link is up, a host access reads or writes bytes of device memory at home, or of
the host's own memory, and reaches nothing else; a register write of the device level takes 64 bits at a multiple of 8,
and another offset changes nothing. -/
def Claim.HostInterface : Prop :=
  ∀ (s : State) (unit mpa off : Nat) (bs : List Byte) (v : Word),
    let own := 2 ^ 46 ≤ mpa ∧ mpa + bs.length ≤ 2 ^ 47
    (s.powered = false → ∀ w, exec (.hostAccess unit w mpa bs) s = .next s) ∧
    (s.powered = true → (2 ^ 38 < mpa + bs.length → ¬own → ∀ w, exec (.hostAccess unit w mpa bs) s = .next s) ∧
    (mpa + bs.length ≤ 2 ^ 38 ∨ own →
      (∃ t, exec (.hostAccess unit true mpa bs) s = .next t ∧
        ∀ key, t.byte key = if mpa ≤ key ∧ key < mpa + bs.length then bs.getD (key - mpa) 0 else s.byte key) ∧
      (∃ t, exec (.hostAccess unit false mpa bs) s = .next t ∧ t.dev.hread = s.bytes mpa bs.length ∧ s.SameMemory t))) ∧
    (off % 8 ≠ 0 → exec (.registerWrite off v) s = .next s) ∧
    (∃ t, exec (.registerWrite 0x20 v) s = .next t ∧ (t.part 0).pc = v &&& 0xFFFFFFFFFFFFC) ∧
    (∃ t, exec (.registerWrite 0x418 v) s = .next t ∧ t.dev.evcons = v.setWidth 32) ∧
    (∃ t, exec (.registerWrite 0x400 v) s = .next t ∧ t.dev.evbase = v &&& 0x3FFFFFFFF000) ∧
    (s.powered = false → exec (.registerWrite 0x400200 v) s = .next s) ∧
    (s.powered = true → ∃ t, exec (.registerWrite 0x400200 v) s = .next t ∧ (t.part 0).s2root = v &&& sysBits 0x40)

/-- Boot, power loss and host access. -/
def Obligations.ResetsAndHost : Prop := Claim.Boots ∧ Claim.ImageRefusals ∧ Claim.PowerLosses ∧ Claim.HostInterface

/-! ### Every form: how it issues, and what completing does -/

/-- R46, R48, R52: a register that an instruction may not read: outside the window, a queue register not bound as reader,
a reserved code. -/
def badSource (s : State) (o : Opnd) : Prop :=
  let n := o.toNat
  let window := if s.actor = 0 then 64 else 16 * (s.me.win.toNat + 1)
  (window ≤ n ∧ n < 0x40) ∨ n = 0x4A ∨ n = 0x4B ∨ (0x4C ≤ n ∧ n < 0x50 ∧ (s.me.q.get 0 (n - 0x4C)).toNat / 16 ≠ 1) ∨
    (0x57 ≤ n ∧ n < 0x60) ∨ 0x68 ≤ n

/-- R46, R48, R52: a register that an instruction may not write: as above, and w0, w1, every read-only register and c0. -/
def badDest (s : State) (o : Opnd) : Prop :=
  let n := o.toNat
  let window := if s.actor = 0 then 64 else 16 * (s.me.win.toNat + 1)
  (window ≤ n ∧ n < 0x40) ∨ (0x48 ≤ n ∧ n < 0x4C) ∨ (0x4C ≤ n ∧ n < 0x50 ∧ (s.me.q.get 0 (n - 0x4C)).toNat / 16 ≠ 2) ∨
    (0x50 ≤ n ∧ n < 0x56) ∨ (0x57 ≤ n ∧ n ≤ 0x60) ∨ 0x68 ≤ n

/-- The context has not issued the form yet and may issue it, and every register the form names is one it may name. -/
def namesOk (s : State) (f : Form) : Prop :=
  s.me.going = false ∧ f.gate.refuses s.actor = false ∧ (∀ o ∈ f.srcs, ¬badSource s o) ∧ ∀ d ∈ f.dsts, ¬badDest s d.1

/-- R141, R207: a form of context 0 alone is an illegal instruction in a user context, and a form of user contexts alone in
context 0, where the strand has not issued it yet. ENGREND with END = 1 is one in both outside a script (R268). -/
def Claim.GateTraps : Prop :=
  ∀ (s : State) (i : Instr) (f : Form), formOf i = some f →
    (s.me.going = false → (f.gate = .sup ∧ s.actor ≠ 0) ∨ (f.gate = .user ∧ s.actor = 0) → exec i s = .next (s.trapped 1 0 0)) ∧
    (∀ h, exec (.engrend h true) s = .next (s.trapped 1 0 0))

/-- R46, R48, R52, R143: a form that names a register it may not read or write traps as illegal-operand, whatever its
guard, where the strand has not issued it yet; the tests for an issue are exactly these. -/
def Claim.OperandTraps : Prop :=
  ∀ (s : State) (i : Instr) (f : Form), formOf i = some f → f.gate.refuses s.actor = false →
    (s.me.going = false → (∃ o ∈ f.srcs, badSource s o) ∨ (∃ d ∈ f.dsts, badDest s d.1) → exec i s = .next (s.trapped 2 0 0)) ∧
    (∀ o, s.me.readable s.actor o = true ↔ ¬badSource s o) ∧ (∀ o, s.me.writable s.actor o = true ↔ ¬badDest s o)

/-- A result of variable latency is on its way to a register. -/
def awaited (s : State) (o : Opnd) : Prop := ∃ f ∈ s.me.flight, f.ready = none ∧ f.o = o

/-- R20, R51, R140, R146: a strand waits, with nothing changed, while a variable-latency result is on its way to its guard
register or to a source other than g0, which reads 0; while one is on its way to a g or h register, so does a form that
writes one or reads w0 or w1; and while one is on its way to any other register, a form that writes it (R148; log entry
94). -/
def Claim.Interlocks : Prop :=
  ∀ (s : State) (i : Instr) (f : Form), formOf i = some f → namesOk s f →
    let toGh := ∃ o, o.toNat < 0x48 ∧ awaited s o
    (awaited s (guardOpnd f.hdr) → exec i s = .next s) ∧
    ((s.me.checked s.actor = true → s.me.fixPending (s.core s.cur).turn (guardOpnd f.hdr) = false) →
      ¬awaited s (guardOpnd f.hdr) → s.guardHolds s.cur s.actor f.hdr = true →
      (∃ o ∈ f.srcs, o ≠ 0#7 ∧ awaited s o) ∨ (∃ d ∈ f.dsts, awaited s d.1) ∨
        (toGh ∧ ((∃ o ∈ f.srcs, o = 0x48#7 ∨ o = 0x49#7) ∨ ∃ d ∈ f.dsts, d.1.toNat < 0x48)) →
      exec i s = .next s)

/-- R54, R60, R140, R144, R175: a form whose guard fails has no effect beyond its slot: the pc goes past it, its WAIT
applies, and nothing else of the machine changes but the count of issued instructions, the resume index, which a completed
instruction leaves 0, and a request to the special-function unit, which it makes no longer. -/
def Claim.GuardedOff : Prop :=
  ∀ (s : State) (i : Instr) (f : Form), formOf i = some f → namesOk s f → ¬awaited s (guardOpnd f.hdr) →
    (s.me.checked s.actor = true → s.me.fixPending (s.core s.cur).turn (guardOpnd f.hdr) = false) →
    (decide (f.hdr.gc = 0#3) || s.me.c.getLsbD f.hdr.gc.toNat) = f.hdr.gn →
    exec i s = .next (((s.onCore s.cur (·.unask s.actor)).onMe fun k => { k with
      pc := k.pc + .ofNat 64 f.len, stall := f.hdr.wait.toNat, grant := none, woken := false, ri := 0, status := 0
      total := 0 }).onCore s.cur fun k => { k with issued := k.issued + 1 })

/-- A form whose guard fails has no effect beyond its slot. -/
def Obligations.GuardedOffHasNoEffect : Prop := Claim.GuardedOff

/-- R140, R147: that the first of several sources is the one named is log entry 95 (DESIGN CHOICE), and that the test
comes after the wait for results of variable latency is log entry 65 (DEDUCED). With the checking scoreboard on, as always
in context 0, a guard register or else the first source whose fixed-latency result is not ready raises a short-stall trap
that names it. -/
def Claim.ShortStall : Prop :=
  ∀ (s : State) (i : Instr) (f : Form), formOf i = some f → namesOk s f → (s.actor = 0 ∨ s.me.chk = true) →
    ¬awaited s (guardOpnd f.hdr) →
    let late := fun (o : Opnd) => s.me.fixPending (s.core s.cur).turn o = true
    (late (guardOpnd f.hdr) → exec i s = .next (s.trapped 3 (.ofNat 64 (0x60 + f.hdr.gc.toNat)) 0)) ∧
    (¬late (guardOpnd f.hdr) → s.guardHolds s.cur s.actor f.hdr = true → (∀ o ∈ f.srcs, s.me.varPending o = false) →
      (∀ d ∈ f.dsts, s.me.dstPending d.1 = false) → ∀ before o after, f.srcs = before ++ o :: after →
      (∀ p ∈ before, ¬late p) → late o → exec i s = .next (s.trapped 3 (.ofNat 64 o.toNat) 0)) ∧
    (∀ o fl r, o ≠ 0#7 → fl ∈ s.me.flight → fl.o = o → fl.ready = some r → (s.core s.cur).turn < r → late o)

/-- R53: a form that reads an empty FIFO, or writes one that is full, or that results on their way will fill, parks at its pc,
and no entry moves. -/
def Claim.QueueWaits : Prop :=
  ∀ (s : State) (i : Instr) (f : Form), formOf i = some f → namesOk s f → ¬awaited s (guardOpnd f.hdr) →
    (s.me.checked s.actor = true → s.me.fixPending (s.core s.cur).turn (guardOpnd f.hdr) = false) →
    s.guardHolds s.cur s.actor f.hdr = true → (∀ o ∈ f.srcs, s.me.varPending o = false) →
    (∀ d ∈ f.dsts, s.me.dstPending d.1 = false) →
    (s.me.checked s.actor = true → ∀ o ∈ f.srcs, s.me.fixPending (s.core s.cur).turn o = false) →
    let number := fun (o : Opnd) => (s.me.q.get 0 (o.toNat - 0x4C)).toNat % 16
    let fifo := fun (o : Opnd) => (s.core s.cur).fifos.get [] (number o)
    (∃ o ∈ f.srcs, 0x4C ≤ o.toNat ∧ o.toNat < 0x50 ∧ (fifo o).length < (f.srcs.filter (· == o)).length) ∨
      (∃ d ∈ f.dsts, 0x4C ≤ d.1.toNat ∧ d.1.toNat < 0x50 ∧ 16 ≤ (fifo d.1).length + (s.core s.cur).inbound (number d.1)) →
    ∃ t, exec i s = .next t ∧ t.me.st = .parked ∧ t.me.wake = .fifo f.srcs (f.dsts.map Prod.fst) ∧ t.me.pc = s.me.pc ∧
      (t.core s.cur).fifos = (s.core s.cur).fifos ∧ s.SameMemory t

/-- The tests of every form before it issues. -/
def Obligations.IssueTests : Prop :=
  Claim.GateTraps ∧ Claim.OperandTraps ∧ Claim.Interlocks ∧ Claim.ShortStall ∧ Claim.QueueWaits

/-- R46, R47, R50, R144, R145: an instruction whose result is ready at the next turn, as it completes. The pc goes past it
and its WAIT applies; its destination reads the result (g0 reads 0, a condition register whether it is non-zero); w0 and w1
take the result and the old w0 for a g or h destination; every other register that can be read, of this context and of
every other, reads as before; memory, the caches and every part of the state outside the core are unchanged. -/
def Claim.Completion : Prop :=
  ∀ (s : State) (h : Hdr) (len : Nat) (srcs : List Opnd) (d : Opnd) (v : Word),
    (∀ o ∈ d :: srcs, o.toNat < 0x4C ∨ 0x50 ≤ o.toNat) → ¬badDest s d → s.me.wpend = [] →
    let t := s.done h len srcs [(d, some 1)] [v]
    t.me.pc = s.me.pc + .ofNat 64 len ∧ t.me.stall = h.wait.toNat ∧ s.SameMemory t ∧
    (0 < d.toNat → d.toNat < 0x48 → t.reg [] d = v) ∧ t.reg [] 0#7 = 0 ∧
    (0x61 ≤ d.toNat → t.reg [] d = if v = 0 then 0 else 1) ∧
    (d = 0x56#7 → t.me.ff.toNat = s.me.ff.toNat % 32 - (s.me.ff &&& v).toNat % 32 + v.toNat / 2 ^ 16 % 32 * 2 ^ 16) ∧
    (if d.toNat < 0x48 then t.me.w0 = v ∧ t.me.w1 = s.me.w0 else t.me.w0 = s.me.w0 ∧ t.me.w1 = s.me.w1) ∧ t.me.wpend = [] ∧
    (∀ o, ¬badSource s o → o ≠ d → o ≠ 0x48#7 → o ≠ 0x49#7 → t.reg [] o = s.reg [] o) ∧
    (∀ x, x ≠ s.actor → t.ctx s.cur x = s.ctx s.cur x) ∧ (∀ c, c ≠ s.cur → t.core c = s.core c) ∧
    (∀ e, (t.core s.cur).regs.get 0 e = if 0 < d.toNat ∧ d.toNat < 0x40 ∧ e = s.me.winEntry s.actor + d.toNat then v
      else (s.core s.cur).regs.get 0 e) ∧
    { t with cores := s.cores } = s

/-- R50, R147, R148: a result of a longer fixed latency leaves its register as it is until its turn, and is in it then; it
is not ready for a read before. A later write to the register discards it. -/
def Claim.FixedLatency : Prop :=
  ∀ (s : State) (h : Hdr) (len : Nat) (srcs : List Opnd) (d : Opnd) (v u : Word) (lat turn : Nat),
    (∀ o ∈ srcs, o.toNat < 0x4C ∨ 0x50 ≤ o.toNat) → 0 < d.toNat → d.toNat < 0x48 → 1 < lat → s.me.wpend = [] →
    s.me.flight = [] →
    let c := s.cur
    let t := s.done h len srcs [(d, some lat)] [v]
    t.reg [] d = s.reg [] d ∧ t.me.fixPending (s.core c).turn d = true ∧
    t.me.wRead (s.core c).turn 0 = s.me.w0 ∧
    (turn < (s.core c).turn + lat → (t.landFixed c s.actor turn).reg [] d = s.reg [] d) ∧
    ((s.core c).turn + lat ≤ turn →
      let r := t.landFixed c s.actor turn
      r.reg [] d = v ∧ r.me.w0 = v ∧ r.me.w1 = s.me.w0 ∧ r.me.flight = []) ∧
    (let t2 := t.done h len [] [(d, some 1)] [u]
     (t2.reg [] d = u) ∧ ∀ turn, (t2.landFixed c s.actor turn).reg [] d = u)

/-- R52, R53: a queue destination gets the result at its FIFO's end, and each queue source gives up its FIFO's first entry
when the instruction completes. -/
def Claim.QueueRegisters : Prop :=
  ∀ (s : State) (h : Hdr) (len : Nat) (o d : Opnd) (v x : Word) (rest : List Word),
    let fifo := fun (s : State) (o : Opnd) => (s.core s.cur).fifos.get [] ((s.me.q.get 0 (o.toNat - 0x4C)).toNat % 16)
    0x4C ≤ o.toNat → o.toNat < 0x50 →
    (fifo s o = x :: rest → s.reg [] o = x ∧ s.reg [o] o = rest.headD 0 ∧ ∀ d, d.toNat < 0x48 →
      fifo (s.done h len [o] [(d, some 1)] [v]) o = rest) ∧
    (d.toNat < 0x4C → fifo (s.done h len [d] [(o, some 1)] [v]) o = fifo s o ++ [v])

/-- Completing: the destination, the last results, and the frame. -/
def Obligations.CompletionAndFrame : Prop := Claim.Completion ∧ Claim.FixedLatency ∧ Claim.QueueRegisters

/-! ### Every form completes: its own effect, on conditions of the state and the operands alone -/

/-- An instruction completes: its own effects leave a state with its pc still at it; from there its queue sources pop, each
of its destinations takes a value, and it goes past its bytes or to its target. It has neither trapped nor waited. -/
def completes (s : State) (h : Hdr) (len : Nat) (srcs : List Opnd) (dsts : List Dst) (i : Instr) : Prop :=
  ∃ (t : State) (vals : List Word) (nx : Nx), vals.length = dsts.length ∧ (t.ctx s.cur s.actor).pc = s.me.pc ∧
    exec i s = .next (t.retire s.cur s.actor h len srcs dsts vals nx)

/-- An instruction completes by leaving its context, which is then FREE. -/
def leaves (s : State) (i : Instr) : Prop := ∃ t, exec i s = .next t ∧ (t.ctx s.cur s.actor).st = .free

/-- R145, R166 to R176: FSGN and FCLASS complete; with no result to ff outstanding and no trap enabled CVT, CVTN, FADD, FSUB,
FMUL, FMA, FMIN, FMAX and FCMP complete with their latency, whatever flags they raise, and so do FDIV, FSQRT, FRCP, FRSQ,
FEXP2, FLOG2, FSIN, FCOS and FTANH at their turn at the special-function unit, their results of variable latency. -/
def Claim.FloatFormsComplete : Prop :=
  ∀ (s : State) (h : Hdr) (ty src : Ty) (d a b c : Opnd) (rm sop : BitVec 2) (rel : BitVec 3) (q dir : Bool),
    let quiet := s.me.ffPending = false ∧ tenOf s.me.ff = 0
    let mine := s.me.sfuOut = none ∧ s.me.busy = false ∧ (s.core s.cur).sfuTurn s.actor = true
    let lat := some (if ty = .f64 then 3 else 2)
    let one := fun (lat : Option Nat) (i : Instr) => completes s h 8 [a] [(d, lat)] i
    let two := fun (lat : Option Nat) (i : Instr) => completes s h 8 [a, b] [(d, lat)] i
    (s.Ready .any h [a] [d] →
      one (some 1) (.fclass h ty d a) ∧
      (quiet → one (some 2) (.cvt h ty d a rm src)) ∧
      (quiet → mine → one none (.fsqrt h ty d a rm) ∧ one none (.frcp h ty d a rm) ∧ one none (.frsq h ty d a rm) ∧
        one none (.fexp2 h ty d a rm) ∧ one none (.flog2 h ty d a rm) ∧ one none (.fsin h ty d a rm) ∧
        one none (.fcos h ty d a rm) ∧ one none (.ftanh h ty d a rm))) ∧
    (s.Ready .any h [a, b] [d] →
      two (some 1) (.fsgn h ty d a b sop) ∧
      (quiet → two lat (.fadd h ty d a b rm) ∧ two lat (.fsub h ty d a b rm) ∧ two lat (.fmul h ty d a b rm) ∧
        two (some 1) (.fmin h ty d a b) ∧ two (some 1) (.fmax h ty d a b) ∧ two (some 1) (.fcmp h ty d a b rel q)) ∧
      (quiet → narrowOk (s.operand [a] b) = true → two (some 2) (.cvtn h ty d a b rm dir)) ∧
      (quiet → mine → two none (.fdiv h ty d a b rm))) ∧
    (s.Ready .any h [a, b, c] [d] → quiet → completes s h 8 [a, b, c] [(d, lat)] (.fma h ty d a b c rm))

/-- Special functions and conversions. -/
def Obligations.SpecialFunctionsAndConversions : Prop :=
  Claim.ExactPoints ∧ Claim.SpecialFunctions ∧ Claim.Conversions ∧ Claim.FloatFormsComplete

/-- R181, R186, R189 to R194, R204, R226, R227: LD, LDX, LDP, ST, STX, STP and TSTS complete where their access is allowed;
AMO, CAS and AMOF where theirs is, AMOF once no result to ff is outstanding; PREF always, CWB and CINV where their address
translates; GADDR and SADDR on an address that passes its checks; LDSHP and STSHP on a multiple of 64 whose four sectors may
be accessed; SHPSET and SHPGET always. -/
def Claim.AccessFormsComplete : Prop :=
  ∀ (s t : State) (h : Hdr) (ty : Ty) (d a b c : Opnd) (o : BitVec 20) (o13 : BitVec 13) (o16 : BitVec 16) (op : BitVec 3)
    (sh n : BitVec 4) (p : Place),
    let w := tyBytes ty
    let base := fun (addr : Word) (n use : Nat) => s.access s.cur s.actor addr n n use use = (t, .ok p)
    let x := s.operand [] a
    let y := s.operand [a] b
    let late := if d = 0#7 then some 1 else none
    let rec64 := x + o16.signExtend 64 * 64
    (s.Ready .any h [a] [d] →
      (base (x + o.signExtend 64) w 0 → completes s h 8 [a] [(d, none)] (.ld h ty d a o)) ∧
      (base (s.me.pc + x + o.signExtend 64) w 0 → completes s h 8 [a] [(d, none)] (.ldp h ty d a o)) ∧
      (s.tagOk x = true → completes s h 8 [a] [(d, some 1)] (.saddr h d a)) ∧
      (s.tagOk x = true → s.sizeOk s.cur x = true → completes s h 8 [a] [(d, some 1)] (.gaddr h d a))) ∧
    (s.Ready .any h [a, b] [d] →
      (base (x + y * .ofNat 64 w + o13.signExtend 64) w 0 → completes s h 8 [a, b] [(d, none)] (.ldx h ty d a b o13)) ∧
      (base (x &&& ~~~15#64) 16 0 → completes s h 8 [a, b] [(d, some 1)] (.tsts h d a b o13)) ∧
      (base x w 1 → op.toNat ≠ 7 → completes s h 8 [a, b] [(d, late)] (.amo h ty d a b op)) ∧
      (base x w 1 → d = 0#7 ∨ s.me.ffPending = false → completes s h 8 [a, b] [(d, late)] (.amof h ty d a b))) ∧
    (s.Ready .any h [a, b, c] [d] → base x w 1 → completes s h 8 [a, b, c] [(d, late)] (.cas h ty d a b c)) ∧
    (s.Ready .any h [a, b] [] →
      (base (x + o.signExtend 64) w 1 → completes s h 8 [a, b] [] (.st h ty a b o)) ∧
      (base (s.me.pc + x + o.signExtend 64) w 1 → completes s h 8 [a, b] [] (.stp h ty a b o))) ∧
    (s.Ready .any h [a, b, c] [] → base (x + y * .ofNat 64 w + o13.signExtend 64) w 1 →
      completes s h 8 [a, b, c] [] (.stx h ty a b c o13)) ∧
    (s.Ready .any h [a] [] →
      completes s h 8 [a] [] (.pref h a o) ∧
      (s.place s.cur s.actor (x + o.signExtend 64) 1 1 0 0 = (t, .ok p) →
        completes s h 8 [a] [] (.cwb h a o) ∧ completes s h 8 [a] [] (.cinv h a o)) ∧
      completes s h 8 [a] [] (.shpset h a sh n) ∧
      (rec64.toNat % 64 = 0 → fld rec64 60 4 = 0xC → fld rec64 21 39 = 0 → s.posted = [] → (s.core s.cur).wctl = [] →
        s.scrOk (s.partOf s.cur) s.cur (fld rec64 0 21) 64 = true → (s.part (s.partOf s.cur)).scrwin = 0 →
        completes s h 8 [a] [] (.ldshp h a sh o16) ∧ completes s h 8 [a] [] (.stshp h a sh o16))) ∧
    (s.Ready .any h [] [d] → completes s h 8 [] [(d, some 1)] (.shpget h d sh n))

/-- Loads and stores, and their traps. -/
def Obligations.LoadsAndStores : Prop := Claim.Loads ∧ Claim.Stores ∧ Claim.AccessTraps ∧ Claim.AccessFormsComplete

/-- R196 to R203, R210, R219 to R221: SEND completes at its turn with room in its mailbox, there or on a device it may
reach, unless that device answers that it has none (a free value, log entry 104); RECV and WAITM with a message there;
PUTQ with room and pages it may write; SIGSET and SIGADD on a signal, SIGSET with INIT always, and all of them on another
device, whose answer comes later (log entry 103); SIGWAIT where its condition holds, SIGTEST on any signal; QPUSH with
room, QPOP with an entry; QBIND with a role that is free, or to unbind; SPAWN and SPAWNQ with room. A strand that has
waited completes with what has woken it. -/
def Claim.MessageFormsComplete : Prop :=
  ∀ (s t : State) (h : Hdr) (d a b c e g : Opnd) (i20 : BitVec 20) (i19 : BitVec 19) (i18 : BitVec 18) (rel : BitVec 2)
    (qn mode : BitVec 2) (fifo dev : BitVec 4) (pri ef init : Bool) (lenm1 : BitVec 12) (o : BitVec 29) (ty : BitVec 6)
    (p : Place),
    let x := s.operand [] a
    let aim := fld x 0 8
    let dst := fld x 8 4
    let me := s.partOf s.cur
    let q := handleQ x
    let woken := s.me.grant.isSome = true
    let sig := s.objPlace s.cur s.actor x = (t, .ok p)
    let away := t.publishTo s.cur s.actor (keyDev t.ownDev p.key)
    let here := away.isForeign p = false
    let known := ((away.reachObj s.cur s.actor p).obj p.key).kind = 1
    let o1 := ((t.reachObj s.cur s.actor p).obj p.key)
    let pub := s.publish s.cur s.actor
    (s.Ready .any h [a, b] [] →
      (∀ u, (u = if ef then s.publishTo s.cur s.actor dst else s) → x.toNat < 4096 → aim < 192 → u.ownDev = s.ownDev →
        (dst = s.ownDev → s.inPart me aim = true → (s.core s.cur).offerTurn s.actor aim pri = true →
          u.mailRoom (u.home me aim) pri = true → completes s h 8 [a, b] [] (.send h a b pri ef)) ∧
        (dst ≠ s.ownDev → s.otherDev dst = true → ((s.part me).fgrant.get 0 dst).getLsbD 31 = true →
          (s.core s.cur).offerTurn s.actor (256 * (dst + 1) + aim) pri = true →
          Config.farAnswer u.free % 2 = 1 ∨ completes s h 8 [a, b] [] (.send h a b pri ef))) ∧
      (sig → here → init = true ∨ known → completes s h 8 [a, b] [] (.sigset h a b i19 init)) ∧
      (sig → here → known → completes s h 8 [a, b] [] (.sigadd h a b i20)) ∧
      (sig → ¬here → completes s h 8 [a, b] [] (.sigset h a b i19 init) ∧ completes s h 8 [a, b] [] (.sigadd h a b i20)) ∧
      (woken ∨ (sig ∧ o1.kind = 1 ∧ relHolds rel.toNat o1.value (s.operand [a] b + i18.signExtend 64) = true) →
        completes s h 8 [a, b] [] (.sigwait h a b i18 rel)) ∧
      (s.valueQ x = true → ((if ef then pub else s).hwq q).isFull = false → completes s h 8 [a, b] [] (.qpush h a b ef))) ∧
    (s.Ready .any h [a, b] [d] → sig → o1.kind = 1 → completes s h 8 [a, b] [(d, none)] (.sigtest h d a b i18 rel)) ∧
    (s.Ready .any h [] [d] →
      (woken ∨ (s.core s.cur).mail pri ≠ [] → completes s h 8 [] [(d, none)] (.recv h d pri)) ∧
      (woken ∨ (s.core s.cur).mail true ≠ [] ∨ (s.core s.cur).mail false ≠ [] →
        completes s h 8 [] [(d, none)] (.waitm h d))) ∧
    (s.Ready .any h [a] [d] → woken ∨ (s.valueQ x = true ∧ (s.hwq q).canPop = true) →
      completes s h 8 [a] [(d, none)] (.qpop h d a)) ∧
    (s.Ready .any h [] [] → mode = 0 ∨ (s.core s.cur).roleHeld s.actor qn.toNat fifo.toNat mode.toNat = false →
      completes s h 8 [] [] (.qbind h qn fifo mode)) ∧
    (s.Ready .any h [a, b, c, e] [] → x.toNat < 2 ^ 52 →
      ∀ bs, s.readRange s.cur s.actor (s.operand [a, b] c) (lenm1.toNat + 1) 0 = (t, .ok bs) →
      let hnd := s.operand [a] b
      let t1 := if ef then t.publish s.cur s.actor else t
      dev.toNat = s.ownDev → t.queueOk me hnd = true → (t.hwq (handleQ hnd)).spawn = false →
      (t1.hwq (handleQ hnd)).isFull = false →
      (t1.putPages s.cur s.actor (t1.ownerOf me (handleQ hnd)) (pagesOf x.toNat (lenm1.toNat + 1)) bs).2 = none →
      completes s h 12 [a, b, c, e] [] (.putq h a b c e lenm1 ef dev)) ∧
    (s.Ready .any h [a, b, c, e, g] [] → s.typeOk s.cur ty = true →
      let n := s.operand [a, b, c, e] g
      (n.toNat < 192 → s.inPart me n.toNat = true → (pub.core n.toNat).direct.length < 48 →
        completes s h 12 [a, b, c, e, g] [] (.spawn h g a b c e o ty)) ∧
      (s.queueOk me n = true → (s.hwq (handleQ n)).spawn = true → (pub.hwq (handleQ n)).isFull = false →
        completes s h 12 [a, b, c, e, g] [] (.spawnq h g a b c e o ty)))

/-- Messages: sending, receiving, names and arrival. -/
def Obligations.MessageForms : Prop :=
  Claim.Sends ∧ Claim.Messages ∧ Claim.MailboxNames ∧ Claim.MessageArrival ∧ Claim.MessageFormsComplete

/-- R211 to R218: JINIT completes on a cell that records no waiter; AWAIT with no jc, with a count of 0, or once woken; QUIT,
FORKR, MIGRATE and a yield-mode AWAIT leave their context, MIGRATE staying where there is nowhere to go; DQINIT, DQPUSH, DQPOP
and DQSTEAL complete on a deque they may use, and DETACH with room in its deque and a frame at hand. -/
def Claim.StrandFormsComplete : Prop :=
  ∀ (s t u : State) (h : Hdr) (d a b c : Opnd) (i20 : BitVec 20) (o : BitVec 29) (ty : BitVec 6) (lvl : BitVec 3)
    (cls : BitVec 2) (n : BitVec 4) (p : Place) (f aim : Nat) (sp : Space),
    let me := s.partOf s.cur
    let x := s.operand [] a
    let jcAt := s.objPlace s.cur s.actor s.me.jc = (t, .ok p)
    let r := t.reachObj s.cur s.actor p
    let o1 := r.obj p.key
    let cell := s.me.jc ≠ 0 ∧ jcAt ∧ o1.kind = 0 ∧ o1.cont = false
    let here := r.cur = s.cur ∧ r.actor = s.actor
    let w := t.drain s.cur p.hm p.key
    let dq := w.dequeAt p.key
    let deque := s.place s.cur s.actor x 64 64 1 1 = (t, .ok p) ∧ 1 ≤ dq.cap ∧ dq.cap ≤ 12 ∧
      w.decodeAddr s.cur s.actor x dq.size true = .ok sp
    let mine := deque ∧ s.dequeTag x true = true ∧ dq.owner = sidOf s.cur s.actor
    let plain := fun (i : Nat) => w.loadN (dq.slot i) 8 % 2 = 0
    (s.Ready .any h [a, b] [] → s.objPlace s.cur s.actor x = (t, .ok p) → o1.cont = false →
      completes s h 8 [a, b] [] (.jinit h a b i20)) ∧
    (s.Ready .any h [a] [] → (s.me.grant.isSome = true ∨ s.me.jc = 0 ∨ (cell ∧ o1.value = 0)) →
      completes s h 8 [a] [] (.await h a false)) ∧
    (s.Ready .user h [] [] → s.anyOut s.cur s.actor = false →
      let v := (s.gather s.cur s.actor).publish s.cur s.actor
      v.cur = s.cur → v.actor = s.actor → (v.ctx s.cur s.actor).jc = 0 → leaves s (.quit h)) ∧
    (s.Ready .user h [a] [] → s.holdsLock s.cur s.actor = false →
      (s.me.grant = none → s.me.jc = 0 → completes s h 8 [a] [] (.await h a true)) ∧
      (cell → here → s.me.grant = none → s.me.reserved = none → o1.value ≠ 0 → bit (r.part (r.partOf s.cur)).frameq 31 = true →
        let v := (r.setObj (r.partOf s.cur) p.hm p.key { o1 with cont := true, link := 0 } (byStrand s.cur s.actor)).onMe
          fun k => { k with reserved := some (p.key, p.hm) }
        v.anyOut s.cur s.actor = false → v.popFrame (v.partOf s.cur) = .got u f → leaves s (.await h a true))) ∧
    (s.Ready .user h [a, b, c] [] → s.typeOk s.cur ty = true → x ≠ 0 → s.operand [a] b ≠ 0 → cell → here →
      s.holdsLock s.cur s.actor = false → r.anyOut s.cur s.actor = false → r.popFrame (r.partOf s.cur) = .got u f →
      leaves s (.forkr h a b c o ty lvl)) ∧
    (s.Ready .user h [] [d] → s.holdsLock s.cur s.actor = false →
      (s.classOf s.cur = cls.toNat ∨ s.migrateTo s.cur cls.toNat = none →
        completes s h 8 [] [(d, some 1)] (.migrate h d cls)) ∧
      (s.classOf s.cur ≠ cls.toNat → s.migrateTo s.cur cls.toNat = some aim → s.anyOut s.cur s.actor = false →
        s.popFrame me = .got u f → leaves s (.migrate h d cls))) ∧
    (s.Ready .any h [a] [] → 1 ≤ n.toNat → n.toNat ≤ 12 → s.dequeTag x true = true →
      s.place s.cur s.actor x (64 + 8 * 2 ^ n.toNat) 64 1 1 = (t, .ok p) → completes s h 8 [a] [] (.dqinit h a n)) ∧
    (s.Ready .any h [a, b] [d] → s.operand [a] b ≠ 0 → (s.operand [a] b).getLsbD 0 = false → mine →
      completes s h 8 [a, b] [(d, some 1)] (.dqpush h d a b)) ∧
    (s.Ready .any h [a] [d] → mine → dq.isEmpty = true ∨ plain ((dq.bot + (2 ^ 64 - 1)) % 2 ^ 64) →
      completes s h 8 [a] [(d, none)] (.dqpop h d a)) ∧
    (s.Ready .any h [a] [d] → deque → s.dequeTag x false = true → completes s h 8 [a] [(d, none)] (.dqsteal h d a)) ∧
    (s.Ready .user h [a] [] → mine → w.holdsLock s.cur s.actor = false → dq.isFull = false →
      w.popFrame (w.partOf s.cur) = .got u f → completes s h 8 [a] [] (.detach h a i20))

/-- QUIT, MIGRATE and DETACH. -/
def Obligations.LeavingStrands : Prop :=
  Claim.QuitFrees ∧ Claim.MigrateForms ∧ Claim.Detach ∧ Claim.StrandFormsComplete

/-- An operation that runs in its strand completes: its issue leaves it with nothing but its completion event to come, which
takes the strand past the instruction's bytes. -/
def runsToEnd (s : State) (len : Nat) (done : Instr) (i : Instr) : Prop :=
  ∃ t u, exec i s = .next t ∧ exec done t = .next u ∧ (u.ctx s.cur s.actor).fin = none ∧
    (u.ctx s.cur s.actor).pc = s.me.pc + .ofNat 64 len

/-- A tensor form of an operation completes: without a status word, its checks passed, its turn at the special-function unit
come where it needs one, and its elements all run in one chunk without a fault. -/
def tensorEnds (s : State) (h : Hdr) (o : TOp) (i : Instr) : Prop :=
  let e := o.env s s.cur s.actor (match o.xb, o.xc with
    | none, none => []
    | some b, none => [s.operand [] b]
    | none, some g => [s.operand [] g]
    | some b, some g => [s.operand [] b, s.operand [b] g])
  let s1 := if o.onSfu then s.onCore s.cur (·.sfuTake s.actor none) else s
  let r := runChunk o e ⟨s1.settle s.cur, s.me.ri, s.me.status, s.me.total⟩
  s.Ready .any h o.srcs [] → s.tCheck o e = none → o.onSfu = false ∨ (s.core s.cur).sfuTurn s.actor = true →
    e.d.stat = 0 → r.2 = none → o.count e ≤ r.1.ri → runsToEnd s 16 (.tensorCompletion s.cur s.actor) i

/-- R224, R230 to R232: TADD, TSUB, TMUL, TFMA, TMIN, TMAX, TABS, TNEG, TAND, TOR, TXOR, TSHL, TSHR, TCVT, TSPLIT3, TRED,
TCMP, TSEL, TGATH, TSCAT, TFILL, TCOPY and TSFU complete so. -/
def Claim.TensorFormsComplete : Prop :=
  ∀ (s : State) (h : Hdr) (xa xb : Opnd) (sd s1 s2 s3 : BitVec 4) (bsc csc : Bool) (ty : Ty) (rm : BitVec 2) (sat ar : Bool)
    (op : BitVec 2) (rel : BitVec 3) (q : Bool) (fn : BitVec 4),
    let ab := fun (n : Nat) (sat ar : Bool) => tAB n xa sd s1 s2 bsc ty rm sat ar
    let ends := tensorEnds s h
    ends (ab 0 sat false) (.tadd h xa sd s1 s2 bsc ty rm sat) ∧ ends (ab 1 sat false) (.tsub h xa sd s1 s2 bsc ty rm sat) ∧
    ends (ab 2 sat false) (.tmul h xa sd s1 s2 bsc ty rm sat) ∧
    ends (tFma xa xb sd s1 s2 s3 bsc csc ty rm) (.tfma h xa xb sd s1 s2 s3 bsc csc ty rm) ∧
    ends (ab 4 false false) (.tmin h xa sd s1 s2 bsc ty rm) ∧ ends (ab 5 false false) (.tmax h xa sd s1 s2 bsc ty rm) ∧
    ends (tA (.lanes 6 ty rm.toNat sat false) sd s1) (.tabs h sd s1 ty rm sat) ∧
    ends (tA (.lanes 7 ty rm.toNat sat false) sd s1) (.tneg h sd s1 ty rm sat) ∧
    ends (ab 8 false false) (.tand h xa sd s1 s2 bsc ty rm) ∧ ends (ab 9 false false) (.tor h xa sd s1 s2 bsc ty rm) ∧
    ends (ab 10 false false) (.txor h xa sd s1 s2 bsc ty rm) ∧ ends (ab 11 false false) (.tshl h xa sd s1 s2 bsc ty rm) ∧
    ends (ab 12 false ar) (.tshr h xa sd s1 s2 bsc ty rm ar) ∧ ends (tA (.cvt rm.toNat) sd s1) (.tcvt h sd s1 rm) ∧
    ends (tABC .split sd s1 s2 s3) (.tsplit3 h sd s1 s2 s3) ∧ ends (tA (.red op.toNat ty rm.toNat) sd s1) (.tred h sd s1 ty rm op) ∧
    ends (tKB (.cmp ty rel.toNat q rm.toNat) xa sd s1 s2 bsc) (.tcmp h xa sd s1 s2 bsc ty rm rel q) ∧
    ends (tABC .sel sd s1 s2 s3) (.tsel h sd s1 s2 s3) ∧ ends (tKB .gath 0 sd s1 s2 false) (.tgath h sd s1 s2) ∧
    ends (tKB .scat 0 sd s1 s2 false) (.tscat h sd s1 s2) ∧ ends (tFill xa sd) (.tfill h xa sd) ∧
    ends (tA .copy sd s1) (.tcopy h sd s1) ∧ ends (tSfu xa sd s1 s2 bsc ty rm fn) (.tsfu h xa sd s1 s2 bsc ty rm fn)

/-- Shape records and the elements of tensor operations. -/
def Obligations.TensorForms : Prop :=
  Claim.ShapeRecords ∧ Claim.TensorRuns ∧ Claim.TensorElements ∧ Claim.TensorCompare ∧ Claim.TensorSplit ∧
  Claim.TensorIndexing ∧ Claim.TensorFormsComplete

/-- R244 to R248, R251, R253: with their engine claimed and free MMZ and MMGANG of the issuer's own core complete, and MMLDB,
MMA and MMST, which pass their checks, when their last row or elements run without a fault, MMST without a status word. -/
def Claim.MatrixFormsComplete : Prop :=
  ∀ (s s1 : State) (h : Hdr) (n : BitVec 4) (rm : BitVec 2) (arow acol : BitVec 8) (rl : Bool),
    let c := s.cur
    let x := s.actor
    let ms := s1.members c
    let sh := shapeOf (s1.me.shape n)
    let ends := fun (len : Nat) (i : Instr) => runsToEnd s len (.matrixCompletion c x) i
    let rows := fun (o : MOp) (i : Instr) =>
      let r := ((s1.settle c).setRun c (some (sidOf c x))).mChunk ms x o sh s1.me.pc s1.me.ri s1.me.status
      s1.mCheck ms x o sh = none → s1.mReady ms x o sh = true → r.2 = none → o.count sh ≤ r.1.ri → ends 16 i
    s.Ready .any h [] [] → s.Engine s1 → s1.cur = c → s1.actor = x → (s1.ctx c x).pc = s.me.pc →
      ends 8 (.mmz h rl) ∧
      ((s1.mx c).gang = 1 → s.inPart (s.partOf c) c = true → ends 8 (.mmgang h 0)) ∧
      rows .ldb (.mmldb h n) ∧ rows (.mma arow.toNat) (.mma h n arow) ∧
      (sh.stat = 0 → rows (.st rm.toNat arow.toNat acol.toNat) (.mmst h n rm arow acol))

/-- Matrix loads and products. -/
def Obligations.MatrixWork : Prop :=
  Claim.MatrixRuns ∧ Claim.MatrixLoad ∧ Claim.MatrixProduct ∧ Claim.MatrixFloatProduct ∧ Claim.MatrixFormsComplete

/-- R255 to R259, R263, R265, R267, R268, R279, R283, R290, R293 to R297, R301, R304: CPY, CPYRED and CPYMM complete when
their checks pass and a slot is free at their turn; DGN with a free summary slot, DGDEC on a live node whose graph unit
can take it, ENGFORK with a good script and an idle sequencer, ENGREND with nothing outstanding; RFSTART with the
controller idle and a good block, RFSTAT always where its block may be reached; TRIBIN when its messages are accepted,
RAST with its last tile done, whether or not it has gone on before (R295), PXLOCK once granted, PXREL of a lock it holds,
EMIT once its handover has reached the engine, and EMSTAT of a bound surface. -/
def Claim.EngineFormsComplete : Prop :=
  ∀ (s s1 : State) (h : Hdr) (d a b e : Opnd) (sd sa sm surf nattr : BitVec 4) (act : BitVec 3) (count : BitVec 10) (off : Nat)
    (pri zw ilk hold : Bool) (rop mop cull sel : BitVec 2) (arow : BitVec 8) (zf : BitVec 3) (qcap : BitVec 16) (p : Place),
    let c := s.cur
    let x := s.actor
    let k := s.me
    let u := s.settle c
    let y := s.operand [] a
    let srcs := actSrcs act.toNat a b
    let q := fun (form : Nat) (m : BitVec 512) (mop arow rop : Nat) => newCopy form (k.shape sd) (k.shape sa) m mop arow rop
      act.toNat pri (if act = 0 then 0 else y) (if act = 0 ∨ act = 3 then 0 else s.operand [a] b) x (s.partOf c) k.as k.pc
      k.summ none
    let room := fun (t : State) => ((t.core c).freeSlot).isSome = true ∧ t.copyTurn c x = true
    (s.Ready .any h srcs [] →
      (s.copyBad c (q 0 (k.shape 0) 0 0 0) = none → room s → completes s h 16 srcs [] (.cpy h a b sd sa act pri)) ∧
      (s.copyBad c (q 1 (k.shape 0) 0 0 rop.toNat) = none → room s →
        completes s h 16 srcs [] (.cpyred h a b sd sa act pri rop)) ∧
      (s.copyBad c (q 2 (k.shape sm) mop.toNat arow.toNat 0) = none → s.claim c (sidOf c x) (s.partOf c) = some s1 →
        ¬(mop = 1 ∧ 1 < (s1.mx c).gang) → room s1 → completes s h 16 srcs [] (.cpymm h a b sd sa sm act pri mop arow))) ∧
    (s.Ready .any h [a, b, e] [] → s.ownAddr c x (s.partOf c) y 32 32 = .ok off → act.toNat < 6 →
      let v := s.drainOwn (scrKey c off)
      v.nodeLive c off = false → ((v.core c).freeSumm).isSome = true → (v.ctx c x).pc = k.pc →
      completes s h 8 [a, b, e] [] (.dgn h a b e act count)) ∧
    (s.Ready .any h [a] [] →
      (∀ core off, s.nodePlace c x (s.partOf c) y = some (core, off) →
        let v := (s.publish c x).drain c false (scrKey core off)
        v.nodeLive core off = true → (v.core core).graphBlocked = false → completes s h 8 [a] [] (.dgdec h a)) ∧
      (s.blockPlace y 1 = (s1, .ok p) → (s1.slice (sliceOf c)).rf.phase = 0 →
        (s1.publish c x).blockBad c x ((s1.publish c x).bytes p.key 256) = false → completes s h 16 [a] [] (.rfstart h a))) ∧
    (s.Ready .any h [] [] → s.engOut c x = false → completes s h 8 [] [] (.engrend h false)) ∧
    (s.Ready .any h [a] [d] → s.blockPlace y 0 = (s1, .ok p) → completes s h 16 [a] [(d, none)] (.rfstat h d a)) ∧
    (s.Ready .any h [a, b] [] → u.cur = c → u.actor = x →
      (u.scriptAt c x (u.partOf c) y = .ok off → ((u.core c).freeSeqr).isSome = true →
        (s.operand [a] b = 0 ∨ (u.nodeTarget c x (u.partOf c) (s.operand [a] b)).isSome = true) →
        completes s h 8 [a, b] [] (.engfork h a b)) ∧
      (u.me.ri ≠ 0 → (∀ m ∈ (u.core c).primOut, m.1 ≠ u.me.ri) → completes s h 16 [a, b] [] (.tribin h a b surf nattr cull)) ∧
      (k.grant.isSome = true → completes s h 16 [a, b] [] (.pxlock h a b)) ∧
      (∀ o quad, s.quadAt (s.partOf c) y = some (o, quad) →
        ((s.core o).locks.any fun l => l.quad == quad && l.seq == fld (s.operand [a] b) 0 32 && l.holder == some (sidOf c x)) =
          true → completes s h 16 [a, b] [] (.pxrel h a b))) ∧
    (s.Ready .any h [a] [] → u.cur = c → u.actor = x → ∀ desc map pr,
      (u.me.rastGoes = some (desc, map) ∨
        (u.me.rastGoes = none ∧ fld y 60 4 = 0xC ∧ y.toNat % 64 = 0 ∧ qcap ≠ 0 ∧
          (∃ v, u.surfAt (u.partOf c) surf.toNat = some v ∧ v.desc = desc ∧ v.map = map) ∧
          (sdDepth desc = true ∨ (zf = 7 ∧ zw = false)) ∧
          (∃ key, u.scrAt c x y (64 + 144 + 8 * qcap.toNat) = .ok key) ∧ u.me.status ≠ 0)) →
      (u.core c).prims.find? (mine u.me.status) = some pr →
      let per := sdTW desc * sdTH desc / 4
      nextTile desc map c pr.edges (reserved desc map c - pr.done / per) (pr.done / per) = none →
      completes s h 16 [a] [] (.rast h a surf zf zw ilk qcap)) ∧
    (s.Ready .any h [a, b] [d] → k.grant.isSome = true → completes s h 8 [a, b] [(d, some 1)] (.emit h d a b hold)) ∧
    (s.Ready .any h [a] [d] → (s.surfAt (s.partOf c) (fld y 0 4)).isSome = true →
      completes s h 8 [a] [(d, none)] (.emstat h d a sel))

/-- Copies: acceptance, elements and units. -/
def Obligations.CopyStarts : Prop :=
  Claim.CopyAccepted ∧ Claim.CopyElement ∧ Claim.CopyUnit ∧ Claim.EngineFormsComplete

/-- R326, R331, R336, R344, R346 to R355, R377: in context 0 TRET, TREN and STOP complete; MFS and MTS of a listed
register, MTS with its reserved bits zero and, to FWDREC, firmware up; WAITE with a record at hand, or in its polling
form; TLBINV, a page's address in range; CTXRD and CTXWR of a listed selector of a stopped or trapped context; CTXSTART
and CTXREAP of a user context that is not FREE; CTXSAVE of one that is neither FREE nor STOPPED and has not just been
woken at a queue register, CTXLOAD of an image the core holds, and CTXSTAT. -/
def Claim.SupervisorFormsComplete : Prop :=
  ∀ (s : State) (h : Hdr) (d a b : Opnd) (n sel : BitVec 12) (poll close free : Bool) (mode kind : BitVec 2) (as : BitVec 4)
    (key : Nat),
    let c := s.cur
    let y := s.operand [] a
    let x := y.toNat
    let i := (x + n.toNat) % 4096
    let user := 0 < x ∧ x < 16
    let opened := user ∧ ((s.ctx c x).st = .stopped ∨ (s.ctx c x).st = .trapped)
    (s.Ready .sup h [0x46#7] [] → completes s h 8 [0x46#7] [] (.tret h)) ∧
    (s.Ready .sup h [] [] → completes s h 8 [] [] (.tren h close) ∧ completes s h 8 [] [] (.stop h mode)) ∧
    (s.Ready .sup h [a] [d] →
      (sysListed i = true → completes s h 8 [a] [(d, none)] (.mfs h d a n)) ∧
      (s.bufferAt y 32 32 1 = .ok key → poll = true ∨ (s.core c).trapq ≠ [] →
        completes s h 8 [a] [(d, none)] (.waite h d a poll)) ∧
      (opened → ((s.landAll c x).ctxSel c x sel.toNat).isSome = true → completes s h 8 [a] [(d, none)] (.ctxrd h d a sel)) ∧
      (x < 16 → completes s h 8 [a] [(d, none)] (.ctxstat h d a))) ∧
    (s.Ready .sup h [a] [] →
      (kind ≠ 0 ∨ x < 2 ^ 52 → completes s h 8 [a] [] (.tlbinv h a kind as)) ∧
      (user → (s.ctx c x).st ≠ .free → completes s h 8 [a] [] (.ctxstart h a) ∧ completes s h 8 [a] [] (.ctxreap h a))) ∧
    (s.Ready .sup h [a, b] [] →
      (sysListed i = true → i < 0x50 ∨ 0x60 ≤ i → (i = 0x018 → s.dev.fwUp = true) → i = 0x010 ∨ i = 0x011 ∨ s.operand [a] b &&& ~~~sysBits i = 0 →
        (s.sysWrite c (s.partOf c) i (s.operand [a] b)).isSome = true → completes s h 8 [a, b] [] (.mts h a b n)) ∧
      (opened → ((s.landAll c x).ctxPut c x sel.toNat (s.operand [a] b)).isSome = true →
        completes s h 8 [a, b] [] (.ctxwr h a b sel))) ∧
    (s.Ready .sup h [a, b] [d] → user →
      (s.bufferAt (s.operand [a] b) 256 2048 1 = .ok key → (s.ctx c x).st ≠ .free → (s.ctx c x).st ≠ .stopped →
        s.queueWoken c x = false → completes s h 8 [a, b] [(d, none)] (.ctxsave h d a b free)) ∧
      (s.bufferAt (s.operand [a] b) 256 2048 0 = .ok key →
        (((s.drainOwn key).core c).held.any fun m => m.addr == key &&
          (frameWord ((s.drainOwn key).bytes key 2048) 78).toNat % 2 ^ 41 ==
            frameField m.fbase m.fsize + c * 2 ^ 32 + 2 ^ 40) = true →
        completes s h 8 [a, b] [(d, none)] (.ctxload h d a b)))

/-- TLBINV, CTXRD and CTXWR. -/
def Obligations.TranslationAndContexts : Prop :=
  Claim.TlbInvalidate ∧ Claim.ContextAccess ∧ Claim.SupervisorFormsComplete

/-! ### Fetching, decoding and stepping -/

/-- The state at a slot's tests: the special-function unit has ended what it serves, the acting context's ready results have
landed, and a stall turn of the context whose slot it is has passed (R19, R144, R147, R175). -/
def Sys2Proof.Machine.State.landed1 (s : State) : State :=
  ((s.sfuEnd s.cur).landFixed s.cur s.actor ((s.sfuEnd s.cur).core s.cur).turn).stallTurn s.cur
    ((s.sfuEnd s.cur).core s.cur).owner

/-- What stands before an issue is clear: the machine has power, no event is due, and the core's clock has its edge; the
acting context is ready, not stalled, has no entry due, and runs no instruction that goes on by itself; and no trap is due
to it, unless its instruction completes first. `t` is the state after its ready results have landed, and a stall turn of the
slot's context has passed. -/
structure MayIssue (s t : State) : Prop where
  power  : s.powered = true
  quiet  : s.dueNow = []
  awake  : s.idle.getLsbD s.cur = false
  landed : s.landed1 = t
  entry  : s.actor = 0 → (t.core s.cur).halted = false → t.tryEntry s.cur = none
  holds  : t.holds s.cur s.actor = false
  stall  : ((s.sfuEnd s.cur).ctx s.cur s.actor).stall = 0
  fresh  : t.heldBy s.cur s.actor = none
  traps  : (t.ctx s.cur s.actor).going = true ∨ ((t.ctx s.cur s.actor).etraps = [] ∧ (t.ctx s.cur s.actor).rtrap = none)

/-- R19, R20, R133, R143: where the bytes at the pc decode to an instruction within their 32-byte block, a step runs exactly
it: the step answers what the instruction's meaning does, the strand keeps the instruction and the sources it has read if
it goes on by itself or waits (R140, R147, R231, R253), then the slot passes (the core's cycle, and the turn of the next
core). With it the read of the load before it has been performed, unless the instruction waits for a result (R107; log entry
102). An instruction that is kept goes on at the strand's next turn without being fetched again. -/
def Claim.StepRunsDecoded : Prop :=
  ∀ (s t : State) (i : Instr),
    let runs := fun (u : State) => step s = match exec i u with
      | .next v => .next (v.keepRunning u i).tick
      | .fault e => .fault e
      | .refused e => .refused e
    let begun := fun (u : State) =>
      let k := u.ctx s.cur s.actor
      if k.reading.isSome && !k.awaits i then u.onCtx s.cur s.actor fun k => { k with reading := none } else u
    (∀ (t1 t2 t3 : State) (hm : Bool) (key b w : Nat), MayIssue s t → t.cur = s.cur → t.actor = s.actor →
      t.me.pc.toNat % 4 = 0 → t.me.pc.toNat % 32 ≠ 28 → t.fetchAt s.cur s.actor t.me.pc = (t1, .ok (hm, key)) →
      t1.icacheLoad s.cur hm key 1 = (t2, b) → b % 4 ≠ 3 → t.me.pc.toNat % 32 + (8 + 4 * (b % 4)) ≤ 32 →
      t2.icacheLoad s.cur hm key (8 + 4 * (b % 4)) = (t3, w) → decode w = .ok i → runs (begun t3)) ∧
    (s.powered = true → s.dueNow = [] → s.idle.getLsbD s.cur = false → s.landed1 = t →
      (s.actor = 0 → (t.core s.cur).halted = false → t.tryEntry s.cur = none) → t.holds s.cur s.actor = false →
      ((s.sfuEnd s.cur).ctx s.cur s.actor).stall = 0 → t.heldBy s.cur s.actor = some i → runs (begun t))

/-- R134, R142, R177: a fetch from an address that is no multiple of 4, of an instruction that runs past its 32-byte block,
or of bits that are no instruction, traps as illegal-instruction; a fetch whose translation fails takes that trap. -/
def Claim.FetchTraps : Prop :=
  ∀ (s t : State), MayIssue s t → t.cur = s.cur → t.actor = s.actor →
    (∀ t1 e, t.fetchAt s.cur s.actor t.me.pc = (t1, .error e) →
      step s = .next ((t1.takeTrap s.cur s.actor e.1 e.2.1 e.2.2).unforce s).tick) ∧
    (∀ t1 hm key, t.fetchAt s.cur s.actor t.me.pc = (t1, .ok (hm, key)) →
      (t.me.pc.toNat % 4 ≠ 0 → step s = .next ((t1.takeTrap s.cur s.actor 1 0 0).unforce s).tick) ∧
      (∀ t2 b, t.me.pc.toNat % 4 = 0 → t.me.pc.toNat % 32 ≠ 28 → t1.icacheLoad s.cur hm key 1 = (t2, b) →
        (b % 4 = 3 ∨ 32 < t.me.pc.toNat % 32 + (8 + 4 * (b % 4)) →
          step s = .next ((t2.takeTrap s.cur s.actor 1 0 0).unforce s).tick) ∧
        (b % 4 ≠ 3 → t.me.pc.toNat % 32 + (8 + 4 * (b % 4)) ≤ 32 →
          ∀ t3 w r, t2.icacheLoad s.cur hm key (8 + 4 * (b % 4)) = (t3, w) → decode w = .error r →
          step s = .next ((t3.takeTrap s.cur s.actor 1 0 0).unforce s).tick)))

/-- R10, R19, R20, R144: a step with no event due is one slot of one core: the core's cycle number rises by one and the
next core's slot comes, and after core 191 a new round, with a mesh cycle if the mesh's clock has its edge (log entry 2);
a context that may not issue, or has stall turns left, leaves a bubble, and each slot of a context uses up one of its
stall turns, whatever else holds it; a core whose clock makes no edge in the round has no slot. A slot in which a CTXSAVE
lets a context complete its instruction (R352) is over with it. -/
def Claim.Slots1 : Prop :=
  ∀ (s : State), s.powered = true → s.dueNow = [] →
    let t := s.landed1
    let s0 := s.sfuEnd s.cur
    let o := (s0.core s.cur).owner
    (s.idle.getLsbD s.cur = true → step s = .next s.tick ∧ s.tick.cores = s.cores) ∧
    (s.idle.getLsbD s.cur = false →
      (s.actor ≠ 0 → t.holds s.cur s.actor = true → step s = .next (t.unforce s).tick) ∧
      (s.actor ≠ 0 → t.holds s.cur s.actor = false → (s0.ctx s.cur s.actor).stall ≠ 0 → step s = .next (t.unforce s).tick) ∧
      (t.ctx s.cur o).stall = (s0.ctx s.cur o).stall - 1 ∧
      (s.tick.core s.cur).cycle = (s.core s.cur).cycle + 1 ∧ (∀ c, c ≠ s.cur → s.tick.core c = s.core c)) ∧
    (s.cur ≠ 191 → s.tick.cur = s.cur + 1 ∧ s.tick.mesh = s.mesh) ∧
    (s.cur = 191 → s.tick.cur = 0 ∧ s.tick.mesh = if s.idle.getLsbD 192 = true then s.mesh else s.mesh + 1)

/-- R298: an event of the emission engine runs at the very mesh cycle it is due, before anything else. A step with other
events due runs one of them, or the slot; which, no statement says (log entry 2). Without power and with no event due the
machine stands still. -/
def Claim.EventsRun : Prop :=
  ∀ (s : State),
    (∀ k, s.firstTimed = some k → ∃ e, s.agenda[k]? = some e ∧ e.due ≤ s.mesh ∧ timed e.ev = true ∧
      step s = exec e.ev { s with agenda := s.agenda.eraseIdx k }) ∧
    (s.firstTimed = none → s.dueNow ≠ [] →
      (∃ k e, s.agenda[k]? = some e ∧ e.due ≤ s.mesh ∧ timed e.ev = false ∧
        step s = exec e.ev { s with free := s.free + 1, agenda := s.agenda.eraseIdx k }) ∨
      (s.powered = true ∧ step s = runSlot { s with free := s.free + 1 })) ∧
    (s.dueNow = [] → s.powered = false → step s = .fault .poweredOff) ∧
    (s.dueNow = [] → s.powered = true → step s = runSlot s)

/-- A step runs the decoded instruction, an event, or leaves a bubble. -/
def Obligations.StepRunsDecoded : Prop := Claim.StepRunsDecoded ∧ Claim.FetchTraps ∧ Claim.Slots1 ∧ Claim.EventsRun

/-- R133 to R139, R141: the words below, written out from the encoding tables, decode to the instructions they stand for. -/
def Claim.DecodingRight : Prop :=
  let h0 : Hdr := ⟨0, 0, false⟩
  -- MAJ 0x00 MIN 0x00, and its all-zero word (R134)
  decodeTableWord 64 0 = some (.nop h0) ∧
  -- add.i64 g5, g1, g2: MAJ 0x01 at [7:2], DST at [21:15], SA at [28:22], SB at [35:29], TY and OP 0
  decodeTableWord 64 (0x01 * 2 ^ 2 + 5 * 2 ^ 15 + 1 * 2 ^ 22 + 2 * 2 ^ 29) = some (.add h0 .i64 5 1 2) ∧
  -- the worked line ?!c3 fadd.bf16.w1 g9, g9, g8 (R149): WAIT 1, GC 3, GN 1, TY 0xB at [39:36], OP 0
  decodeTableWord 64 (0x08 * 2 ^ 2 + 1 * 2 ^ 8 + 3 * 2 ^ 11 + 1 * 2 ^ 14 + 9 * 2 ^ 15 + 9 * 2 ^ 22 + 8 * 2 ^ 29 +
    0xB * 2 ^ 36) = some (.fadd ⟨1, 3, true⟩ .bf16 9 9 8 0) ∧
  -- rfstart [g2] and rfstat g6, [g5], the worked words of R278
  decodeTableWord 128 0x008000CE = some (.rfstart h0 2) ∧ decodeTableWord 128 0x10014300CE = some (.rfstat h0 6 5) ∧
  -- LEN = 3, an absent major, an absent minor, a reserved TY, a negated c0 guard, and a field not used
  (∀ w, w % 4 = 3 → decode w = .error .lenThree) ∧
  decode (0x0B * 2 ^ 2) = .error .noForm ∧ decode (0x20 * 2 ^ 36) = .error .noForm ∧
  decode (0x01 * 2 ^ 2 + 0xD * 2 ^ 36) = .error .noForm ∧ decode (1 * 2 ^ 14) = .error .badField ∧
  decode (1 * 2 ^ 15) = .error .reserved

/-- R133 to R142: every well-formed form decodes from its encoding, with every operand at every value; and a word that
decodes is the encoding of the instruction it decodes to, which is a well-formed form: no word has two meanings, and no bit
is ignored. -/
def Claim.DecodeEncode : Prop :=
  (∀ i : Instr, i.isForm = true → i.wf = true → decode i.encode = .ok i) ∧
  (∀ w i, decode w = .ok i → i.encode = w ∧ i.isForm = true ∧ i.wf = true) ∧
  (∀ i j : Instr, i.isForm = true → i.wf = true → j.isForm = true → j.wf = true → i.encode = j.encode → i = j)

/-- Decoding and encoding agree on every form. -/
def Obligations.DecodeEncodeAgree : Prop := Claim.DecodeEncode

/-! ### The state after reset, and memory's form -/

/-- R4, R19, R330, R364, R381, R404, R405: after reset and boot no partition runs and every context is free; cycle numbers
and registers are 0, memory reads as zero, no translation is held; firmware is up, EVCTL.LOG2N is 6, the thermal bounds
are 105, 95 and 115, and TARGET is 40. The zeros of registers that the spec gives no reset value, a context's among them,
are log entry 1 (DESIGN CHOICE; the condition byte is 1, since c0 reads 1), that the machine has booted as it stands here
is log entry 5 (DESIGN CHOICE), and that host memory reads as zero is log entry 7. -/
def Claim.ResetState : Prop :=
  let s := State.reset
  s.powered = true ∧ (∀ key, s.byte key = 0) ∧ s.posted = [] ∧ s.agenda = [] ∧
  (∀ c x, (s.ctx c x).st = .free ∧ (s.ctx c x).pc = 0 ∧ (s.ctx c x).c = 1 ∧ (s.ctx c x).ff = 0 ∧ (s.ctx c x).w0 = 0) ∧
  (∀ c, (s.core c).cycle = 0 ∧ (s.core c).tlb = [] ∧ (s.core c).l1 = [] ∧ (s.core c).trapq = [] ∧ (s.core c).carve = 0 ∧
    (s.core c).winOpen = false ∧ ∀ e, (s.core c).entry e = 0) ∧
  (∀ p, (s.part p).v = false ∧ (s.part p).st = 0 ∧ (s.part p).qmask = 0 ∧ (s.part p).trapvec = 0) ∧
  (∀ i, (s.slice i).target = 40) ∧ s.dev.cpcfg = 0x103 ∧ s.dev.evctl = 6 ∧ s.dev.evseq = [] ∧
  s.dev.crit = 105 ∧ s.dev.hot = 95 ∧ s.dev.trip = 115 ∧ s.dev.sealedM = 0 ∧ s.mgmt.counter = 0

/-- Memory is in canonical form at reset: equal memories are equal data. -/
def Claim.ResetCanonical : Prop := core.reset = State.reset ∧ State.reset.memWf

/-- Some encodings written out, and the state after reset. -/
def Obligations.DecodingRight : Prop := Claim.DecodingRight ∧ Claim.ResetState ∧ Claim.ResetCanonical

/-- R14: a byte set reads back, every other byte stays, and the canonical form of memory and scratchpads is kept. -/
def Claim.MemoryBytes : Prop :=
  ∀ (s : State) (key : Nat) (bs : List Byte),
    let t := s.setBytes key bs
    t.bytes key bs.length = bs ∧ (∀ k, k < key ∨ key + bs.length ≤ k → t.byte k = s.byte k) ∧ (s.memWf → t.memWf) ∧
    (∀ i, i < bs.length → t.byte (key + i) = bs.getD i 0)

/-- Every step keeps memory and every scratchpad in canonical form: keys rise, and no byte is listed that an unlisted
address reads as anyway. -/
def Claim.StepKeepsMemory : Prop := ∀ s t : State, s.memWf → step s = .next t → t.memWf

/-- Every instruction and every event answers a next state, from every state, and keeps that form: none ends a run. -/
def Claim.EveryFormAnswers : Prop := ∀ (i : Instr) (s : State), s.memWf → ∃ t, exec i s = .next t ∧ t.memWf

/-- Every step keeps memory in canonical form. -/
def Obligations.MemoryCanonical : Prop := Claim.MemoryBytes ∧ Claim.StepKeepsMemory ∧ Claim.EveryFormAnswers
end

