-- ==== Sys2Proof/Laws/Form.lean ====
section
/-! SUPPORT. Every form's meaning issues as its row of the table says. -/

namespace Sys2Proof.Machine

/-- The instruction issues as its row says, with an own part of its own. -/
def Issues (i : Instr) (f : Form) : Prop :=
  ∀ s : State, ∃ body, exec i s = .next (s.issue f.gate f.hdr f.len f.srcs f.dsts body)

/-- The sources of a completion action, by its ACT field (R257). -/
theorem actSrcs_eq (act : BitVec 3) (xa xb : Opnd) :
    actSrcs act.toNat xa xb = if act = 0 then [] else if act = 3 then [xa] else [xa, xb] := by
  unfold actSrcs
  split
  · next h => rw [if_pos (BitVec.eq_of_toNat_eq h)]
  · next h => rw [if_neg (by rintro rfl; simp at h), if_pos (BitVec.eq_of_toNat_eq h)]
  · next h0 h3 => rw [if_neg fun e => h0 (by rw [e]; rfl), if_neg fun e => h3 (by rw [e]; rfl)]

/-- A form with a row in the table issues as that row says. -/
theorem issues_form (i : Instr) (f : Form) (hf : formOf i = some f) : Issues i f := by
  cases i with
  | engrend h fin => cases fin <;> cases hf; exact fun s => ⟨_, by rw [exec, execEngrend, if_neg Bool.false_ne_true]⟩
  | tsfu h xa sd s1 s2 bsc cty rm fn =>
    cases hf
    intro s
    cases bsc <;> by_cases h0 : fn = 0 <;>
      simp only [exec, execTsfu, tensor, tSfu, h0, if_true, if_false] <;> exact ⟨_, rfl⟩
  | tfma h xa xb sd s1 s2 s3 bsc csc cty rm => cases hf; intro s; cases bsc <;> cases csc <;> exact ⟨_, rfl⟩
  | cpy => cases hf; exact fun s => ⟨_, by rw [exec, execCpy, actSrcs_eq]⟩
  | cpyred => cases hf; exact fun s => ⟨_, by rw [exec, execCpyred, actSrcs_eq]⟩
  | cpymm => cases hf; exact fun s => ⟨_, by rw [exec, execCpymm, actSrcs_eq]⟩
  | _ =>
    cases hf <;> first
      | exact fun s => ⟨_, rfl⟩
      | (rename_i b _ _; cases b <;> exact fun s => ⟨_, rfl⟩)
      | (rename_i b _ _ _; cases b <;> exact fun s => ⟨_, rfl⟩)
      | (rename_i b _ _ _ _; cases b <;> exact fun s => ⟨_, rfl⟩)

end Sys2Proof.Machine
end

