-- ==== Sys2Proof/Laws/Maps.lean ====
section
/-! SUPPORT. What the sparse tables answer: an entry reads back after it is set, every other entry stays, and the
canonical form is kept. -/

namespace Sys2Proof.Machine

variable {α : Type} {d : α} {m : NMap α} {i j : Nat} {x : α}

/-! ### What a table answers -/

@[simp] theorem NMap.get_nil : NMap.get d [] i = d := rfl

/-- A dropped key reads as an unlisted one, every other key as before. -/
theorem NMap.get_del : (NMap.del m i).get d j = if j = i then d else m.get d j := by
  fun_induction NMap.del m i <;> grind [NMap.get]

/-- An inserted key reads as its entry, where no other entry has that key, and every other key as before. -/
theorem NMap.get_ins (h : ∀ e ∈ m, e.1 ≠ i) : (NMap.ins m i x).get d j = if j = i then x else m.get d j := by
  fun_induction NMap.ins m i x <;> simp_all only [NMap.get, List.forall_mem_cons] <;> grind

/-- What stays after a key is dropped had another key, and stood there before. -/
theorem NMap.mem_del {e : Nat × α} : e ∈ NMap.del m i ↔ e ∈ m ∧ e.1 ≠ i := by fun_induction NMap.del m i <;> grind

theorem NMap.mem_ins {e : Nat × α} : e ∈ NMap.ins m i x ↔ e = (i, x) ∨ e ∈ m := by
  fun_induction NMap.ins m i x <;> grind

theorem NMap.get_put : (NMap.put m i x).get d j = if j = i then x else m.get d j := by
  rw [NMap.put, get_ins fun e he => (mem_del.1 he).2, get_del]; grind

@[simp] theorem NMap.get_put_self : (NMap.put m i x).get d i = x := by rw [get_put, if_pos rfl]

theorem NMap.get_put_other (h : j ≠ i) : (NMap.put m i x).get d j = m.get d j := by rw [get_put, if_neg h]

theorem NMap.get_putD [DecidableEq α] : (NMap.putD d m i x).get d j = if j = i then x else m.get d j := by
  grind [NMap.putD, get_put, get_del]

@[simp] theorem NMap.get_putD_self [DecidableEq α] : (NMap.putD d m i x).get d i = x := by rw [get_putD, if_pos rfl]

theorem NMap.get_putD_other [DecidableEq α] (h : j ≠ i) : (NMap.putD d m i x).get d j = m.get d j := by
  rw [get_putD, if_neg h]

/-! ### The canonical form -/

/-- Keys that rise from a bound rise from every lower one. -/
theorem NMap.rising_mono {a b : Nat} (hab : a ≤ b) (h : NMap.rising b m = true) : NMap.rising a m = true := by
  grind [cases List, NMap.rising]

/-- What follows an entry rises from the same bound. -/
theorem NMap.rising_tail {b : Nat} {e : Nat × α} (h : NMap.rising b (e :: m) = true) : NMap.rising b m = true := by
  simp only [rising, Bool.and_eq_true, decide_eq_true_eq] at h
  exact rising_mono (Nat.le_succ_of_le h.1) h.2

theorem NMap.rising_del {b : Nat} (h : NMap.rising b m = true) : NMap.rising b (NMap.del m i) = true := by
  fun_induction NMap.del m i generalizing b <;> grind [NMap.rising, rising_tail]

theorem NMap.rising_ins {b : Nat} (h : NMap.rising b m = true) (hb : b ≤ i) (ha : ∀ e ∈ m, e.1 ≠ i) :
    NMap.rising b (NMap.ins m i x) = true := by
  fun_induction NMap.ins m i x generalizing b <;> simp_all [NMap.rising] <;> grind

theorem NMap.rising_filter {b : Nat} {p : Nat × α → Bool} (h : NMap.rising b m = true) :
    NMap.rising b (m.filter p) = true := by
  fun_induction NMap.rising b m with
  | case1 => simp [NMap.rising]
  | case2 b k v m ih =>
    have hb : b ≤ k + 1 → NMap.rising b (m.filter p) = true := fun hk => rising_mono hk (ih (by simp_all))
    grind [NMap.rising]

variable [DecidableEq α]

theorem NMap.wf_iff : NMap.wf d m = true ↔ NMap.rising 0 m = true ∧ ∀ e ∈ m, e.2 ≠ d := by
  simp [NMap.wf, List.all_eq_true]

theorem NMap.wf_del (h : NMap.wf d m = true) : NMap.wf d (NMap.del m i) = true := by
  grind [wf_iff, rising_del, mem_del]

/-- Setting an entry keeps the canonical form. -/
theorem NMap.wf_putD (h : NMap.wf d m = true) : NMap.wf d (NMap.putD d m i x) = true := by
  grind [NMap.putD, NMap.put, wf_iff, rising_ins, rising_del, mem_del, mem_ins]

/-- Leaving out entries keeps the canonical form. -/
theorem NMap.wf_filter {p : Nat × α → Bool} (h : NMap.wf d m = true) : NMap.wf d (m.filter p) = true := by
  grind [wf_iff, rising_filter]

end Sys2Proof.Machine
end

