-- ==== Sys2Proof/Laws/State.lean ====
section
/-! SUPPORT. What each update of the state leaves as it was, field by field, and what the parts of the state read after
it. -/

namespace Sys2Proof.Machine

variable (s : State)

/-! ### setCore -/

section
variable (c : Nat) (k : Core)
@[simp] theorem State.setCore_powered : (s.setCore c k).powered = s.powered := rfl
@[simp] theorem State.setCore_cur : (s.setCore c k).cur = s.cur := rfl
@[simp] theorem State.setCore_idle : (s.setCore c k).idle = s.idle := rfl
@[simp] theorem State.setCore_mesh : (s.setCore c k).mesh = s.mesh := rfl
@[simp] theorem State.setCore_free : (s.setCore c k).free = s.free := rfl
@[simp] theorem State.setCore_slices : (s.setCore c k).slices = s.slices := rfl
@[simp] theorem State.setCore_parts : (s.setCore c k).parts = s.parts := rfl
@[simp] theorem State.setCore_dev : (s.setCore c k).dev = s.dev := rfl
@[simp] theorem State.setCore_mem : (s.setCore c k).mem = s.mem := rfl
@[simp] theorem State.setCore_posted : (s.setCore c k).posted = s.posted := rfl
@[simp] theorem State.setCore_landed : (s.setCore c k).landed = s.landed := rfl
@[simp] theorem State.setCore_waits : (s.setCore c k).waits = s.waits := rfl
@[simp] theorem State.setCore_conts : (s.setCore c k).conts = s.conts := rfl
@[simp] theorem State.setCore_mxSpill : (s.setCore c k).mxSpill = s.mxSpill := rfl
@[simp] theorem State.setCore_agenda : (s.setCore c k).agenda = s.agenda := rfl
@[simp] theorem State.setCore_mgmt : (s.setCore c k).mgmt = s.mgmt := rfl
@[simp] theorem State.setCore_board : (s.setCore c k).board = s.board := rfl
end

/-! ### onCore -/

section
variable (c : Nat) (f : Core → Core)
@[simp] theorem State.onCore_powered : (s.onCore c f).powered = s.powered := rfl
@[simp] theorem State.onCore_cur : (s.onCore c f).cur = s.cur := rfl
@[simp] theorem State.onCore_idle : (s.onCore c f).idle = s.idle := rfl
@[simp] theorem State.onCore_mesh : (s.onCore c f).mesh = s.mesh := rfl
@[simp] theorem State.onCore_free : (s.onCore c f).free = s.free := rfl
@[simp] theorem State.onCore_slices : (s.onCore c f).slices = s.slices := rfl
@[simp] theorem State.onCore_parts : (s.onCore c f).parts = s.parts := rfl
@[simp] theorem State.onCore_dev : (s.onCore c f).dev = s.dev := rfl
@[simp] theorem State.onCore_mem : (s.onCore c f).mem = s.mem := rfl
@[simp] theorem State.onCore_posted : (s.onCore c f).posted = s.posted := rfl
@[simp] theorem State.onCore_landed : (s.onCore c f).landed = s.landed := rfl
@[simp] theorem State.onCore_waits : (s.onCore c f).waits = s.waits := rfl
@[simp] theorem State.onCore_conts : (s.onCore c f).conts = s.conts := rfl
@[simp] theorem State.onCore_mxSpill : (s.onCore c f).mxSpill = s.mxSpill := rfl
@[simp] theorem State.onCore_agenda : (s.onCore c f).agenda = s.agenda := rfl
@[simp] theorem State.onCore_mgmt : (s.onCore c f).mgmt = s.mgmt := rfl
@[simp] theorem State.onCore_board : (s.onCore c f).board = s.board := rfl
end

/-! ### setCtx -/

section
variable (c x : Nat) (v : Ctx)
@[simp] theorem State.setCtx_powered : (s.setCtx c x v).powered = s.powered := rfl
@[simp] theorem State.setCtx_cur : (s.setCtx c x v).cur = s.cur := rfl
@[simp] theorem State.setCtx_idle : (s.setCtx c x v).idle = s.idle := rfl
@[simp] theorem State.setCtx_mesh : (s.setCtx c x v).mesh = s.mesh := rfl
@[simp] theorem State.setCtx_free : (s.setCtx c x v).free = s.free := rfl
@[simp] theorem State.setCtx_slices : (s.setCtx c x v).slices = s.slices := rfl
@[simp] theorem State.setCtx_parts : (s.setCtx c x v).parts = s.parts := rfl
@[simp] theorem State.setCtx_dev : (s.setCtx c x v).dev = s.dev := rfl
@[simp] theorem State.setCtx_mem : (s.setCtx c x v).mem = s.mem := rfl
@[simp] theorem State.setCtx_posted : (s.setCtx c x v).posted = s.posted := rfl
@[simp] theorem State.setCtx_landed : (s.setCtx c x v).landed = s.landed := rfl
@[simp] theorem State.setCtx_waits : (s.setCtx c x v).waits = s.waits := rfl
@[simp] theorem State.setCtx_conts : (s.setCtx c x v).conts = s.conts := rfl
@[simp] theorem State.setCtx_mxSpill : (s.setCtx c x v).mxSpill = s.mxSpill := rfl
@[simp] theorem State.setCtx_agenda : (s.setCtx c x v).agenda = s.agenda := rfl
@[simp] theorem State.setCtx_mgmt : (s.setCtx c x v).mgmt = s.mgmt := rfl
@[simp] theorem State.setCtx_board : (s.setCtx c x v).board = s.board := rfl
end

/-! ### onCtx -/

section
variable (c x : Nat) (f : Ctx → Ctx)
@[simp] theorem State.onCtx_powered : (s.onCtx c x f).powered = s.powered := rfl
@[simp] theorem State.onCtx_cur : (s.onCtx c x f).cur = s.cur := rfl
@[simp] theorem State.onCtx_idle : (s.onCtx c x f).idle = s.idle := rfl
@[simp] theorem State.onCtx_mesh : (s.onCtx c x f).mesh = s.mesh := rfl
@[simp] theorem State.onCtx_free : (s.onCtx c x f).free = s.free := rfl
@[simp] theorem State.onCtx_slices : (s.onCtx c x f).slices = s.slices := rfl
@[simp] theorem State.onCtx_parts : (s.onCtx c x f).parts = s.parts := rfl
@[simp] theorem State.onCtx_dev : (s.onCtx c x f).dev = s.dev := rfl
@[simp] theorem State.onCtx_mem : (s.onCtx c x f).mem = s.mem := rfl
@[simp] theorem State.onCtx_posted : (s.onCtx c x f).posted = s.posted := rfl
@[simp] theorem State.onCtx_landed : (s.onCtx c x f).landed = s.landed := rfl
@[simp] theorem State.onCtx_waits : (s.onCtx c x f).waits = s.waits := rfl
@[simp] theorem State.onCtx_conts : (s.onCtx c x f).conts = s.conts := rfl
@[simp] theorem State.onCtx_mxSpill : (s.onCtx c x f).mxSpill = s.mxSpill := rfl
@[simp] theorem State.onCtx_agenda : (s.onCtx c x f).agenda = s.agenda := rfl
@[simp] theorem State.onCtx_mgmt : (s.onCtx c x f).mgmt = s.mgmt := rfl
@[simp] theorem State.onCtx_board : (s.onCtx c x f).board = s.board := rfl
end

/-! ### onMe -/

section
variable (f : Ctx → Ctx)
@[simp] theorem State.onMe_powered : (s.onMe f).powered = s.powered := rfl
@[simp] theorem State.onMe_cur : (s.onMe f).cur = s.cur := rfl
@[simp] theorem State.onMe_idle : (s.onMe f).idle = s.idle := rfl
@[simp] theorem State.onMe_mesh : (s.onMe f).mesh = s.mesh := rfl
@[simp] theorem State.onMe_free : (s.onMe f).free = s.free := rfl
@[simp] theorem State.onMe_slices : (s.onMe f).slices = s.slices := rfl
@[simp] theorem State.onMe_parts : (s.onMe f).parts = s.parts := rfl
@[simp] theorem State.onMe_dev : (s.onMe f).dev = s.dev := rfl
@[simp] theorem State.onMe_mem : (s.onMe f).mem = s.mem := rfl
@[simp] theorem State.onMe_posted : (s.onMe f).posted = s.posted := rfl
@[simp] theorem State.onMe_landed : (s.onMe f).landed = s.landed := rfl
@[simp] theorem State.onMe_waits : (s.onMe f).waits = s.waits := rfl
@[simp] theorem State.onMe_conts : (s.onMe f).conts = s.conts := rfl
@[simp] theorem State.onMe_mxSpill : (s.onMe f).mxSpill = s.mxSpill := rfl
@[simp] theorem State.onMe_agenda : (s.onMe f).agenda = s.agenda := rfl
@[simp] theorem State.onMe_mgmt : (s.onMe f).mgmt = s.mgmt := rfl
@[simp] theorem State.onMe_board : (s.onMe f).board = s.board := rfl
end

/-! ### onPart -/

section
variable (p : Nat) (f : Part → Part)
@[simp] theorem State.onPart_powered : (s.onPart p f).powered = s.powered := rfl
@[simp] theorem State.onPart_cur : (s.onPart p f).cur = s.cur := rfl
@[simp] theorem State.onPart_idle : (s.onPart p f).idle = s.idle := rfl
@[simp] theorem State.onPart_mesh : (s.onPart p f).mesh = s.mesh := rfl
@[simp] theorem State.onPart_free : (s.onPart p f).free = s.free := rfl
@[simp] theorem State.onPart_cores : (s.onPart p f).cores = s.cores := rfl
@[simp] theorem State.onPart_slices : (s.onPart p f).slices = s.slices := rfl
@[simp] theorem State.onPart_dev : (s.onPart p f).dev = s.dev := rfl
@[simp] theorem State.onPart_mem : (s.onPart p f).mem = s.mem := rfl
@[simp] theorem State.onPart_posted : (s.onPart p f).posted = s.posted := rfl
@[simp] theorem State.onPart_landed : (s.onPart p f).landed = s.landed := rfl
@[simp] theorem State.onPart_waits : (s.onPart p f).waits = s.waits := rfl
@[simp] theorem State.onPart_conts : (s.onPart p f).conts = s.conts := rfl
@[simp] theorem State.onPart_mxSpill : (s.onPart p f).mxSpill = s.mxSpill := rfl
@[simp] theorem State.onPart_agenda : (s.onPart p f).agenda = s.agenda := rfl
@[simp] theorem State.onPart_mgmt : (s.onPart p f).mgmt = s.mgmt := rfl
@[simp] theorem State.onPart_board : (s.onPart p f).board = s.board := rfl
end

/-! ### onSlice -/

section
variable (i : Nat) (f : Slice → Slice)
@[simp] theorem State.onSlice_powered : (s.onSlice i f).powered = s.powered := rfl
@[simp] theorem State.onSlice_cur : (s.onSlice i f).cur = s.cur := rfl
@[simp] theorem State.onSlice_idle : (s.onSlice i f).idle = s.idle := rfl
@[simp] theorem State.onSlice_mesh : (s.onSlice i f).mesh = s.mesh := rfl
@[simp] theorem State.onSlice_free : (s.onSlice i f).free = s.free := rfl
@[simp] theorem State.onSlice_cores : (s.onSlice i f).cores = s.cores := rfl
@[simp] theorem State.onSlice_parts : (s.onSlice i f).parts = s.parts := rfl
@[simp] theorem State.onSlice_dev : (s.onSlice i f).dev = s.dev := rfl
@[simp] theorem State.onSlice_mem : (s.onSlice i f).mem = s.mem := rfl
@[simp] theorem State.onSlice_posted : (s.onSlice i f).posted = s.posted := rfl
@[simp] theorem State.onSlice_landed : (s.onSlice i f).landed = s.landed := rfl
@[simp] theorem State.onSlice_waits : (s.onSlice i f).waits = s.waits := rfl
@[simp] theorem State.onSlice_conts : (s.onSlice i f).conts = s.conts := rfl
@[simp] theorem State.onSlice_mxSpill : (s.onSlice i f).mxSpill = s.mxSpill := rfl
@[simp] theorem State.onSlice_agenda : (s.onSlice i f).agenda = s.agenda := rfl
@[simp] theorem State.onSlice_mgmt : (s.onSlice i f).mgmt = s.mgmt := rfl
@[simp] theorem State.onSlice_board : (s.onSlice i f).board = s.board := rfl
end

/-! ### onDev -/

section
variable (f : Dev → Dev)
@[simp] theorem State.onDev_powered : (s.onDev f).powered = s.powered := rfl
@[simp] theorem State.onDev_cur : (s.onDev f).cur = s.cur := rfl
@[simp] theorem State.onDev_idle : (s.onDev f).idle = s.idle := rfl
@[simp] theorem State.onDev_mesh : (s.onDev f).mesh = s.mesh := rfl
@[simp] theorem State.onDev_free : (s.onDev f).free = s.free := rfl
@[simp] theorem State.onDev_cores : (s.onDev f).cores = s.cores := rfl
@[simp] theorem State.onDev_slices : (s.onDev f).slices = s.slices := rfl
@[simp] theorem State.onDev_parts : (s.onDev f).parts = s.parts := rfl
@[simp] theorem State.onDev_mem : (s.onDev f).mem = s.mem := rfl
@[simp] theorem State.onDev_posted : (s.onDev f).posted = s.posted := rfl
@[simp] theorem State.onDev_landed : (s.onDev f).landed = s.landed := rfl
@[simp] theorem State.onDev_waits : (s.onDev f).waits = s.waits := rfl
@[simp] theorem State.onDev_conts : (s.onDev f).conts = s.conts := rfl
@[simp] theorem State.onDev_mxSpill : (s.onDev f).mxSpill = s.mxSpill := rfl
@[simp] theorem State.onDev_agenda : (s.onDev f).agenda = s.agenda := rfl
@[simp] theorem State.onDev_mgmt : (s.onDev f).mgmt = s.mgmt := rfl
@[simp] theorem State.onDev_board : (s.onDev f).board = s.board := rfl
end

/-! ### onMgmt -/

section
variable (f : Mgmt → Mgmt)
@[simp] theorem State.onMgmt_powered : (s.onMgmt f).powered = s.powered := rfl
@[simp] theorem State.onMgmt_cur : (s.onMgmt f).cur = s.cur := rfl
@[simp] theorem State.onMgmt_idle : (s.onMgmt f).idle = s.idle := rfl
@[simp] theorem State.onMgmt_mesh : (s.onMgmt f).mesh = s.mesh := rfl
@[simp] theorem State.onMgmt_free : (s.onMgmt f).free = s.free := rfl
@[simp] theorem State.onMgmt_cores : (s.onMgmt f).cores = s.cores := rfl
@[simp] theorem State.onMgmt_slices : (s.onMgmt f).slices = s.slices := rfl
@[simp] theorem State.onMgmt_parts : (s.onMgmt f).parts = s.parts := rfl
@[simp] theorem State.onMgmt_dev : (s.onMgmt f).dev = s.dev := rfl
@[simp] theorem State.onMgmt_mem : (s.onMgmt f).mem = s.mem := rfl
@[simp] theorem State.onMgmt_posted : (s.onMgmt f).posted = s.posted := rfl
@[simp] theorem State.onMgmt_landed : (s.onMgmt f).landed = s.landed := rfl
@[simp] theorem State.onMgmt_waits : (s.onMgmt f).waits = s.waits := rfl
@[simp] theorem State.onMgmt_conts : (s.onMgmt f).conts = s.conts := rfl
@[simp] theorem State.onMgmt_mxSpill : (s.onMgmt f).mxSpill = s.mxSpill := rfl
@[simp] theorem State.onMgmt_agenda : (s.onMgmt f).agenda = s.agenda := rfl
@[simp] theorem State.onMgmt_board : (s.onMgmt f).board = s.board := rfl
end

/-! ### onHwq -/

section
variable (q : Nat) (f : HwQ → HwQ)
@[simp] theorem State.onHwq_powered : (s.onHwq q f).powered = s.powered := rfl
@[simp] theorem State.onHwq_cur : (s.onHwq q f).cur = s.cur := rfl
@[simp] theorem State.onHwq_idle : (s.onHwq q f).idle = s.idle := rfl
@[simp] theorem State.onHwq_mesh : (s.onHwq q f).mesh = s.mesh := rfl
@[simp] theorem State.onHwq_free : (s.onHwq q f).free = s.free := rfl
@[simp] theorem State.onHwq_cores : (s.onHwq q f).cores = s.cores := rfl
@[simp] theorem State.onHwq_slices : (s.onHwq q f).slices = s.slices := rfl
@[simp] theorem State.onHwq_parts : (s.onHwq q f).parts = s.parts := rfl
@[simp] theorem State.onHwq_mem : (s.onHwq q f).mem = s.mem := rfl
@[simp] theorem State.onHwq_posted : (s.onHwq q f).posted = s.posted := rfl
@[simp] theorem State.onHwq_landed : (s.onHwq q f).landed = s.landed := rfl
@[simp] theorem State.onHwq_waits : (s.onHwq q f).waits = s.waits := rfl
@[simp] theorem State.onHwq_conts : (s.onHwq q f).conts = s.conts := rfl
@[simp] theorem State.onHwq_mxSpill : (s.onHwq q f).mxSpill = s.mxSpill := rfl
@[simp] theorem State.onHwq_agenda : (s.onHwq q f).agenda = s.agenda := rfl
@[simp] theorem State.onHwq_mgmt : (s.onHwq q f).mgmt = s.mgmt := rfl
@[simp] theorem State.onHwq_board : (s.onHwq q f).board = s.board := rfl
end

/-! ### plan -/

section
variable (i : Instr)
@[simp] theorem State.plan_powered : (s.plan i).powered = s.powered := rfl
@[simp] theorem State.plan_cur : (s.plan i).cur = s.cur := rfl
@[simp] theorem State.plan_idle : (s.plan i).idle = s.idle := rfl
@[simp] theorem State.plan_mesh : (s.plan i).mesh = s.mesh := rfl
@[simp] theorem State.plan_free : (s.plan i).free = s.free := rfl
@[simp] theorem State.plan_cores : (s.plan i).cores = s.cores := rfl
@[simp] theorem State.plan_slices : (s.plan i).slices = s.slices := rfl
@[simp] theorem State.plan_parts : (s.plan i).parts = s.parts := rfl
@[simp] theorem State.plan_dev : (s.plan i).dev = s.dev := rfl
@[simp] theorem State.plan_mem : (s.plan i).mem = s.mem := rfl
@[simp] theorem State.plan_posted : (s.plan i).posted = s.posted := rfl
@[simp] theorem State.plan_landed : (s.plan i).landed = s.landed := rfl
@[simp] theorem State.plan_waits : (s.plan i).waits = s.waits := rfl
@[simp] theorem State.plan_conts : (s.plan i).conts = s.conts := rfl
@[simp] theorem State.plan_mxSpill : (s.plan i).mxSpill = s.mxSpill := rfl
@[simp] theorem State.plan_mgmt : (s.plan i).mgmt = s.mgmt := rfl
@[simp] theorem State.plan_board : (s.plan i).board = s.board := rfl
end

/-! ### planAt -/

section
variable (t : Nat) (i : Instr)
@[simp] theorem State.planAt_powered : (s.planAt t i).powered = s.powered := rfl
@[simp] theorem State.planAt_cur : (s.planAt t i).cur = s.cur := rfl
@[simp] theorem State.planAt_idle : (s.planAt t i).idle = s.idle := rfl
@[simp] theorem State.planAt_mesh : (s.planAt t i).mesh = s.mesh := rfl
@[simp] theorem State.planAt_free : (s.planAt t i).free = s.free := rfl
@[simp] theorem State.planAt_cores : (s.planAt t i).cores = s.cores := rfl
@[simp] theorem State.planAt_slices : (s.planAt t i).slices = s.slices := rfl
@[simp] theorem State.planAt_parts : (s.planAt t i).parts = s.parts := rfl
@[simp] theorem State.planAt_dev : (s.planAt t i).dev = s.dev := rfl
@[simp] theorem State.planAt_mem : (s.planAt t i).mem = s.mem := rfl
@[simp] theorem State.planAt_posted : (s.planAt t i).posted = s.posted := rfl
@[simp] theorem State.planAt_landed : (s.planAt t i).landed = s.landed := rfl
@[simp] theorem State.planAt_waits : (s.planAt t i).waits = s.waits := rfl
@[simp] theorem State.planAt_conts : (s.planAt t i).conts = s.conts := rfl
@[simp] theorem State.planAt_mxSpill : (s.planAt t i).mxSpill = s.mxSpill := rfl
@[simp] theorem State.planAt_mgmt : (s.planAt t i).mgmt = s.mgmt := rfl
@[simp] theorem State.planAt_board : (s.planAt t i).board = s.board := rfl
end

/-! ### Parts after an update -/

@[simp] theorem State.setCore_part (c : Nat) (k : Core) (r : Nat) : (s.setCore c k).part r = s.part r := rfl
@[simp] theorem State.setCore_slice (c : Nat) (k : Core) (r : Nat) : (s.setCore c k).slice r = s.slice r := rfl
@[simp] theorem State.onCore_part (c : Nat) (f : Core → Core) (r : Nat) : (s.onCore c f).part r = s.part r := rfl
@[simp] theorem State.onCore_slice (c : Nat) (f : Core → Core) (r : Nat) : (s.onCore c f).slice r = s.slice r := rfl
@[simp] theorem State.setCtx_part (c x : Nat) (v : Ctx) (r : Nat) : (s.setCtx c x v).part r = s.part r := rfl
@[simp] theorem State.setCtx_slice (c x : Nat) (v : Ctx) (r : Nat) : (s.setCtx c x v).slice r = s.slice r := rfl
@[simp] theorem State.onCtx_part (c x : Nat) (f : Ctx → Ctx) (r : Nat) : (s.onCtx c x f).part r = s.part r := rfl
@[simp] theorem State.onCtx_slice (c x : Nat) (f : Ctx → Ctx) (r : Nat) : (s.onCtx c x f).slice r = s.slice r := rfl
@[simp] theorem State.onMe_part (f : Ctx → Ctx) (r : Nat) : (s.onMe f).part r = s.part r := rfl
@[simp] theorem State.onMe_slice (f : Ctx → Ctx) (r : Nat) : (s.onMe f).slice r = s.slice r := rfl
@[simp] theorem State.onPart_core (p : Nat) (f : Part → Part) (c : Nat) : (s.onPart p f).core c = s.core c := rfl
@[simp] theorem State.onPart_ctx (p : Nat) (f : Part → Part) (c x : Nat) : (s.onPart p f).ctx c x = s.ctx c x := rfl
@[simp] theorem State.onPart_slice (p : Nat) (f : Part → Part) (r : Nat) : (s.onPart p f).slice r = s.slice r := rfl
@[simp] theorem State.onSlice_core (i : Nat) (f : Slice → Slice) (c : Nat) : (s.onSlice i f).core c = s.core c := rfl
@[simp] theorem State.onSlice_ctx (i : Nat) (f : Slice → Slice) (c x : Nat) : (s.onSlice i f).ctx c x = s.ctx c x := rfl
@[simp] theorem State.onSlice_part (i : Nat) (f : Slice → Slice) (r : Nat) : (s.onSlice i f).part r = s.part r := rfl
@[simp] theorem State.onDev_core (f : Dev → Dev) (c : Nat) : (s.onDev f).core c = s.core c := rfl
@[simp] theorem State.onDev_ctx (f : Dev → Dev) (c x : Nat) : (s.onDev f).ctx c x = s.ctx c x := rfl
@[simp] theorem State.onDev_part (f : Dev → Dev) (r : Nat) : (s.onDev f).part r = s.part r := rfl
@[simp] theorem State.onDev_slice (f : Dev → Dev) (r : Nat) : (s.onDev f).slice r = s.slice r := rfl
@[simp] theorem State.onMgmt_core (f : Mgmt → Mgmt) (c : Nat) : (s.onMgmt f).core c = s.core c := rfl
@[simp] theorem State.onMgmt_ctx (f : Mgmt → Mgmt) (c x : Nat) : (s.onMgmt f).ctx c x = s.ctx c x := rfl
@[simp] theorem State.onMgmt_part (f : Mgmt → Mgmt) (r : Nat) : (s.onMgmt f).part r = s.part r := rfl
@[simp] theorem State.onMgmt_slice (f : Mgmt → Mgmt) (r : Nat) : (s.onMgmt f).slice r = s.slice r := rfl
@[simp] theorem State.onHwq_core (q : Nat) (f : HwQ → HwQ) (c : Nat) : (s.onHwq q f).core c = s.core c := rfl
@[simp] theorem State.onHwq_ctx (q : Nat) (f : HwQ → HwQ) (c x : Nat) : (s.onHwq q f).ctx c x = s.ctx c x := rfl
@[simp] theorem State.onHwq_part (q : Nat) (f : HwQ → HwQ) (r : Nat) : (s.onHwq q f).part r = s.part r := rfl
@[simp] theorem State.onHwq_slice (q : Nat) (f : HwQ → HwQ) (r : Nat) : (s.onHwq q f).slice r = s.slice r := rfl
@[simp] theorem State.plan_core (i : Instr) (c : Nat) : (s.plan i).core c = s.core c := rfl
@[simp] theorem State.plan_ctx (i : Instr) (c x : Nat) : (s.plan i).ctx c x = s.ctx c x := rfl
@[simp] theorem State.plan_part (i : Instr) (r : Nat) : (s.plan i).part r = s.part r := rfl
@[simp] theorem State.plan_slice (i : Instr) (r : Nat) : (s.plan i).slice r = s.slice r := rfl
@[simp] theorem State.planAt_core (t : Nat) (i : Instr) (c : Nat) : (s.planAt t i).core c = s.core c := rfl
@[simp] theorem State.planAt_ctx (t : Nat) (i : Instr) (c x : Nat) : (s.planAt t i).ctx c x = s.ctx c x := rfl
@[simp] theorem State.planAt_part (t : Nat) (i : Instr) (r : Nat) : (s.planAt t i).part r = s.part r := rfl
@[simp] theorem State.planAt_slice (t : Nat) (i : Instr) (r : Nat) : (s.planAt t i).slice r = s.slice r := rfl

theorem State.setCore_core (c r : Nat) (k : Core) : (s.setCore c k).core r = if r = c then k else s.core r := NMap.get_put

@[simp] theorem State.setCore_core_self (c : Nat) (k : Core) : (s.setCore c k).core c = k := NMap.get_put_self

theorem State.setCore_core_other {c r : Nat} (h : r ≠ c) (k : Core) : (s.setCore c k).core r = s.core r := NMap.get_put_other h

theorem Core.setCtx_ctx (k : Core) (x y : Nat) (v : Ctx) : (k.setCtx x v).ctx y = if y = x then v else k.ctx y := NMap.get_put

@[simp] theorem Core.setCtx_ctx_self (k : Core) (x : Nat) (v : Ctx) : (k.setCtx x v).ctx x = v := NMap.get_put_self

theorem Core.setCtx_ctx_other (k : Core) {x y : Nat} (h : y ≠ x) (v : Ctx) : (k.setCtx x v).ctx y = k.ctx y :=
  NMap.get_put_other h

theorem State.onCore_core (c r : Nat) (f : Core → Core) :
    (s.onCore c f).core r = if r = c then f (s.core c) else s.core r := NMap.get_put

@[simp] theorem State.onCore_core_self (c : Nat) (f : Core → Core) : (s.onCore c f).core c = f (s.core c) :=
  NMap.get_put_self

theorem State.onCore_core_other {c r : Nat} (h : r ≠ c) (f : Core → Core) : (s.onCore c f).core r = s.core r :=
  NMap.get_put_other h

theorem State.setCtx_core (c x r : Nat) (v : Ctx) :
    (s.setCtx c x v).core r = if r = c then (s.core c).setCtx x v else s.core r := NMap.get_put

@[simp] theorem State.setCtx_core_self (c x : Nat) (v : Ctx) : (s.setCtx c x v).core c = (s.core c).setCtx x v :=
  NMap.get_put_self

theorem State.setCtx_core_other {c r : Nat} (h : r ≠ c) (x : Nat) (v : Ctx) : (s.setCtx c x v).core r = s.core r :=
  NMap.get_put_other h

theorem State.setCtx_ctx (c x r y : Nat) (v : Ctx) :
    (s.setCtx c x v).ctx r y = if r = c ∧ y = x then v else s.ctx r y := by
  simp only [State.ctx, State.setCtx_core]
  split
  · next h => subst h; simp only [Core.setCtx_ctx, true_and]
  · next h => simp [h]

@[simp] theorem State.setCtx_ctx_self (c x : Nat) (v : Ctx) : (s.setCtx c x v).ctx c x = v := by simp [State.setCtx_ctx]

theorem State.onCtx_ctx (c x r y : Nat) (f : Ctx → Ctx) :
    (s.onCtx c x f).ctx r y = if r = c ∧ y = x then f (s.ctx c x) else s.ctx r y := State.setCtx_ctx s c x r y _

@[simp] theorem State.onCtx_ctx_self (c x : Nat) (f : Ctx → Ctx) : (s.onCtx c x f).ctx c x = f (s.ctx c x) := by
  simp [State.onCtx_ctx]

theorem State.onCtx_ctx_other {c x r y : Nat} (h : ¬(r = c ∧ y = x)) (f : Ctx → Ctx) :
    (s.onCtx c x f).ctx r y = s.ctx r y := by simp [State.onCtx_ctx, h]

theorem State.onPart_part (p r : Nat) (f : Part → Part) :
    (s.onPart p f).part r = if r = p then f (s.part p) else s.part r := NMap.get_put

@[simp] theorem State.onPart_part_self (p : Nat) (f : Part → Part) : (s.onPart p f).part p = f (s.part p) :=
  NMap.get_put_self

theorem State.onSlice_slice (i r : Nat) (f : Slice → Slice) :
    (s.onSlice i f).slice r = if r = i then f (s.slice i) else s.slice r := NMap.get_put

@[simp] theorem State.onSlice_slice_self (i : Nat) (f : Slice → Slice) : (s.onSlice i f).slice i = f (s.slice i) :=
  NMap.get_put_self

@[simp] theorem State.onDev_dev (f : Dev → Dev) : (s.onDev f).dev = f s.dev := rfl

@[simp] theorem State.onMgmt_mgmt (f : Mgmt → Mgmt) : (s.onMgmt f).mgmt = f s.mgmt := rfl

@[simp] theorem State.onHwq_hwq_self (q : Nat) (f : HwQ → HwQ) : (s.onHwq q f).hwq q = f (s.hwq q) := NMap.get_put_self

@[simp] theorem State.plan_agenda (i : Instr) : (s.plan i).agenda = s.agenda ++ [⟨s.mesh, i⟩] := rfl

@[simp] theorem State.planAt_agenda (t : Nat) (i : Instr) : (s.planAt t i).agenda = s.agenda ++ [⟨t, i⟩] := rfl

/-! ### The fields of a core after a change to one of its contexts -/

section
variable (k : Core) (x : Nat) (v : Ctx)
@[simp] theorem Core.setCtx_cycle : (k.setCtx x v).cycle = k.cycle := rfl
@[simp] theorem Core.setCtx_regs : (k.setCtx x v).regs = k.regs := rfl
@[simp] theorem Core.setCtx_scratch : (k.setCtx x v).scratch = k.scratch := rfl
@[simp] theorem Core.setCtx_carve : (k.setCtx x v).carve = k.carve := rfl
@[simp] theorem Core.setCtx_frame : (k.setCtx x v).frame = k.frame := rfl
@[simp] theorem Core.setCtx_feedq : (k.setCtx x v).feedq = k.feedq := rfl
@[simp] theorem Core.setCtx_l1 : (k.setCtx x v).l1 = k.l1 := rfl
@[simp] theorem Core.setCtx_icache : (k.setCtx x v).icache = k.icache := rfl
@[simp] theorem Core.setCtx_tlb : (k.setCtx x v).tlb = k.tlb := rfl
@[simp] theorem Core.setCtx_fifos : (k.setCtx x v).fifos = k.fifos := rfl
@[simp] theorem Core.setCtx_mail0 : (k.setCtx x v).mail0 = k.mail0 := rfl
@[simp] theorem Core.setCtx_mail1 : (k.setCtx x v).mail1 = k.mail1 := rfl
@[simp] theorem Core.setCtx_direct : (k.setCtx x v).direct = k.direct := rfl
@[simp] theorem Core.setCtx_directHeld : (k.setCtx x v).directHeld = k.directHeld := rfl
@[simp] theorem Core.setCtx_head : (k.setCtx x v).head = k.head := rfl
@[simp] theorem Core.setCtx_asked : (k.setCtx x v).asked = k.asked := rfl
@[simp] theorem Core.setCtx_held : (k.setCtx x v).held = k.held := rfl
@[simp] theorem Core.setCtx_trapq : (k.setCtx x v).trapq = k.trapq := rfl
@[simp] theorem Core.setCtx_trapHeld : (k.setCtx x v).trapHeld = k.trapHeld := rfl
@[simp] theorem Core.setCtx_seq : (k.setCtx x v).seq = k.seq := rfl
@[simp] theorem Core.setCtx_entryDue : (k.setCtx x v).entryDue = k.entryDue := rfl
@[simp] theorem Core.setCtx_winOpen : (k.setCtx x v).winOpen = k.winOpen := rfl
@[simp] theorem Core.setCtx_halted : (k.setCtx x v).halted = k.halted := rfl
@[simp] theorem Core.setCtx_frozen : (k.setCtx x v).frozen = k.frozen := rfl
@[simp] theorem Core.setCtx_dead : (k.setCtx x v).dead = k.dead := rfl
@[simp] theorem Core.setCtx_mx : (k.setCtx x v).mx = k.mx := rfl
@[simp] theorem Core.setCtx_copies : (k.setCtx x v).copies = k.copies := rfl
@[simp] theorem Core.setCtx_lastCopy : (k.setCtx x v).lastCopy = k.lastCopy := rfl
@[simp] theorem Core.setCtx_copySeq : (k.setCtx x v).copySeq = k.copySeq := rfl
@[simp] theorem Core.setCtx_copyWait : (k.setCtx x v).copyWait = k.copyWait := rfl
@[simp] theorem Core.setCtx_slots : (k.setCtx x v).slots = k.slots := rfl
@[simp] theorem Core.setCtx_nodes : (k.setCtx x v).nodes = k.nodes := rfl
@[simp] theorem Core.setCtx_fired : (k.setCtx x v).fired = k.fired := rfl
@[simp] theorem Core.setCtx_seqrs : (k.setCtx x v).seqrs = k.seqrs := rfl
@[simp] theorem Core.setCtx_prims : (k.setCtx x v).prims = k.prims := rfl
@[simp] theorem Core.setCtx_primOut : (k.setCtx x v).primOut = k.primOut := rfl
@[simp] theorem Core.setCtx_locks : (k.setCtx x v).locks = k.locks := rfl
@[simp] theorem Core.setCtx_lockReqs : (k.setCtx x v).lockReqs = k.lockReqs := rfl
@[simp] theorem Core.setCtx_sent : (k.setCtx x v).sent = k.sent := rfl
@[simp] theorem Core.setCtx_issued : (k.setCtx x v).issued = k.issued := rfl
@[simp] theorem Core.setCtx_msgOut : (k.setCtx x v).msgOut = k.msgOut := rfl
@[simp] theorem Core.setCtx_msgIn : (k.setCtx x v).msgIn = k.msgIn := rfl
@[simp] theorem Core.setCtx_waddr : (k.setCtx x v).waddr = k.waddr := rfl
@[simp] theorem Core.setCtx_wctl : (k.setCtx x v).wctl = k.wctl := rfl
@[simp] theorem Core.setCtx_spill0 : (k.setCtx x v).spill0 = k.spill0 := rfl
@[simp] theorem Core.setCtx_spill1 : (k.setCtx x v).spill1 = k.spill1 := rfl
@[simp] theorem Core.setCtx_parkCtr : (k.setCtx x v).parkCtr = k.parkCtr := rfl
@[simp] theorem Core.setCtx_sfu : (k.setCtx x v).sfu = k.sfu := rfl
@[simp] theorem Core.setCtx_sfuWait : (k.setCtx x v).sfuWait = k.sfuWait := rfl
@[simp] theorem Core.setCtx_lastSfu : (k.setCtx x v).lastSfu = k.lastSfu := rfl
@[simp] theorem Core.setCtx_offers : (k.setCtx x v).offers = k.offers := rfl
@[simp] theorem Core.setCtx_counts : (k.setCtx x v).counts = k.counts := rfl
@[simp] theorem Core.setCtx_ring0 : (k.setCtx x v).ring0 = k.ring0 := rfl
@[simp] theorem Core.setCtx_ring1 : (k.setCtx x v).ring1 = k.ring1 := rfl
@[simp] theorem Core.setCtx_forced : (k.setCtx x v).forced = k.forced := rfl
end


/-- What a core holds beside its contexts is as it was after a change to a context. -/
theorem State.setCtx_core_keeps {β : Type} (g : Core → β) (c x : Nat) (v : Ctx) (r : Nat)
    (hg : ∀ k : Core, g (k.setCtx x v) = g k) : g ((s.setCtx c x v).core r) = g (s.core r) := by
  rw [State.setCtx_core]
  split
  · next h => rw [hg, h]
  · rfl

section
variable (c x r : Nat) (v : Ctx)
@[simp] theorem State.setCtx_core_cycle : ((s.setCtx c x v).core r).cycle = (s.core r).cycle :=
  s.setCtx_core_keeps (·.cycle) c x v r fun _ => rfl
@[simp] theorem State.setCtx_core_regs : ((s.setCtx c x v).core r).regs = (s.core r).regs :=
  s.setCtx_core_keeps (·.regs) c x v r fun _ => rfl
@[simp] theorem State.setCtx_core_scratch : ((s.setCtx c x v).core r).scratch = (s.core r).scratch :=
  s.setCtx_core_keeps (·.scratch) c x v r fun _ => rfl
@[simp] theorem State.setCtx_core_carve : ((s.setCtx c x v).core r).carve = (s.core r).carve :=
  s.setCtx_core_keeps (·.carve) c x v r fun _ => rfl
@[simp] theorem State.setCtx_core_frame : ((s.setCtx c x v).core r).frame = (s.core r).frame :=
  s.setCtx_core_keeps (·.frame) c x v r fun _ => rfl
@[simp] theorem State.setCtx_core_feedq : ((s.setCtx c x v).core r).feedq = (s.core r).feedq :=
  s.setCtx_core_keeps (·.feedq) c x v r fun _ => rfl
@[simp] theorem State.setCtx_core_l1 : ((s.setCtx c x v).core r).l1 = (s.core r).l1 :=
  s.setCtx_core_keeps (·.l1) c x v r fun _ => rfl
@[simp] theorem State.setCtx_core_icache : ((s.setCtx c x v).core r).icache = (s.core r).icache :=
  s.setCtx_core_keeps (·.icache) c x v r fun _ => rfl
@[simp] theorem State.setCtx_core_tlb : ((s.setCtx c x v).core r).tlb = (s.core r).tlb :=
  s.setCtx_core_keeps (·.tlb) c x v r fun _ => rfl
@[simp] theorem State.setCtx_core_fifos : ((s.setCtx c x v).core r).fifos = (s.core r).fifos :=
  s.setCtx_core_keeps (·.fifos) c x v r fun _ => rfl
@[simp] theorem State.setCtx_core_mail0 : ((s.setCtx c x v).core r).mail0 = (s.core r).mail0 :=
  s.setCtx_core_keeps (·.mail0) c x v r fun _ => rfl
@[simp] theorem State.setCtx_core_mail1 : ((s.setCtx c x v).core r).mail1 = (s.core r).mail1 :=
  s.setCtx_core_keeps (·.mail1) c x v r fun _ => rfl
@[simp] theorem State.setCtx_core_direct : ((s.setCtx c x v).core r).direct = (s.core r).direct :=
  s.setCtx_core_keeps (·.direct) c x v r fun _ => rfl
@[simp] theorem State.setCtx_core_directHeld : ((s.setCtx c x v).core r).directHeld = (s.core r).directHeld :=
  s.setCtx_core_keeps (·.directHeld) c x v r fun _ => rfl
@[simp] theorem State.setCtx_core_head : ((s.setCtx c x v).core r).head = (s.core r).head :=
  s.setCtx_core_keeps (·.head) c x v r fun _ => rfl
@[simp] theorem State.setCtx_core_asked : ((s.setCtx c x v).core r).asked = (s.core r).asked :=
  s.setCtx_core_keeps (·.asked) c x v r fun _ => rfl
@[simp] theorem State.setCtx_core_held : ((s.setCtx c x v).core r).held = (s.core r).held :=
  s.setCtx_core_keeps (·.held) c x v r fun _ => rfl
@[simp] theorem State.setCtx_core_trapq : ((s.setCtx c x v).core r).trapq = (s.core r).trapq :=
  s.setCtx_core_keeps (·.trapq) c x v r fun _ => rfl
@[simp] theorem State.setCtx_core_trapHeld : ((s.setCtx c x v).core r).trapHeld = (s.core r).trapHeld :=
  s.setCtx_core_keeps (·.trapHeld) c x v r fun _ => rfl
@[simp] theorem State.setCtx_core_seq : ((s.setCtx c x v).core r).seq = (s.core r).seq :=
  s.setCtx_core_keeps (·.seq) c x v r fun _ => rfl
@[simp] theorem State.setCtx_core_entryDue : ((s.setCtx c x v).core r).entryDue = (s.core r).entryDue :=
  s.setCtx_core_keeps (·.entryDue) c x v r fun _ => rfl
@[simp] theorem State.setCtx_core_winOpen : ((s.setCtx c x v).core r).winOpen = (s.core r).winOpen :=
  s.setCtx_core_keeps (·.winOpen) c x v r fun _ => rfl
@[simp] theorem State.setCtx_core_halted : ((s.setCtx c x v).core r).halted = (s.core r).halted :=
  s.setCtx_core_keeps (·.halted) c x v r fun _ => rfl
@[simp] theorem State.setCtx_core_frozen : ((s.setCtx c x v).core r).frozen = (s.core r).frozen :=
  s.setCtx_core_keeps (·.frozen) c x v r fun _ => rfl
@[simp] theorem State.setCtx_core_dead : ((s.setCtx c x v).core r).dead = (s.core r).dead :=
  s.setCtx_core_keeps (·.dead) c x v r fun _ => rfl
@[simp] theorem State.setCtx_core_mx : ((s.setCtx c x v).core r).mx = (s.core r).mx :=
  s.setCtx_core_keeps (·.mx) c x v r fun _ => rfl
@[simp] theorem State.setCtx_core_copies : ((s.setCtx c x v).core r).copies = (s.core r).copies :=
  s.setCtx_core_keeps (·.copies) c x v r fun _ => rfl
@[simp] theorem State.setCtx_core_lastCopy : ((s.setCtx c x v).core r).lastCopy = (s.core r).lastCopy :=
  s.setCtx_core_keeps (·.lastCopy) c x v r fun _ => rfl
@[simp] theorem State.setCtx_core_copySeq : ((s.setCtx c x v).core r).copySeq = (s.core r).copySeq :=
  s.setCtx_core_keeps (·.copySeq) c x v r fun _ => rfl
@[simp] theorem State.setCtx_core_copyWait : ((s.setCtx c x v).core r).copyWait = (s.core r).copyWait :=
  s.setCtx_core_keeps (·.copyWait) c x v r fun _ => rfl
@[simp] theorem State.setCtx_core_slots : ((s.setCtx c x v).core r).slots = (s.core r).slots :=
  s.setCtx_core_keeps (·.slots) c x v r fun _ => rfl
@[simp] theorem State.setCtx_core_nodes : ((s.setCtx c x v).core r).nodes = (s.core r).nodes :=
  s.setCtx_core_keeps (·.nodes) c x v r fun _ => rfl
@[simp] theorem State.setCtx_core_fired : ((s.setCtx c x v).core r).fired = (s.core r).fired :=
  s.setCtx_core_keeps (·.fired) c x v r fun _ => rfl
@[simp] theorem State.setCtx_core_seqrs : ((s.setCtx c x v).core r).seqrs = (s.core r).seqrs :=
  s.setCtx_core_keeps (·.seqrs) c x v r fun _ => rfl
@[simp] theorem State.setCtx_core_prims : ((s.setCtx c x v).core r).prims = (s.core r).prims :=
  s.setCtx_core_keeps (·.prims) c x v r fun _ => rfl
@[simp] theorem State.setCtx_core_primOut : ((s.setCtx c x v).core r).primOut = (s.core r).primOut :=
  s.setCtx_core_keeps (·.primOut) c x v r fun _ => rfl
@[simp] theorem State.setCtx_core_locks : ((s.setCtx c x v).core r).locks = (s.core r).locks :=
  s.setCtx_core_keeps (·.locks) c x v r fun _ => rfl
@[simp] theorem State.setCtx_core_lockReqs : ((s.setCtx c x v).core r).lockReqs = (s.core r).lockReqs :=
  s.setCtx_core_keeps (·.lockReqs) c x v r fun _ => rfl
@[simp] theorem State.setCtx_core_sent : ((s.setCtx c x v).core r).sent = (s.core r).sent :=
  s.setCtx_core_keeps (·.sent) c x v r fun _ => rfl
@[simp] theorem State.setCtx_core_issued : ((s.setCtx c x v).core r).issued = (s.core r).issued :=
  s.setCtx_core_keeps (·.issued) c x v r fun _ => rfl
@[simp] theorem State.setCtx_core_msgOut : ((s.setCtx c x v).core r).msgOut = (s.core r).msgOut :=
  s.setCtx_core_keeps (·.msgOut) c x v r fun _ => rfl
@[simp] theorem State.setCtx_core_msgIn : ((s.setCtx c x v).core r).msgIn = (s.core r).msgIn :=
  s.setCtx_core_keeps (·.msgIn) c x v r fun _ => rfl
@[simp] theorem State.setCtx_core_waddr : ((s.setCtx c x v).core r).waddr = (s.core r).waddr :=
  s.setCtx_core_keeps (·.waddr) c x v r fun _ => rfl
@[simp] theorem State.setCtx_core_wctl : ((s.setCtx c x v).core r).wctl = (s.core r).wctl :=
  s.setCtx_core_keeps (·.wctl) c x v r fun _ => rfl
@[simp] theorem State.setCtx_core_spill0 : ((s.setCtx c x v).core r).spill0 = (s.core r).spill0 :=
  s.setCtx_core_keeps (·.spill0) c x v r fun _ => rfl
@[simp] theorem State.setCtx_core_spill1 : ((s.setCtx c x v).core r).spill1 = (s.core r).spill1 :=
  s.setCtx_core_keeps (·.spill1) c x v r fun _ => rfl
@[simp] theorem State.setCtx_core_parkCtr : ((s.setCtx c x v).core r).parkCtr = (s.core r).parkCtr :=
  s.setCtx_core_keeps (·.parkCtr) c x v r fun _ => rfl
@[simp] theorem State.setCtx_core_sfu : ((s.setCtx c x v).core r).sfu = (s.core r).sfu :=
  s.setCtx_core_keeps (·.sfu) c x v r fun _ => rfl
@[simp] theorem State.setCtx_core_sfuWait : ((s.setCtx c x v).core r).sfuWait = (s.core r).sfuWait :=
  s.setCtx_core_keeps (·.sfuWait) c x v r fun _ => rfl
@[simp] theorem State.setCtx_core_lastSfu : ((s.setCtx c x v).core r).lastSfu = (s.core r).lastSfu :=
  s.setCtx_core_keeps (·.lastSfu) c x v r fun _ => rfl
@[simp] theorem State.setCtx_core_offers : ((s.setCtx c x v).core r).offers = (s.core r).offers :=
  s.setCtx_core_keeps (·.offers) c x v r fun _ => rfl
@[simp] theorem State.setCtx_core_counts : ((s.setCtx c x v).core r).counts = (s.core r).counts :=
  s.setCtx_core_keeps (·.counts) c x v r fun _ => rfl
@[simp] theorem State.setCtx_core_ring0 : ((s.setCtx c x v).core r).ring0 = (s.core r).ring0 :=
  s.setCtx_core_keeps (·.ring0) c x v r fun _ => rfl
@[simp] theorem State.setCtx_core_ring1 : ((s.setCtx c x v).core r).ring1 = (s.core r).ring1 :=
  s.setCtx_core_keeps (·.ring1) c x v r fun _ => rfl
@[simp] theorem State.setCtx_core_forced : ((s.setCtx c x v).core r).forced = (s.core r).forced :=
  s.setCtx_core_keeps (·.forced) c x v r fun _ => rfl
end
section
variable (c x r : Nat) (f : Ctx → Ctx)
@[simp] theorem State.onCtx_core_cycle : ((s.onCtx c x f).core r).cycle = (s.core r).cycle :=
  s.setCtx_core_keeps (·.cycle) c x _ r fun _ => rfl
@[simp] theorem State.onCtx_core_regs : ((s.onCtx c x f).core r).regs = (s.core r).regs :=
  s.setCtx_core_keeps (·.regs) c x _ r fun _ => rfl
@[simp] theorem State.onCtx_core_scratch : ((s.onCtx c x f).core r).scratch = (s.core r).scratch :=
  s.setCtx_core_keeps (·.scratch) c x _ r fun _ => rfl
@[simp] theorem State.onCtx_core_carve : ((s.onCtx c x f).core r).carve = (s.core r).carve :=
  s.setCtx_core_keeps (·.carve) c x _ r fun _ => rfl
@[simp] theorem State.onCtx_core_frame : ((s.onCtx c x f).core r).frame = (s.core r).frame :=
  s.setCtx_core_keeps (·.frame) c x _ r fun _ => rfl
@[simp] theorem State.onCtx_core_feedq : ((s.onCtx c x f).core r).feedq = (s.core r).feedq :=
  s.setCtx_core_keeps (·.feedq) c x _ r fun _ => rfl
@[simp] theorem State.onCtx_core_l1 : ((s.onCtx c x f).core r).l1 = (s.core r).l1 :=
  s.setCtx_core_keeps (·.l1) c x _ r fun _ => rfl
@[simp] theorem State.onCtx_core_icache : ((s.onCtx c x f).core r).icache = (s.core r).icache :=
  s.setCtx_core_keeps (·.icache) c x _ r fun _ => rfl
@[simp] theorem State.onCtx_core_tlb : ((s.onCtx c x f).core r).tlb = (s.core r).tlb :=
  s.setCtx_core_keeps (·.tlb) c x _ r fun _ => rfl
@[simp] theorem State.onCtx_core_fifos : ((s.onCtx c x f).core r).fifos = (s.core r).fifos :=
  s.setCtx_core_keeps (·.fifos) c x _ r fun _ => rfl
@[simp] theorem State.onCtx_core_mail0 : ((s.onCtx c x f).core r).mail0 = (s.core r).mail0 :=
  s.setCtx_core_keeps (·.mail0) c x _ r fun _ => rfl
@[simp] theorem State.onCtx_core_mail1 : ((s.onCtx c x f).core r).mail1 = (s.core r).mail1 :=
  s.setCtx_core_keeps (·.mail1) c x _ r fun _ => rfl
@[simp] theorem State.onCtx_core_direct : ((s.onCtx c x f).core r).direct = (s.core r).direct :=
  s.setCtx_core_keeps (·.direct) c x _ r fun _ => rfl
@[simp] theorem State.onCtx_core_directHeld : ((s.onCtx c x f).core r).directHeld = (s.core r).directHeld :=
  s.setCtx_core_keeps (·.directHeld) c x _ r fun _ => rfl
@[simp] theorem State.onCtx_core_head : ((s.onCtx c x f).core r).head = (s.core r).head :=
  s.setCtx_core_keeps (·.head) c x _ r fun _ => rfl
@[simp] theorem State.onCtx_core_asked : ((s.onCtx c x f).core r).asked = (s.core r).asked :=
  s.setCtx_core_keeps (·.asked) c x _ r fun _ => rfl
@[simp] theorem State.onCtx_core_held : ((s.onCtx c x f).core r).held = (s.core r).held :=
  s.setCtx_core_keeps (·.held) c x _ r fun _ => rfl
@[simp] theorem State.onCtx_core_trapq : ((s.onCtx c x f).core r).trapq = (s.core r).trapq :=
  s.setCtx_core_keeps (·.trapq) c x _ r fun _ => rfl
@[simp] theorem State.onCtx_core_trapHeld : ((s.onCtx c x f).core r).trapHeld = (s.core r).trapHeld :=
  s.setCtx_core_keeps (·.trapHeld) c x _ r fun _ => rfl
@[simp] theorem State.onCtx_core_seq : ((s.onCtx c x f).core r).seq = (s.core r).seq :=
  s.setCtx_core_keeps (·.seq) c x _ r fun _ => rfl
@[simp] theorem State.onCtx_core_entryDue : ((s.onCtx c x f).core r).entryDue = (s.core r).entryDue :=
  s.setCtx_core_keeps (·.entryDue) c x _ r fun _ => rfl
@[simp] theorem State.onCtx_core_winOpen : ((s.onCtx c x f).core r).winOpen = (s.core r).winOpen :=
  s.setCtx_core_keeps (·.winOpen) c x _ r fun _ => rfl
@[simp] theorem State.onCtx_core_halted : ((s.onCtx c x f).core r).halted = (s.core r).halted :=
  s.setCtx_core_keeps (·.halted) c x _ r fun _ => rfl
@[simp] theorem State.onCtx_core_frozen : ((s.onCtx c x f).core r).frozen = (s.core r).frozen :=
  s.setCtx_core_keeps (·.frozen) c x _ r fun _ => rfl
@[simp] theorem State.onCtx_core_dead : ((s.onCtx c x f).core r).dead = (s.core r).dead :=
  s.setCtx_core_keeps (·.dead) c x _ r fun _ => rfl
@[simp] theorem State.onCtx_core_mx : ((s.onCtx c x f).core r).mx = (s.core r).mx :=
  s.setCtx_core_keeps (·.mx) c x _ r fun _ => rfl
@[simp] theorem State.onCtx_core_copies : ((s.onCtx c x f).core r).copies = (s.core r).copies :=
  s.setCtx_core_keeps (·.copies) c x _ r fun _ => rfl
@[simp] theorem State.onCtx_core_lastCopy : ((s.onCtx c x f).core r).lastCopy = (s.core r).lastCopy :=
  s.setCtx_core_keeps (·.lastCopy) c x _ r fun _ => rfl
@[simp] theorem State.onCtx_core_copySeq : ((s.onCtx c x f).core r).copySeq = (s.core r).copySeq :=
  s.setCtx_core_keeps (·.copySeq) c x _ r fun _ => rfl
@[simp] theorem State.onCtx_core_copyWait : ((s.onCtx c x f).core r).copyWait = (s.core r).copyWait :=
  s.setCtx_core_keeps (·.copyWait) c x _ r fun _ => rfl
@[simp] theorem State.onCtx_core_slots : ((s.onCtx c x f).core r).slots = (s.core r).slots :=
  s.setCtx_core_keeps (·.slots) c x _ r fun _ => rfl
@[simp] theorem State.onCtx_core_nodes : ((s.onCtx c x f).core r).nodes = (s.core r).nodes :=
  s.setCtx_core_keeps (·.nodes) c x _ r fun _ => rfl
@[simp] theorem State.onCtx_core_fired : ((s.onCtx c x f).core r).fired = (s.core r).fired :=
  s.setCtx_core_keeps (·.fired) c x _ r fun _ => rfl
@[simp] theorem State.onCtx_core_seqrs : ((s.onCtx c x f).core r).seqrs = (s.core r).seqrs :=
  s.setCtx_core_keeps (·.seqrs) c x _ r fun _ => rfl
@[simp] theorem State.onCtx_core_prims : ((s.onCtx c x f).core r).prims = (s.core r).prims :=
  s.setCtx_core_keeps (·.prims) c x _ r fun _ => rfl
@[simp] theorem State.onCtx_core_primOut : ((s.onCtx c x f).core r).primOut = (s.core r).primOut :=
  s.setCtx_core_keeps (·.primOut) c x _ r fun _ => rfl
@[simp] theorem State.onCtx_core_locks : ((s.onCtx c x f).core r).locks = (s.core r).locks :=
  s.setCtx_core_keeps (·.locks) c x _ r fun _ => rfl
@[simp] theorem State.onCtx_core_lockReqs : ((s.onCtx c x f).core r).lockReqs = (s.core r).lockReqs :=
  s.setCtx_core_keeps (·.lockReqs) c x _ r fun _ => rfl
@[simp] theorem State.onCtx_core_sent : ((s.onCtx c x f).core r).sent = (s.core r).sent :=
  s.setCtx_core_keeps (·.sent) c x _ r fun _ => rfl
@[simp] theorem State.onCtx_core_issued : ((s.onCtx c x f).core r).issued = (s.core r).issued :=
  s.setCtx_core_keeps (·.issued) c x _ r fun _ => rfl
@[simp] theorem State.onCtx_core_msgOut : ((s.onCtx c x f).core r).msgOut = (s.core r).msgOut :=
  s.setCtx_core_keeps (·.msgOut) c x _ r fun _ => rfl
@[simp] theorem State.onCtx_core_msgIn : ((s.onCtx c x f).core r).msgIn = (s.core r).msgIn :=
  s.setCtx_core_keeps (·.msgIn) c x _ r fun _ => rfl
@[simp] theorem State.onCtx_core_waddr : ((s.onCtx c x f).core r).waddr = (s.core r).waddr :=
  s.setCtx_core_keeps (·.waddr) c x _ r fun _ => rfl
@[simp] theorem State.onCtx_core_wctl : ((s.onCtx c x f).core r).wctl = (s.core r).wctl :=
  s.setCtx_core_keeps (·.wctl) c x _ r fun _ => rfl
@[simp] theorem State.onCtx_core_spill0 : ((s.onCtx c x f).core r).spill0 = (s.core r).spill0 :=
  s.setCtx_core_keeps (·.spill0) c x _ r fun _ => rfl
@[simp] theorem State.onCtx_core_spill1 : ((s.onCtx c x f).core r).spill1 = (s.core r).spill1 :=
  s.setCtx_core_keeps (·.spill1) c x _ r fun _ => rfl
@[simp] theorem State.onCtx_core_parkCtr : ((s.onCtx c x f).core r).parkCtr = (s.core r).parkCtr :=
  s.setCtx_core_keeps (·.parkCtr) c x _ r fun _ => rfl
@[simp] theorem State.onCtx_core_sfu : ((s.onCtx c x f).core r).sfu = (s.core r).sfu :=
  s.setCtx_core_keeps (·.sfu) c x _ r fun _ => rfl
@[simp] theorem State.onCtx_core_sfuWait : ((s.onCtx c x f).core r).sfuWait = (s.core r).sfuWait :=
  s.setCtx_core_keeps (·.sfuWait) c x _ r fun _ => rfl
@[simp] theorem State.onCtx_core_lastSfu : ((s.onCtx c x f).core r).lastSfu = (s.core r).lastSfu :=
  s.setCtx_core_keeps (·.lastSfu) c x _ r fun _ => rfl
@[simp] theorem State.onCtx_core_offers : ((s.onCtx c x f).core r).offers = (s.core r).offers :=
  s.setCtx_core_keeps (·.offers) c x _ r fun _ => rfl
@[simp] theorem State.onCtx_core_counts : ((s.onCtx c x f).core r).counts = (s.core r).counts :=
  s.setCtx_core_keeps (·.counts) c x _ r fun _ => rfl
@[simp] theorem State.onCtx_core_ring0 : ((s.onCtx c x f).core r).ring0 = (s.core r).ring0 :=
  s.setCtx_core_keeps (·.ring0) c x _ r fun _ => rfl
@[simp] theorem State.onCtx_core_ring1 : ((s.onCtx c x f).core r).ring1 = (s.core r).ring1 :=
  s.setCtx_core_keeps (·.ring1) c x _ r fun _ => rfl
@[simp] theorem State.onCtx_core_forced : ((s.onCtx c x f).core r).forced = (s.core r).forced :=
  s.setCtx_core_keeps (·.forced) c x _ r fun _ => rfl
end

end Sys2Proof.Machine
end

