-- ==== Sys2Proof/Laws/Memory.lean ====
section
/-! SUPPORT. Memory and scratchpads by their one read and one write of a byte: a byte reads back, every other byte
stays, and the canonical form is kept. -/

namespace Sys2Proof.Machine

theorem State.setByte_byte (s : State) (k r : Nat) (b : Byte) :
    (s.setByte k b).byte r = if r = k then b else s.byte r := by
  unfold State.setByte State.byte
  by_cases hk : ownScr ≤ k <;> by_cases hr : ownScr ≤ r
  · simp only [hk, hr, if_true, State.onCore_core]
    by_cases hc : keyCore r = keyCore k
    · simp only [hc, if_true, NMap.get_putD]
      have : (r - ownScr) % 2 ^ 21 = (k - ownScr) % 2 ^ 21 ↔ r = k := by unfold keyCore at hc; omega
      simp only [this]
    · have : r ≠ k := fun h => hc (by rw [h])
      simp only [hc, this, if_false]
  · have : r ≠ k := by omega
    simp [hk, hr, this]
  · have : r ≠ k := by omega
    simp only [hk, hr, this, if_true, if_false, State.core]
  · simp only [hk, hr, if_false, NMap.get_putD]

@[simp] theorem State.setByte_byte_self (s : State) (k : Nat) (b : Byte) : (s.setByte k b).byte k = b := by
  simp [State.setByte_byte]

theorem State.setByte_byte_other (s : State) {k r : Nat} (h : r ≠ k) (b : Byte) : (s.setByte k b).byte r = s.byte r := by
  simp [State.setByte_byte, h]

/-- What holds before a range is written, and is kept by each byte of it, holds after. -/
theorem State.setBytes_keeps {P : State → Prop} : (bs : List Byte) → (s : State) → (k : Nat) →
    (∀ (t : State) i b, k ≤ i → i < k + bs.length → P t → P (t.setByte i b)) → P s → P (s.setBytes k bs)
  | [], _, _, _, h => h
  | b :: bs, s, k, hp, h => by
    have hl : (b :: bs).length = bs.length + 1 := rfl
    exact State.setBytes_keeps bs _ _ (fun t i c h1 h2 => hp t i c (by omega) (by omega))
      (hp s k b (Nat.le_refl k) (by omega) h)

/-- A byte outside the range written stays. -/
theorem State.setBytes_byte_outside (bs : List Byte) (s : State) (k r : Nat) (h : r < k ∨ k + bs.length ≤ r) :
    (s.setBytes k bs).byte r = s.byte r :=
  State.setBytes_keeps (P := fun t => t.byte r = s.byte r) bs s k
    (fun t i b h1 h2 ht => by rw [State.setByte_byte_other t (by omega), ht]) rfl

/-- A byte inside the range written reads as what was written. -/
theorem State.setBytes_byte_inside (bs : List Byte) (s : State) (k i : Nat) (h : i < bs.length) :
    (s.setBytes k bs).byte (k + i) = bs[i] := by
  fun_induction State.setBytes s k bs generalizing i with
  | case1 => cases h
  | case2 s k b bs ih =>
    match i with
    | 0 => exact (State.setBytes_byte_outside _ _ _ _ (.inl (Nat.lt_succ_self k))).trans (by simp)
    | n + 1 => rw [← Nat.add_assoc, Nat.add_right_comm]; exact ih n (Nat.lt_of_succ_lt_succ h)

/-- The range written reads back. -/
theorem State.setBytes_bytes (bs : List Byte) (s : State) (k : Nat) : (s.setBytes k bs).bytes k bs.length = bs := by
  apply List.ext_getElem
  · simp [State.bytes]
  · intro i h1 h2
    simp only [State.bytes, List.getElem_map, List.getElem_range]
    exact State.setBytes_byte_inside bs s k i h2

/-! ### The canonical form -/

theorem Memory.wf_putD {m : NMap Byte} (h : Memory.wf m = true) (i : Nat) (b : Byte) : Memory.wf (m.putD 0 i b) = true :=
  NMap.wf_putD h

theorem Memory.wf_filter {m : NMap Byte} (h : Memory.wf m = true) (p : Nat × Byte → Bool) :
    Memory.wf (m.filter p) = true := NMap.wf_filter h

/-- Setting a byte keeps the canonical form of memory and of every scratchpad. -/
theorem State.memWf_setByte {s : State} (h : s.memWf) (k : Nat) (b : Byte) : (s.setByte k b).memWf := by
  unfold State.setByte
  split
  · refine ⟨h.1, fun c => ?_⟩
    rw [State.onCore_core]
    split
    · exact Memory.wf_putD (h.2 _) _ _
    · exact h.2 c
  · exact ⟨Memory.wf_putD h.1 _ _, h.2⟩

/-- Setting bytes keeps the canonical form of memory and of every scratchpad. -/
theorem State.memWf_setBytes (bs : List Byte) {s : State} (h : s.memWf) (k : Nat) : (s.setBytes k bs).memWf :=
  State.setBytes_keeps bs s k (fun _ i b _ _ ht => State.memWf_setByte ht i b) h

theorem State.memWf_reset : State.reset.memWf := ⟨rfl, fun _ => rfl⟩

/-! ### What a written byte leaves as it was -/

@[simp] theorem State.setByte_dev (s : State) (k : Nat) (b : Byte) : (s.setByte k b).dev = s.dev := by
  unfold State.setByte; split <;> rfl

@[simp] theorem State.setByte_parts (s : State) (k : Nat) (b : Byte) : (s.setByte k b).parts = s.parts := by
  unfold State.setByte; split <;> rfl

@[simp] theorem State.setBytes_dev (bs : List Byte) (s : State) (k : Nat) : (s.setBytes k bs).dev = s.dev :=
  State.setBytes_keeps (P := fun t => t.dev = s.dev) bs s k (fun t i b _ _ ht => (State.setByte_dev t i b).trans ht) rfl

/-- Written bytes lie in no partition's registers. -/
@[simp] theorem State.setBytes_parts (bs : List Byte) (s : State) (k : Nat) : (s.setBytes k bs).parts = s.parts :=
  State.setBytes_keeps (P := (·.parts = s.parts)) bs s k (fun t _ _ _ _ h => h ▸ State.setByte_parts t _ _) rfl

end Sys2Proof.Machine
end

