-- ==== Sys2Proof/Laws/Issue.lean ====
section
/-! SUPPORT. The frame every instruction issues in: what it answers when its tests pass, and what completing leaves
unchanged. -/

namespace Sys2Proof.Machine

variable {s : State} {g : Gate} {h : Hdr} {srcs : List Opnd} {dsts : List Dst}

/-- An instruction's queue registers serve it, as `State.issue` tests it. -/
theorem State.serve_of (hs : s.Served srcs (dsts.map Prod.fst)) :
    (srcs.all (s.canPop s.cur s.actor srcs) && dsts.all fun d => s.canPush s.cur s.actor d.1) = true := by
  rw [Bool.and_eq_true, List.all_eq_true, List.all_eq_true]
  exact ⟨hs.pops, fun d hd => hs.pushes d.1 (List.mem_map_of_mem hd)⟩

/-- An instruction that goes on runs its own part again, unless it waits for queue registers that cannot serve it. -/
theorem State.issue_going (hg : s.me.going = true) (hw : s.me.woken = true → s.Served srcs (dsts.map Prod.fst)) (len : Nat)
    (body : List Word → State → Body) :
    s.issue g h len srcs dsts body =
      State.finish s.me s.cur s.actor h len srcs dsts (body (s.readOps s.cur s.actor [] srcs) s) := by
  have hg' : (s.ctx s.cur s.actor).going = true := hg
  unfold State.issue
  simp only [hg', if_true]
  split
  · next hc =>
    rw [Bool.and_eq_true] at hc
    have := State.serve_of (hw hc.1)
    simp [this] at hc
  · rfl

/-- When every test passes, an instruction's own part decides. -/
theorem State.issue_tested (hr : s.Tested g h srcs (dsts.map Prod.fst)) (hs : s.Served srcs (dsts.map Prod.fst)) (len : Nat)
    (body : List Word → State → Body) :
    s.issue g h len srcs dsts body =
      State.finish s.me s.cur s.actor h len srcs dsts (body (s.readOps s.cur s.actor [] srcs) s) := by
  obtain ⟨h0, h1, h2, h3, h4, h5, h6, h7, h8, h9⟩ := hr
  have e0 : (s.ctx s.cur s.actor).going = false := h0
  have e2 : srcs.all (Ctx.readable s.actor (s.ctx s.cur s.actor)) = true := List.all_eq_true.2 h2
  have e3 : (dsts.all fun d => Ctx.writable s.actor (s.ctx s.cur s.actor) d.1) = true := by
    rw [List.all_eq_true]; exact fun d hd => h3 d.1 (List.mem_map_of_mem hd)
  have e5 : (Ctx.checked s.actor (s.ctx s.cur s.actor) &&
      Ctx.fixPending (s.core s.cur).turn (s.ctx s.cur s.actor) (guardOpnd h)) = false := by
    cases hc : Ctx.checked s.actor (s.ctx s.cur s.actor) with
    | false => rfl
    | true => exact h5 hc
  have h7' : ∀ o ∈ srcs, (s.ctx s.cur s.actor).varPending o = false := h7
  have h8' : ∀ o ∈ dsts.map Prod.fst, (s.ctx s.cur s.actor).dstPending o = false := h8
  have e7 : srcs.any (s.ctx s.cur s.actor).varPending = false := by
    rw [List.any_eq_false]; exact fun o ho => by rw [h7' o ho]; exact Bool.false_ne_true
  have e8 : (dsts.any fun d => (s.ctx s.cur s.actor).dstPending d.1) = false := by
    rw [List.any_eq_false]; exact fun d hd => by rw [h8' d.1 (List.mem_map_of_mem hd)]; exact Bool.false_ne_true
  have e9 : (if Ctx.checked s.actor (s.ctx s.cur s.actor) then
      srcs.find? ((s.ctx s.cur s.actor).fixPending (s.core s.cur).turn) else none) = none := by
    split
    · next hc =>
      have h9' : ∀ o ∈ srcs, (s.ctx s.cur s.actor).fixPending (s.core s.cur).turn o = false := h9 hc
      rw [List.find?_eq_none]
      exact fun o ho => by rw [h9' o ho]; exact Bool.false_ne_true
    · rfl
  have h4' : (s.ctx s.cur s.actor).varPending (guardOpnd h) = false := h4
  unfold State.issue
  simp only [e0, h1, e2, e3, h4', e5, h6, e7, e8, e9, State.serve_of hs, Bool.and_self, Bool.not_true, Bool.or_self,
    Bool.false_eq_true, if_false, if_true]
  rfl

/-- When its instruction runs in a slot, its own part decides. -/
theorem State.issue_ready (hr : s.Ready g h srcs (dsts.map Prod.fst)) (len : Nat) (body : List Word → State → Body) :
    s.issue g h len srcs dsts body =
      State.finish s.me s.cur s.actor h len srcs dsts (body (s.readOps s.cur s.actor [] srcs) s) :=
  hr.elim (fun hg => State.issue_going hg.1 hg.2 len body) fun ht => State.issue_tested ht.1 ht.2 len body

/-- The values of one, two, three and four sources, each read after those ahead of it. -/
theorem State.readOps_one (a : Opnd) : s.readOps s.cur s.actor [] [a] = [s.operand [] a] := rfl

theorem State.readOps_two (a b : Opnd) :
    s.readOps s.cur s.actor [] [a, b] = [s.operand [] a, s.operand [a] b] := rfl

theorem State.readOps_three (a b c : Opnd) :
    s.readOps s.cur s.actor [] [a, b, c] = [s.operand [] a, s.operand [a] b, s.operand [a, b] c] := rfl

theorem State.readOps_four (a b c e : Opnd) : s.readOps s.cur s.actor [] [a, b, c, e] =
    [s.operand [] a, s.operand [a] b, s.operand [a, b] c, s.operand [a, b, c] e] := rfl

/-- An instruction that only computes completes with its value. -/
theorem compute_ready {d : Opnd} (hr : s.Ready .any h srcs [d]) (len lat : Nat) (f : List Word → Word) :
    compute h len srcs d lat f s = .next (s.done h len srcs [(d, some lat)] [f (s.readOps s.cur s.actor [] srcs)]) := by
  unfold compute
  rw [State.issue_ready (dsts := [(d, some lat)]) hr]
  rfl

/-- How an instruction whose tests pass ends, by how its own part does. -/
theorem State.issue_done {t : State} {vals : List Word} {len : Nat} {body : List Word → State → Body}
    (hr : s.Ready g h srcs (dsts.map Prod.fst)) (hb : body (s.readOps s.cur s.actor [] srcs) s = .done t vals .fall) :
    s.issue g h len srcs dsts body = s.doneFrom t h len srcs dsts vals := by
  rw [State.issue_ready hr, hb]; rfl

theorem State.issue_jump {t : State} {vals : List Word} {len : Nat} {body : List Word → State → Body} {pc : Word}
    (hr : s.Ready g h srcs (dsts.map Prod.fst)) (hb : body (s.readOps s.cur s.actor [] srcs) s = .done t vals (.jump pc)) :
    s.issue g h len srcs dsts body = t.retire s.cur s.actor h len srcs dsts vals (.jump pc) := by
  rw [State.issue_ready hr, hb]; rfl

theorem State.issue_trap {t : State} {kind len : Nat} {info arg : Word} {body : List Word → State → Body}
    (hr : s.Ready g h srcs (dsts.map Prod.fst)) (hb : body (s.readOps s.cur s.actor [] srcs) s = .trap t kind info arg) :
    s.issue g h len srcs dsts body = t.takeTrap s.cur s.actor kind info arg := by
  rw [State.issue_ready hr, hb]; rfl

theorem State.issue_wait {t : State} {len : Nat} {body : List Word → State → Body}
    (hr : s.Ready g h srcs (dsts.map Prod.fst)) (hb : body (s.readOps s.cur s.actor [] srcs) s = .wait t) :
    s.issue g h len srcs dsts body = t := by
  rw [State.issue_ready hr, hb]; rfl

theorem State.issue_park {t : State} {len : Nat} {body : List Word → State → Body} {w : Wake}
    (hr : s.Ready g h srcs (dsts.map Prod.fst)) (hb : body (s.readOps s.cur s.actor [] srcs) s = .park t w) :
    s.issue g h len srcs dsts body = t.parkCtx s.cur s.actor w := by
  rw [State.issue_ready hr, hb]; rfl

/-- A form that the context may not issue traps as illegal-instruction. -/
theorem State.issue_gate (h0 : s.me.going = false) (hg : g.refuses s.actor = true) (len : Nat) (body : List Word → State → Body) :
    s.issue g h len srcs dsts body = s.takeTrap s.cur s.actor kIllegal 0 0 := by
  have h0' : (s.ctx s.cur s.actor).going = false := h0
  unfold State.issue; simp [h0', hg]

end Sys2Proof.Machine
end

