-- ==== Sys2Proof/Laws/Matrix.lean ====
section
/-! SUPPORT. The sizes of byte lists: a number's bytes, and a matrix engine's contents in the spill area. -/

namespace Sys2Proof.Machine

@[simp] theorem toBytes_length (n v : Nat) : (toBytes n v).length = n := by
  induction n generalizing v <;> simp [toBytes, *]

/-- Equal pieces laid one after the other. -/
theorem length_flatMap_const {α β : Type} {n : Nat} (f : α → List β) (h : ∀ a, (f a).length = n) (l : List α) :
    (l.flatMap f).length = l.length * n := by
  induction l with
  | nil => simp
  | cons a l ih => rw [List.flatMap_cons, List.length_append, h, ih, List.length_cons, Nat.succ_mul, Nat.add_comm]

/-- R363: an engine's array is 49,152 bytes and its accumulator 147,456. -/
@[simp] theorem Matrix.spillBytes_length (v : Matrix) : v.spillBytes.length = 196608 := by
  rw [Matrix.spillBytes, List.length_append, length_flatMap_const _ fun i => toBytes_length 4 _]
  simp only [List.length_map, List.length_range]

end Sys2Proof.Machine
end

