-- ==== Sys2Proof/Laws/Port.lean ====
section
/-! SUPPORT. What a transaction's way to its port changes: a port and the counter of free values, and nothing else. -/

namespace Sys2Proof.Machine

variable (s : State) (key : Nat)

/-- A transaction to another device changes nothing but the ports and the counter of free values (R390). -/
theorem State.transact_frame : ∃ n ps, s.transact key = { s with free := n, dev := { s.dev with ports := ps } } := by
  unfold State.transact
  dsimp only
  split
  · exact ⟨s.free, s.dev.ports, rfl⟩
  · exact ⟨s.free + 1, _, rfl⟩

/-- What reads neither the ports nor the counter of free values reads the same after a transaction has left. -/
theorem State.transact_keeps {α : Type} (f : State → α)
    (h : ∀ n ps, f { s with free := n, dev := { s.dev with ports := ps } } = f s) : f (s.transact key) = f s := by
  obtain ⟨n, ps, e⟩ := s.transact_frame key
  rw [e, h]

@[simp] theorem State.transact_cur : (s.transact key).cur = s.cur := s.transact_keeps key (·.cur) fun _ _ => rfl
@[simp] theorem State.transact_cores : (s.transact key).cores = s.cores := s.transact_keeps key (·.cores) fun _ _ => rfl
@[simp] theorem State.transact_parts : (s.transact key).parts = s.parts := s.transact_keeps key (·.parts) fun _ _ => rfl
@[simp] theorem State.transact_mem : (s.transact key).mem = s.mem := s.transact_keeps key (·.mem) fun _ _ => rfl
@[simp] theorem State.transact_posted : (s.transact key).posted = s.posted := s.transact_keeps key (·.posted) fun _ _ => rfl
@[simp] theorem State.transact_agenda : (s.transact key).agenda = s.agenda := s.transact_keeps key (·.agenda) fun _ _ => rfl
@[simp] theorem State.transact_core (c : Nat) : (s.transact key).core c = s.core c :=
  s.transact_keeps key (·.core c) fun _ _ => rfl
@[simp] theorem State.transact_ctx (c x : Nat) : (s.transact key).ctx c x = s.ctx c x :=
  s.transact_keeps key (·.ctx c x) fun _ _ => rfl
@[simp] theorem State.transact_byte (k : Nat) : (s.transact key).byte k = s.byte k :=
  s.transact_keeps key (·.byte k) fun _ _ => rfl

end Sys2Proof.Machine
end

