-- ==== Sys2Proof/Tests/Slice0.lean ====
section
/-! SUPPORT. Tests on fixed values, from the spec's encodings, worked examples and tables; and, for the statements of
Obligations, states that meet their hypotheses. -/

namespace Sys2Proof.Tests

open Sys2Proof Sys2Proof.Machine

set_option Elab.async false

/-! ### Encodings, written out from R136, R137 and the opcode map of R141 -/

/-- Guard c0, WAIT 0. -/
def h0 : Hdr := ⟨0, 0, false⟩

/-- Bits [43:0] of an instruction: LEN, MAJ, DST, SA, SB and MIN (R136). -/
def head (len maj dst sa sb mn : Nat) : Nat :=
  len + maj * 2 ^ 2 + dst * 2 ^ 15 + sa * 2 ^ 22 + sb * 2 ^ 29 + mn * 2 ^ 36
/-- Format S: IMM20 at [63:44]. -/
def fmtS (maj mn dst sa sb imm : Nat) : Nat := head 0 maj dst sa sb mn + imm * 2 ^ 44
/-- Format T: SC at [50:44], IMM13 at [63:51]. -/
def fmtT (maj mn dst sa sb sc imm : Nat) : Nat := head 0 maj dst sa sb mn + sc * 2 ^ 44 + imm * 2 ^ 51
/-- Format L: IMM52 at [95:44]. -/
def fmtL (maj mn dst imm : Nat) : Nat := head 1 maj dst 0 0 mn + imm * 2 ^ 44
/-- Format Q: SC at [50:44], SD at [57:51], IMM38 at [95:58]. -/
def fmtQ (maj mn dst sa sb sc sd imm : Nat) : Nat :=
  head 1 maj dst sa sb mn + sc * 2 ^ 44 + sd * 2 ^ 51 + imm * 2 ^ 58
/-- Format X: SHA, SHB, SHC, SHD at [59:44], XF at [63:60], CTL at [127:64]. -/
def fmtX (maj mn dst sa sb sha shb shc shd xf ctl : Nat) : Nat :=
  head 2 maj dst sa sb mn + sha * 2 ^ 44 + shb * 2 ^ 48 + shc * 2 ^ 52 + shd * 2 ^ 56 + xf * 2 ^ 60 + ctl * 2 ^ 64

/-- A 128-bit word from its low half and its CTL. -/
def x128 (low ctl : Nat) : Nat := low + ctl * 2 ^ 64

/-- The spec's worked words: R149, R161, R163, R165, R169, R184, R189. -/
theorem test_worked_words_scalar :
    decodeTableWord 64 0x0000000040428004 = some (.add h0 .i64 5 1 2) ∧
    decodeTableWord 64 0x000000B10244D920 = some (.fadd ⟨1, 3, true⟩ .bf16 9 9 8 0) ∧
    decodeTableWord 64 0x9640004000830010 = some (.ext h0 6 2 8 11 true) ∧
    decodeTableWord 64 0xFFF4201001708014 = some (.cmpi h0 0x61 5 2 .i64 0x3FFD) ∧
    decodeTableWord 64 0x0002D0700245001C = some (.cvt h0 .n8 10 9 1 .bf16) ∧
    decodeTableWord 64 0x0000339020428020 = some (.fma h0 .f32 5 1 1 3 0) ∧
    decodeTableWord 64 0xFFFFD00000000830 = some (.br ⟨0, 1, false⟩ 0xFFFFD) ∧
    decodeTableWord 64 0x0000007001430040 = some (.ld h0 .n8 6 5 0) ∧
    decodeTableWord 64 0x0000000122800044 = some (.st h0 .i64 10 9 0) ∧
    decodeTableWord 64 0x0001800000C30040 = some (.ld h0 .i64 6 3 24) := by decide +kernel

/-- The spec's worked words of strands, queues, signals and shapes: R198, R203, R210, R217, R227. -/
theorem test_worked_words_strand :
    decodeTableWord 64 0x0000101001000054 = some (.sigadd h0 4 0 1) ∧
    decodeTableWord 96 0x00000143FC407030C1400051 = some (.putq h0 5 6 7 8 0xFF true 2) ∧
    decodeTableWord 96 0x00FFFFFF0000300041C28081 = some (.spawn h0 5 7 2 3 0 0x1FFFFFC0 1) ∧
    decodeTableWord 64 0x0000003001828088 = some (.dqsteal h0 5 6) ∧
    decodeTableWord 64 0x00023000014000A0 = some (.ldshp h0 5 3 2) ∧
    decodeTableWord 64 0x00021020038000A0 = some (.shpset h0 14 1 2) := by decide +kernel

/-- The spec's worked words of tensor and matrix instructions: R228, R243. -/
theorem test_worked_words_matrix :
    decodeTableWord 128 (x128 0x00433000000000A6 0xB) = some (.tadd h0 0 3 3 4 false .bf16 0 false) ∧
    decodeTableWord 128 (x128 0x10011050000000A6 0xB) = some (.tmax h0 0 1 1 0 true .bf16 0) ∧
    decodeTableWord 64 0x00002000000000C0 = some (.mmgang h0 2) ∧
    decodeTableWord 64 0x00000040000000C0 = some (.mmz h0 false) ∧
    decodeTableWord 64 0x00001040000000C0 = some (.mmz h0 true) ∧
    decodeTableWord 128 (x128 0x00200010000000C2 0) = some (.mmldb h0 2) ∧
    decodeTableWord 128 (x128 0x00010020000000C2 0x600000) = some (.mma h0 1 96) ∧
    decodeTableWord 128 (x128 0x00005030000000C2 0x8600010) = some (.mmst h0 5 1 96 8) := by decide +kernel

/-- The spec's worked words of copies, graphs and refinement: R256, R262 to R268, R278. -/
theorem test_worked_words_engines :
    decodeTableWord 128 (x128 0x00013000014000C6 0x30) = some (.cpy h0 5 0 3 1 3 false) ∧
    decodeTableWord 128 (x128 0x00054010E18000C6 0x20) = some (.cpyred h0 6 7 4 5 2 false 0) ∧
    decodeTableWord 128 (x128 0x002BA020000000C6 0x40000) = some (.cpymm h0 0 0 10 11 2 0 false 1 0) ∧
    decodeTableWord 64 0x00800000C14000C8 = some (.dgn h0 5 6 0 0 2) ∧
    decodeTableWord 64 0x00000010014000C8 = some (.dgdec h0 5) ∧
    decodeTableWord 64 0x00000020C14000C8 = some (.engfork h0 5 6) ∧
    decodeTableWord 64 0x00000030000000C8 = some (.engrend h0 false) ∧
    decodeTableWord 64 0x00001030000000C8 = some (.engrend h0 true) ∧
    decodeTableWord 128 0x008000CE = some (.rfstart h0 2) ∧
    decodeTableWord 128 0x10014300CE = some (.rfstat h0 6 5) := by decide +kernel

/-- The spec's worked words of pixels, emission and CTXSTAT: R289, R355. -/
theorem test_worked_words_pixels :
    decodeTableWord 128 (x128 0x00000000C14000E2 0x20) = some (.tribin h0 5 6 0 2 0) ∧
    decodeTableWord 128 (x128 0x00000010014000E2 0x4001B0) = some (.rast h0 5 0 3 true true 64) ∧
    decodeTableWord 128 (x128 0x00000020C14000E2 0) = some (.pxlock h0 5 6) ∧
    decodeTableWord 128 (x128 0x00000030C14000E2 0) = some (.pxrel h0 5 6) ∧
    decodeTableWord 64 0x00000000C14380E4 = some (.emit h0 7 5 6 false) ∧
    decodeTableWord 64 0x00001010014380E4 = some (.emstat h0 7 5 1) ∧
    decodeTableWord 64 0x0000004000048084 = some (.ctxstat h0 9 0) := by decide +kernel

/-- MAJ 0x00 (R141): TRAP and BRK with a code, MFS and MTS with a number, WAITE, STOP, TLBINV, CTXRD, CTXWR. -/
theorem test_decode_sys :
    decodeTableWord 64 (fmtS 0 0 0 0 0 0) = some (.nop h0) ∧
    decodeTableWord 64 (fmtS 0 1 0 9 0 0x80001) = some (.trap h0 9 0x80001) ∧
    decodeTableWord 64 (fmtS 0 2 0 0 0 0) = some (.tret h0) ∧
    decodeTableWord 64 (fmtS 0 3 0 0 0 1) = some (.tren h0 true) ∧
    decodeTableWord 64 (fmtS 0 4 3 4 0 0x801) = some (.mfs h0 3 4 0x801) ∧
    decodeTableWord 64 (fmtS 0 5 0 4 5 0x013) = some (.mts h0 4 5 0x013) ∧
    decodeTableWord 64 (fmtS 0 6 0 9 0 7) = some (.brk h0 9 7) ∧
    decodeTableWord 64 (fmtS 0 7 3 4 0 1) = some (.waite h0 3 4 true) ∧
    decodeTableWord 64 (fmtS 0 8 0 0 0 2) = some (.stop h0 2) ∧
    decodeTableWord 64 (fmtS 0 9 0 0 0 (1 + 9 * 2 ^ 4)) = some (.tlbinv h0 0 1 9) ∧
    decodeTableWord 64 (fmtS 0 0xA 3 4 0 0x80) = some (.ctxrd h0 3 4 0x80) ∧
    decodeTableWord 64 (fmtS 0 0xB 0 4 5 0x54) = some (.ctxwr h0 4 5 0x54) := by decide +kernel

/-- MAJ 0x01 (R141): OP 0 to 7 with a type each. -/
theorem test_decode_iarith :
    decodeTableWord 64 (fmtS 1 0 5 1 2 0) = some (.add h0 .i64 5 1 2) ∧
    decodeTableWord 64 (fmtS 1 17 5 1 2 0) = some (.sub h0 .i32 5 1 2) ∧
    decodeTableWord 64 (fmtS 1 34 5 1 2 0) = some (.mul h0 .i16 5 1 2) ∧
    decodeTableWord 64 (fmtS 1 51 5 1 2 0) = some (.mulh h0 .i8 5 1 2) ∧
    decodeTableWord 64 (fmtS 1 68 5 1 2 0) = some (.div h0 .n64 5 1 2) ∧
    decodeTableWord 64 (fmtS 1 85 5 1 2 0) = some (.rem h0 .n32 5 1 2) ∧
    decodeTableWord 64 (fmtS 1 102 5 1 2 0) = some (.min h0 .n16 5 1 2) ∧
    decodeTableWord 64 (fmtS 1 119 5 1 2 0) = some (.max h0 .n8 5 1 2) := by decide +kernel

/-- MAJ 0x02 (R141): OP 0 to 0xA at TY 0 and 1. -/
theorem test_decode_ilogic :
    decodeTableWord 64 (fmtS 2 0 5 1 2 0) = some (.and h0 .i64 5 1 2) ∧
    decodeTableWord 64 (fmtS 2 17 5 1 2 0) = some (.or h0 .i32 5 1 2) ∧
    decodeTableWord 64 (fmtS 2 32 5 1 2 0) = some (.xor h0 .i64 5 1 2) ∧
    decodeTableWord 64 (fmtS 2 49 5 1 2 0) = some (.andn h0 .i32 5 1 2) ∧
    decodeTableWord 64 (fmtS 2 64 5 1 2 0) = some (.shl h0 .i64 5 1 2) ∧
    decodeTableWord 64 (fmtS 2 81 5 1 2 0) = some (.shr h0 .i32 5 1 2) ∧
    decodeTableWord 64 (fmtS 2 96 5 1 2 0) = some (.shra h0 .i64 5 1 2) ∧
    decodeTableWord 64 (fmtS 2 113 5 1 2 0) = some (.rot h0 .i32 5 1 2) ∧
    decodeTableWord 64 (fmtS 2 128 5 1 0 0) = some (.clz h0 .i64 5 1) ∧
    decodeTableWord 64 (fmtS 2 145 5 1 0 0) = some (.ctz h0 .i32 5 1) ∧
    decodeTableWord 64 (fmtS 2 160 5 1 0 0) = some (.popc h0 .i64 5 1) := by decide +kernel

/-- MAJ 0x03 (R141, R156): a negative immediate; an amount above 63. -/
theorem test_decode_iimm :
    decodeTableWord 64 (fmtS 3 0 5 1 0 0xFFFFF) = some (.addi h0 5 1 0xFFFFF) ∧
    decodeTableWord 64 (fmtS 3 1 5 1 0 0xFFFFF) = some (.andi h0 5 1 0xFFFFF) ∧
    decodeTableWord 64 (fmtS 3 2 5 1 0 0xFFFFF) = some (.ori h0 5 1 0xFFFFF) ∧
    decodeTableWord 64 (fmtS 3 3 5 1 0 0xFFFFF) = some (.xori h0 5 1 0xFFFFF) ∧
    decodeTableWord 64 (fmtS 3 4 5 1 0 0x81) = some (.shli h0 5 1 0x81) ∧
    decodeTableWord 64 (fmtS 3 5 5 1 0 0x81) = some (.shri h0 5 1 0x81) ∧
    decodeTableWord 64 (fmtS 3 6 5 1 0 0x81) = some (.shrai h0 5 1 0x81) := by decide +kernel

/-- MAJ 0x04 and 0x05 (R141, R157 to R163). -/
theorem test_decode_move_cond :
    decodeTableWord 64 (fmtS 4 0 5 1 0 0) = some (.mov h0 5 1) ∧
    decodeTableWord 96 (fmtL 4 1 5 0x8000000000001) = some (.li h0 5 0x8000000000001) ∧
    decodeTableWord 96 (fmtL 4 2 5 3) = some (.addpc h0 5 3) ∧
    decodeTableWord 64 (fmtT 4 3 5 1 2 3 0) = some (.sel h0 5 1 2 3) ∧
    decodeTableWord 64 (fmtT 4 4 5 1 0 0 (63 + 1 * 2 ^ 6)) = some (.ext h0 5 1 63 1 false) ∧
    decodeTableWord 64 (fmtT 4 5 5 1 2 0 (1 + 63 * 2 ^ 6)) = some (.ins h0 5 1 2 1 63) ∧
    decodeTableWord 64 (fmtS 5 0 5 1 2 (5 + 7 * 2 ^ 3)) = some (.cmp h0 5 1 2 5 .n8) ∧
    decodeTableWord 64 (fmtS 5 1 5 1 0 (7 + 1 * 2 ^ 3 + 0x2001 * 2 ^ 6)) = some (.cmpi h0 5 1 7 .i32 0x2001) ∧
    decodeTableWord 64 (fmtS 5 2 5 1 2 0xA) = some (.clog h0 5 1 2 0xA) := by decide +kernel

/-- MAJ 0x06 (R141): OP 0 to 9 with a lane type each. -/
theorem test_decode_packed :
    decodeTableWord 64 (fmtS 6 1 5 1 2 0) = some (.padd h0 .i32 5 1 2) ∧
    decodeTableWord 64 (fmtS 6 18 5 1 2 0) = some (.psub h0 .i16 5 1 2) ∧
    decodeTableWord 64 (fmtS 6 35 5 1 2 0) = some (.padds h0 .i8 5 1 2) ∧
    decodeTableWord 64 (fmtS 6 53 5 1 2 0) = some (.psubs h0 .n32 5 1 2) ∧
    decodeTableWord 64 (fmtS 6 70 5 1 2 0) = some (.pmul h0 .n16 5 1 2) ∧
    decodeTableWord 64 (fmtS 6 87 5 1 2 0) = some (.pmin h0 .n8 5 1 2) ∧
    decodeTableWord 64 (fmtS 6 97 5 1 2 0) = some (.pmax h0 .i32 5 1 2) ∧
    decodeTableWord 64 (fmtS 6 114 5 1 2 0) = some (.pshl h0 .i16 5 1 2) ∧
    decodeTableWord 64 (fmtS 6 131 5 1 2 0) = some (.pshr h0 .i8 5 1 2) ∧
    decodeTableWord 64 (fmtS 6 149 5 1 2 0) = some (.pshra h0 .n32 5 1 2) := by decide +kernel

/-- MAJ 0x07 to 0x09 (R141, R165): RM, SRC, DIR, SOP, REL and Q in their places. -/
theorem test_decode_float :
    decodeTableWord 64 (fmtS 7 0x0C 5 1 0 (3 + 0xC * 2 ^ 2)) = some (.cvt h0 .m8 5 1 3 .m8) ∧
    decodeTableWord 64 (fmtS 7 0x19 5 1 2 (2 + 1 * 2 ^ 2)) = some (.cvtn h0 .f32 5 1 2 2 true) ∧
    decodeTableWord 64 (fmtS 8 0x08 5 1 2 1) = some (.fadd h0 .f64 5 1 2 1) ∧
    decodeTableWord 64 (fmtS 8 0x19 5 1 2 2) = some (.fsub h0 .f32 5 1 2 2) ∧
    decodeTableWord 64 (fmtS 8 0x2A 5 1 2 3) = some (.fmul h0 .f16 5 1 2 3) ∧
    decodeTableWord 64 (fmtT 8 0x3B 5 1 2 3 2) = some (.fma h0 .bf16 5 1 2 3 2) ∧
    decodeTableWord 64 (fmtS 8 0x48 5 1 2 0) = some (.fmin h0 .f64 5 1 2) ∧
    decodeTableWord 64 (fmtS 8 0x59 5 1 2 0) = some (.fmax h0 .f32 5 1 2) ∧
    decodeTableWord 64 (fmtS 8 0x6A 5 1 2 2) = some (.fsgn h0 .f16 5 1 2 2) ∧
    decodeTableWord 64 (fmtS 9 0x0B 5 1 2 (5 + 1 * 2 ^ 3)) = some (.fcmp h0 .bf16 5 1 2 5 true) ∧
    decodeTableWord 64 (fmtS 9 0x18 5 1 0 0) = some (.fclass h0 .f64 5 1) := by decide +kernel

/-- MAJ 0x0A (R141): FDIV has a second source; OP 4 to 8 take f32 and f16. -/
theorem test_decode_fsfu :
    decodeTableWord 64 (fmtS 0xA 8 5 1 2 0) = some (.fdiv h0 .f64 5 1 2 0) ∧
    decodeTableWord 64 (fmtS 0xA 24 5 1 0 1) = some (.fsqrt h0 .f64 5 1 1) ∧
    decodeTableWord 64 (fmtS 0xA 40 5 1 0 2) = some (.frcp h0 .f64 5 1 2) ∧
    decodeTableWord 64 (fmtS 0xA 56 5 1 0 3) = some (.frsq h0 .f64 5 1 3) ∧
    decodeTableWord 64 (fmtS 0xA 73 5 1 0 0) = some (.fexp2 h0 .f32 5 1 0) ∧
    decodeTableWord 64 (fmtS 0xA 90 5 1 0 1) = some (.flog2 h0 .f16 5 1 1) ∧
    decodeTableWord 64 (fmtS 0xA 105 5 1 0 2) = some (.fsin h0 .f32 5 1 2) ∧
    decodeTableWord 64 (fmtS 0xA 122 5 1 0 3) = some (.fcos h0 .f16 5 1 3) ∧
    decodeTableWord 64 (fmtS 0xA 137 5 1 0 0) = some (.ftanh h0 .f32 5 1 0) := by decide +kernel

/-- MAJ 0x0C (R141). -/
theorem test_decode_branch :
    decodeTableWord 64 (fmtS 0xC 0 0 0 0 0x80000) = some (.br h0 0x80000) ∧
    decodeTableWord 96 (fmtL 0xC 1 0 0xFFFFFFFFFFFFF) = some (.j h0 0xFFFFFFFFFFFFF) ∧
    decodeTableWord 64 (fmtS 0xC 2 5 0 0 4) = some (.jl h0 5 4) ∧
    decodeTableWord 64 (fmtS 0xC 3 5 1 0 4) = some (.jr h0 5 1 4) ∧
    decodeTableWord 64 (fmtS 0xC 4 5 1 0 4) = some (.loop h0 5 1 4) ∧
    decodeTableWord 64 (fmtT 0xC 5 5 1 2 0 0x1FFF) = some (.tsts h0 5 1 2 0x1FFF) := by decide +kernel

/-- MAJ 0x10 to 0x13 (R141, R185). -/
theorem test_decode_memory :
    decodeTableWord 64 (fmtS 0x10 0x0C 5 1 0 0xFFFFF) = some (.ld h0 .m8 5 1 0xFFFFF) ∧
    decodeTableWord 64 (fmtT 0x10 0x13 5 1 2 0 0x1000) = some (.ldx h0 .i8 5 1 2 0x1000) ∧
    decodeTableWord 64 (fmtS 0x10 0x28 5 1 0 8) = some (.ldp h0 .f64 5 1 8) ∧
    decodeTableWord 64 (fmtS 0x11 0x02 0 1 2 2) = some (.st h0 .i16 1 2 2) ∧
    decodeTableWord 64 (fmtT 0x11 0x15 0 1 2 3 4) = some (.stx h0 .n32 1 2 3 4) ∧
    decodeTableWord 64 (fmtS 0x11 0x2B 0 1 2 2) = some (.stp h0 .bf16 1 2 2) ∧
    decodeTableWord 64 (fmtS 0x12 0 0 1 0 5) = some (.pref h0 1 5) ∧
    decodeTableWord 64 (fmtS 0x12 1 0 1 0 5) = some (.cinv h0 1 5) ∧
    decodeTableWord 64 (fmtS 0x12 2 0 1 0 5) = some (.cwb h0 1 5) ∧
    decodeTableWord 64 (fmtS 0x13 0x05 5 1 2 6) = some (.amo h0 .n32 5 1 2 6) ∧
    decodeTableWord 64 (fmtT 0x13 0x14 5 1 2 3 0) = some (.cas h0 .n64 5 1 2 3) ∧
    decodeTableWord 64 (fmtS 0x13 0x2B 5 1 2 0) = some (.amof h0 .bf16 5 1 2) := by decide +kernel

/-- MAJ 0x14 to 0x16 (R141, R185). -/
theorem test_decode_messages :
    decodeTableWord 64 (fmtT 0x14 0 0 1 2 0 2) = some (.send h0 1 2 false true) ∧
    decodeTableWord 64 (fmtS 0x14 1 5 0 0 1) = some (.recv h0 5 true) ∧
    decodeTableWord 64 (fmtS 0x14 2 5 0 0 0) = some (.waitm h0 5) ∧
    decodeTableWord 96 (fmtQ 0x14 3 0 1 2 3 4 (0xFFF + 0 * 2 ^ 12 + 9 * 2 ^ 13)) = some (.putq h0 1 2 3 4 0xFFF false 9) ∧
    decodeTableWord 64 (fmtS 0x15 0 0 1 2 (5 + 1 * 2 ^ 19)) = some (.sigset h0 1 2 5 true) ∧
    decodeTableWord 64 (fmtS 0x15 1 0 1 2 0xFFFFF) = some (.sigadd h0 1 2 0xFFFFF) ∧
    decodeTableWord 64 (fmtS 0x15 2 0 1 2 (5 + 3 * 2 ^ 18)) = some (.sigwait h0 1 2 5 3) ∧
    decodeTableWord 64 (fmtS 0x15 3 5 1 2 (5 + 2 * 2 ^ 18)) = some (.sigtest h0 5 1 2 5 2) ∧
    decodeTableWord 64 (fmtS 0x16 0 5 1 0 0) = some (.gaddr h0 5 1) ∧
    decodeTableWord 64 (fmtS 0x16 1 5 1 0 0) = some (.saddr h0 5 1) := by decide +kernel

/-- MAJ 0x20 and 0x21 (R141, R205, R206). -/
theorem test_decode_strand :
    decodeTableWord 96 (fmtQ 0x20 0 9 1 2 3 4 (0x10000001 + 63 * 2 ^ 29)) = some (.spawn h0 9 1 2 3 4 0x10000001 63) ∧
    decodeTableWord 96 (fmtQ 0x20 1 9 1 2 3 4 (1 + 2 * 2 ^ 29)) = some (.spawnq h0 9 1 2 3 4 1 2) ∧
    decodeTableWord 96 (fmtQ 0x20 2 0 1 2 3 0 (1 + 2 * 2 ^ 29 + 4 * 2 ^ 35)) = some (.forkr h0 1 2 3 1 2 4) ∧
    decodeTableWord 64 (fmtS 0x20 3 0 1 0 1) = some (.await h0 1 true) ∧
    decodeTableWord 64 (fmtS 0x20 4 0 1 2 7) = some (.jinit h0 1 2 7) ∧
    decodeTableWord 64 (fmtS 0x20 5 0 0 0 0) = some (.quit h0) ∧
    decodeTableWord 64 (fmtS 0x20 6 5 0 0 2) = some (.migrate h0 5 2) ∧
    decodeTableWord 64 (fmtS 0x21 0 0 1 0 0) = some (.ctxstart h0 1) ∧
    decodeTableWord 64 (fmtS 0x21 1 0 1 0 0) = some (.ctxreap h0 1) ∧
    decodeTableWord 64 (fmtS 0x21 2 5 1 2 1) = some (.ctxsave h0 5 1 2 true) ∧
    decodeTableWord 64 (fmtS 0x21 3 5 1 2 0) = some (.ctxload h0 5 1 2) ∧
    decodeTableWord 64 (fmtS 0x21 4 5 1 0 0) = some (.ctxstat h0 5 1) := by decide +kernel

/-- MAJ 0x22, 0x23 and 0x28 (R141, R205, R226). -/
theorem test_decode_queues_shapes :
    decodeTableWord 64 (fmtS 0x22 0 0 1 0 12) = some (.dqinit h0 1 12) ∧
    decodeTableWord 64 (fmtS 0x22 1 5 1 2 0) = some (.dqpush h0 5 1 2) ∧
    decodeTableWord 64 (fmtS 0x22 2 5 1 0 0) = some (.dqpop h0 5 1) ∧
    decodeTableWord 64 (fmtS 0x22 3 5 1 0 0) = some (.dqsteal h0 5 1) ∧
    decodeTableWord 64 (fmtS 0x22 4 0 1 0 0xFFFFF) = some (.detach h0 1 0xFFFFF) ∧
    decodeTableWord 64 (fmtS 0x23 0 0 1 2 1) = some (.qpush h0 1 2 true) ∧
    decodeTableWord 64 (fmtS 0x23 1 5 1 0 0) = some (.qpop h0 5 1) ∧
    decodeTableWord 64 (fmtS 0x23 2 0 0 0 (3 + 9 * 2 ^ 2 + 2 * 2 ^ 6)) = some (.qbind h0 3 9 2) ∧
    decodeTableWord 64 (fmtS 0x28 0 0 1 0 (15 + 0x8001 * 2 ^ 4)) = some (.ldshp h0 1 15 0x8001) ∧
    decodeTableWord 64 (fmtS 0x28 1 0 1 0 (2 + 1 * 2 ^ 4)) = some (.stshp h0 1 2 1) ∧
    decodeTableWord 64 (fmtS 0x28 2 0 1 0 (2 + 10 * 2 ^ 4)) = some (.shpset h0 1 2 10) ∧
    decodeTableWord 64 (fmtS 0x28 3 5 0 0 (2 + 7 * 2 ^ 4)) = some (.shpget h0 5 2 7) := by decide +kernel

/-- MAJ 0x29 (R228, R234): the roles in SHA, SHB, SHC, SHD; BSC and CSC in XF; CTY, RM, SATM and OPX in CTL. -/
theorem test_decode_telem :
    decodeTableWord 128 (fmtX 0x29 0 0 0 0 1 2 3 0 0 (1 + 0 * 2 ^ 4 + 1 * 2 ^ 6)) = some (.tadd h0 0 1 2 3 false .i32 0 true) ∧
    decodeTableWord 128 (fmtX 0x29 1 0 0 0 1 2 3 0 0 (1 + 1 * 2 ^ 4 + 1 * 2 ^ 6)) = some (.tsub h0 0 1 2 3 false .i32 1 true) ∧
    decodeTableWord 128 (fmtX 0x29 2 0 0 0 1 2 3 0 0 (1 + 2 * 2 ^ 4 + 1 * 2 ^ 6)) = some (.tmul h0 0 1 2 3 false .i32 2 true) ∧
    decodeTableWord 128 (fmtX 0x29 3 0 9 8 1 2 0 0 3 (9 + 1 * 2 ^ 4)) = some (.tfma h0 9 8 1 2 0 0 true true .f32 1) ∧
    decodeTableWord 128 (fmtX 0x29 4 0 9 0 1 2 0 0 1 (0xB + 2 * 2 ^ 4)) = some (.tmin h0 9 1 2 0 true .bf16 2) ∧
    decodeTableWord 128 (fmtX 0x29 5 0 9 0 1 2 0 0 1 (0xB + 2 * 2 ^ 4)) = some (.tmax h0 9 1 2 0 true .bf16 2) ∧
    decodeTableWord 128 (fmtX 0x29 6 0 0 0 1 2 0 0 0 (3 + 1 * 2 ^ 6)) = some (.tabs h0 1 2 .i8 0 true) ∧
    decodeTableWord 128 (fmtX 0x29 7 0 0 0 1 2 0 0 0 (3 + 1 * 2 ^ 6)) = some (.tneg h0 1 2 .i8 0 true) ∧
    decodeTableWord 128 (fmtX 0x29 8 0 0 0 1 2 3 0 0 7) = some (.tand h0 0 1 2 3 false .n8 0) ∧
    decodeTableWord 128 (fmtX 0x29 9 0 0 0 1 2 3 0 0 7) = some (.tor h0 0 1 2 3 false .n8 0) ∧
    decodeTableWord 128 (fmtX 0x29 10 0 0 0 1 2 3 0 0 7) = some (.txor h0 0 1 2 3 false .n8 0) ∧
    decodeTableWord 128 (fmtX 0x29 11 0 0 0 1 2 3 0 0 7) = some (.tshl h0 0 1 2 3 false .n8 0) ∧
    decodeTableWord 128 (fmtX 0x29 0xC 0 0 0 1 2 3 0 0 (6 + 1 * 2 ^ 8)) = some (.tshr h0 0 1 2 3 false .n16 0 true) := by decide +kernel

/-- MAJ 0x2A and 0x2B (R235 to R240). -/
theorem test_decode_tdata :
    decodeTableWord 128 (fmtX 0x2A 0 0 0 0 1 2 0 0 0 (3 * 2 ^ 4)) = some (.tcvt h0 1 2 3) ∧
    decodeTableWord 128 (fmtX 0x2A 1 0 0 0 1 2 3 4 0 0) = some (.tsplit3 h0 1 2 3 4) ∧
    decodeTableWord 128 (fmtX 0x2A 2 0 0 0 1 2 0 0 0 (0xA + 1 * 2 ^ 4 + 2 * 2 ^ 8)) = some (.tred h0 1 2 .f16 1 2) ∧
    decodeTableWord 128 (fmtX 0x2A 3 0 0 0 1 2 3 0 0 (8 + 5 * 2 ^ 8 + 1 * 2 ^ 11)) = some (.tcmp h0 0 1 2 3 false .f64 0 5 true) ∧
    decodeTableWord 128 (fmtX 0x2A 4 0 0 0 1 2 3 4 0 0) = some (.tsel h0 1 2 3 4) ∧
    decodeTableWord 128 (fmtX 0x2A 5 0 0 0 1 2 3 0 0 0) = some (.tgath h0 1 2 3) ∧
    decodeTableWord 128 (fmtX 0x2A 6 0 0 0 1 2 3 0 0 0) = some (.tscat h0 1 2 3) ∧
    decodeTableWord 128 (fmtX 0x2A 7 0 9 0 1 0 0 0 0 0) = some (.tfill h0 9 1) ∧
    decodeTableWord 128 (fmtX 0x2A 8 0 0 0 1 2 0 0 0 0) = some (.tcopy h0 1 2) ∧
    decodeTableWord 128 (fmtX 0x2B 0 0 0 0 1 2 0 0 0 (9 + 1 * 2 ^ 4 + 8 * 2 ^ 8)) = some (.tsfu h0 0 1 2 0 false .f32 1 8) ∧
    decodeTableWord 128 (fmtX 0x2B 0 0 9 0 1 2 0 0 1 8) = some (.tsfu h0 9 1 2 0 true .f64 0 0) := by decide +kernel

/-- Words that are no instruction: LEN 3, an absent major, an absent minor, a reserved type, a negated c0 guard, a field
not used, FCMP with an integer type, and a Q that its REL excludes (R133, R138 to R142, R172). -/
theorem test_rejects :
    decode 3 = .error .lenThree ∧ decode (fmtS 0x0B 0 0 0 0 0) = .error .noForm ∧
    decode (fmtS 0 0xC 0 0 0 0) = .error .noForm ∧ decode (fmtS 1 0xD 0 0 0 0) = .error .noForm ∧
    decode (2 ^ 14) = .error .badField ∧ decode (fmtS 0 0 1 0 0 0) = .error .reserved ∧
    decode (fmtS 9 0x00 5 1 2 2) = .error .badField ∧ decode (fmtS 9 0x08 5 1 2 (0 + 1 * 2 ^ 3)) = .error .badField :=
  ⟨rfl, rfl, rfl, rfl, rfl, rfl, rfl, rfl⟩

/-! ### A machine to test on -/

/-- Registers from number 1 on, at a base entry of the register file. -/
def regsFrom (base : Nat) (g : List Word) : NMap Word := (List.range g.length).map fun i => (base + 1 + i, nth 0 g i)

/-- A translation of the first 2 MiB of address space 0 to the same machine addresses, writable and executable. -/
def page0 : Tlb := ⟨0, 0, 0, 2 ^ 21, 0, 0, true, true, false, false, 0, false⟩

/-- Core 0 in the turn of context `x`, a ready strand that has its g registers from g1 on. -/
def coreAt (x : Nat) (g : List Word) : Core := { Core.reset with
  cycle := x
  regs := regsFrom (if x = 0 then 0 else 64) g
  ctxs := [(x, { Ctx.reset with st := .ready })]
  tlb := [page0]
  winOpen := true }

/-- The machine with that core, in partition 0, which runs on quadrant 0. -/
def turn (x : Nat) (g : List Word) : State := { State.reset with
  cores := [(0, coreAt x g)]
  parts := [(0, { Part.reset with v := true, st := 1, qmask := 1, s2root := 1, tt := [(1, 0x80000000)] })] }

/-- The state an instruction leaves. -/
def after (i : Instr) (s : State) : State :=
  match exec i s with
  | .next t => t
  | _ => s

/-- A register once all its context's results have landed. -/
def landed (s : State) (o : Opnd) : Word := (s.landAll s.cur s.actor).operand [] o

/-- What an instruction leaves in g5, in a strand with these registers. -/
def g5 (i : Instr) (g : List Word) : Word := landed (after i (turn 1 g)) 5

/-! ### Worked results -/

/-- IARITH at the edges (R154). -/
theorem test_iarith :
    g5 (.add h0 .i8 5 1 2) [0x7F, 1] = 0xFFFFFFFFFFFFFF80 ∧ g5 (.add h0 .n8 5 1 2) [0x7F, 1] = 0x80 ∧
    g5 (.min h0 .i32 5 1 2) [0xFFFFFFFF, 1] = 0xFFFFFFFFFFFFFFFF ∧ g5 (.min h0 .n32 5 1 2) [0xFFFFFFFF, 1] = 1 ∧
    g5 (.mulh h0 .n64 5 1 2) [0xFFFFFFFFFFFFFFFF, 2] = 1 ∧
    g5 (.mulh h0 .i64 5 1 2) [0xFFFFFFFFFFFFFFFF, 2] = 0xFFFFFFFFFFFFFFFF ∧
    g5 (.div h0 .i32 5 1 2) [0x80000000, 0xFFFFFFFF] = 0xFFFFFFFF80000000 ∧
    g5 (.rem h0 .i32 5 1 2) [0x80000000, 0xFFFFFFFF] = 0 ∧ g5 (.div h0 .n32 5 1 2) [0x80000000, 0xFFFFFFFF] = 0 ∧
    g5 (.rem h0 .n32 5 1 2) [0x80000000, 0xFFFFFFFF] = 0x80000000 ∧ g5 (.rem h0 .i64 5 1 0) [0x29] = 0x29 := by
  decide

/-- ILOGIC at 32 bits, with g1 = 0x0000_0001_8000_0000 (R155). -/
theorem test_ilogic :
    g5 (.shr h0 .i32 5 1 0) [0x180000000] = 0xFFFFFFFF80000000 ∧ g5 (.shr h0 .i64 5 1 0) [0x180000000] = 0x180000000 ∧
    g5 (.shr h0 .i32 5 1 3) [0x180000000, 0, 1] = 0x40000000 ∧
    g5 (.shra h0 .i32 5 1 3) [0x180000000, 0, 0x140] = 0xFFFFFFFFFFFFFFFF ∧
    g5 (.clz h0 .i32 5 1) [0x180000000] = 0 ∧ g5 (.clz h0 .i64 5 1) [0x180000000] = 31 := by decide +kernel

/-- The worked EXT and INS (R161), the CMPI immediate at its width (R162), and CLOG.xor (R163). -/
theorem test_fields :
    g5 (.ext h0 5 2 8 11 true) [0, 0xABCD00] = 0xFFFFFFFFFFFFFBCD ∧ g5 (.ext h0 5 2 8 11 false) [0, 0xABCD00] = 0xBCD ∧
    g5 (.ins h0 5 2 3 60 7) [0, 0, 0xFF] = 0xF000000000000000 ∧
    g5 (.cmpi h0 5 1 0 .n64 0x3FFF) [0xFFFFFFFFFFFFFFFF] = 1 ∧ g5 (.cmpi h0 5 1 2 .n8 0x3FFF) [0x1FF] = 0 ∧
    g5 (.cmpi h0 5 1 2 .n8 0x3FFF) [0x1FE] = 1 ∧ g5 (.clog h0 5 1 2 6) [9, 0] = 1 ∧
    g5 (.clog h0 5 1 2 6) [9, 4] = 0 := by
  decide

/-- The worked lanes (R164). -/
theorem test_packed :
    let g := [0x709010F0649C01FF, 0x20E00520649C7F01]
    g5 (.padd h0 .i8 5 1 2) g = 0x90701510C8388000 ∧ g5 (.padds h0 .i8 5 1 2) g = 0x7F8015107F807F00 ∧
    g5 (.padds h0 .n8 5 1 2) g = 0x90FF15FFC8FF80FF ∧ g5 (.pshl h0 .i16 5 1 2) [1, 0x0101] = 2 := by decide +kernel

/-- FCLASS of a signalling NaN and of a negative subnormal (R173). -/
theorem test_fclass : g5 (.fclass h0 .bf16 5 1) [0xFF81] = 0x100 ∧
g5 (.fclass h0 .bf16 5 1) [0x8001] = 4 := by decide +kernel

/-- CVTN out of S1E4M3 and into it (R168): 480.0, and 500.0 past the largest, with OF and NX. -/
theorem test_cvtn :
    g5 (.cvtn h0 .f32 5 1 2 0 true) [0x7F, 0x0700C60F] = 0x43F00000 ∧
    g5 (.cvtn h0 .f32 5 1 2 0 false) [0x43FA0000, 0x0700C60F] = 0x7F ∧
    (after (.cvtn h0 .f32 5 1 2 0 false) (turn 1 [0x43FA0000, 0x0700C60F])).me.ff = 5 := by decide +kernel

/-- The worked special functions (R174). -/
theorem test_fsfu :
    g5 (.fsin h0 .f32 5 1 0) [0x3E800000] = 0x3F3504F3 ∧ g5 (.fsin h0 .f32 5 1 0) [0x3F800000] = 0 ∧
    g5 (.fcos h0 .f32 5 1 0) [0x3F800000] = 0xBF800000 ∧ g5 (.flog2 h0 .f32 5 1 0) [0x41000000] = 0x40400000 := by
  decide +kernel

/-- The worked shifting of the last-result file (R51): 12, then the discarded 48, then no shift by a store,
  then `mov h2,
w1`, which reads w1 first. -/
theorem test_last_results :
    let s1 := after (.add h0 .i64 5 1 2) (turn 1 [5, 7, 0xC000000000000040])
    let s2 := after (.shli h0 0 5 2) s1
    let s3 := after (.st h0 .i64 3 0x48 0) s2
    let s4 := after (.mov h0 0x42 0x49) s3
    (s1.me.w0, s1.me.w1) = (12, 0) ∧ (s2.me.w0, s2.me.w1) = (48, 12) ∧ (s3.me.w0, s3.me.w1) = (48, 12) ∧
      s3.byte (scrKey 0 0x40) = 48 ∧ (s4.me.w0, s4.me.w1) = (12, 48) ∧ s4.operand [] 0x42 = 12 := by decide +kernel

/-- The worked stall (R148): `add` reads g5 in the turn after `mul` without WAIT: 3 with checking off; with checking on a
short-stall trap. -/
theorem test_stall :
    let start := fun (chk : Bool) => (turn 1 [6, 7, 0, 0, 3]).onMe fun k => { k with chk := chk }
    let next := fun (s : State) => (s.onCore 0 fun k => { k with cycle := k.cycle + 16 }).landFixed 0 1 1
    let off := next (after (.mul h0 .i64 5 1 2) (start false))
    let on := next (after (.mul h0 .i64 5 1 2) (start true))
    landed (after (.add h0 .i64 6 5 0) off) 6 = 3 ∧ landed (after (.add h0 .i64 6 5 0) off) 5 = 42 ∧
      (after (.add h0 .i64 6 5 0) on).me.st = .trapped ∧
      landed (after (.add h0 .i64 6 5 0) on) 5 = 42 := by decide +kernel

/-- Core 37, strand 595, of device 2, with the private window of R204's example. -/
def core37 (a : Word) : State := { State.reset with
  cur := 37
  dev := { Dev.reset with number := 2, domain := true }
  cores := [(37, { coreAt 3 [a] with carve := 1 })]
  parts := [(0, { Part.reset with
    v := true, st := 1, qmask := 15, s2root := 1, pwbase := 0x2000000000, pwsize := 16 })] }

/-- The worked conversions (R204). -/
theorem test_address_conversion :
    landed (after (.gaddr h0 5 1) (core37 0xE000000000000080)) 5 = 0x2002530080 ∧
    landed (after (.saddr h0 5 1) (core37 0x2002530080)) 5 = 0xE000000000000080 ∧
    landed (after (.gaddr h0 5 1) (core37 0xC000000000000400)) 5 = 0xD002250000000400 ∧
    landed (after (.saddr h0 5 1) (core37 0xD002650000000400)) 5 = 0xD002650000000400 ∧
    (after (.gaddr h0 5 1) (core37 0xE000000000010000)).me.st = .trapped := by decide +kernel

/-- The worked coverage (R291): six pixels, and the triangle across the hypotenuse has the other ten. -/
theorem test_coverage :
    let v := fun (x y : Int) => (⟨x * 256, y * 256, []⟩ : Vertex)
    let all := (List.range 16).map fun i => (i % 4, i / 4)
    all.filter (fun p => covered (edgesOf (v 0 0) (v 4 0) (v 0 4)) p.1 p.2) =
      [(0, 0), (1, 0), (2, 0), (0, 1), (1, 1), (0, 2)] ∧
    (all.filter fun p => covered (edgesOf (v 4 0) (v 4 4) (v 0 4)) p.1 p.2).length = 10 ∧
    all.all (fun p => !(covered (edgesOf (v 0 0) (v 4 0) (v 0 4)) p.1 p.2 &&
      covered (edgesOf (v 4 0) (v 4 4) (v 0 4)) p.1 p.2)) = true := by decide +kernel

/-- The tree of R31: the root of quadrant 3 hangs from core 96; in a partition of quadrants 1 and 3 from core 8. -/
theorem test_bough_tree :
    parentAll 104 = some 96 ∧ parentAll 8 = some 0 ∧ parentAll 17 = some 16 ∧ parentAll 16 = some 0 ∧
    parentAll 0 = none ∧
    { State.reset with parts := [(0, { Part.reset with st := 1, qmask := 0xA })] }.parentIn 0 104 = some 8 := by decide +kernel

/-! ### Ill-formed terms -/

/-- A header that negates c0 is no guard (R140). -/
def hBad : Hdr := ⟨0, 0, true⟩

/-- Each check of a register form's fields refuses a term, and takes the term beside it. -/
theorem test_ill_formed_register_forms :
    (Instr.nop hBad).wf = false ∧ (Instr.nop ⟨0, 1, true⟩).wf = true ∧
    (Instr.stop h0 3).wf = false ∧ (Instr.stop h0 2).wf = true ∧
    (Instr.tlbinv h0 0 3 0).wf = false ∧ (Instr.tlbinv h0 1 1 0).wf = false ∧ (Instr.tlbinv h0 0 2 1).wf = false ∧
    (Instr.tlbinv h0 1 0 1).wf = true ∧
    (Instr.add h0 .f64 1 2 3).wf = false ∧ (Instr.add h0 .n8 1 2 3).wf = true ∧
    (Instr.and h0 .i16 1 2 3).wf = false ∧ (Instr.and h0 .i32 1 2 3).wf = true ∧
    (Instr.cmp h0 1 2 3 0 .f32).wf = false ∧ (Instr.cmpi h0 1 2 0 .m8 0).wf = false ∧
    (Instr.padd h0 .i64 1 2 3).wf = false ∧ (Instr.padd h0 .n64 1 2 3).wf = false ∧
    (Instr.padd h0 .n8 1 2 3).wf = true ∧
    (Instr.fadd h0 .i32 1 2 3 0).wf = false ∧ (Instr.fadd h0 .m8 1 2 3 0).wf = false ∧
    (Instr.fadd h0 .bf16 1 2 3 3).wf = true ∧
    (Instr.fsgn h0 .f32 1 2 3 3).wf = false ∧ (Instr.fsgn h0 .f32 1 2 3 2).wf = true ∧
    (Instr.fcmp h0 .f32 1 2 3 0 true).wf = false ∧ (Instr.fcmp h0 .f32 1 2 3 7 true).wf = false ∧
    (Instr.fcmp h0 .f32 1 2 3 5 true).wf = true ∧ (Instr.fcmp h0 .f32 1 2 3 7 false).wf = true ∧
    (Instr.fdiv h0 .bf16 1 2 3 0).wf = false ∧ (Instr.fdiv h0 .f64 1 2 3 0).wf = true ∧
    (Instr.fexp2 h0 .f64 1 2 0).wf = false ∧ (Instr.fexp2 h0 .f16 1 2 0).wf = true := by decide +kernel

/-- The same of the forms of memory, strands, messages and shapes. -/
theorem test_ill_formed_memory_and_strand_forms :
    (Instr.amo h0 .i8 1 2 3 0).wf = false ∧ (Instr.amo h0 .n32 1 2 3 7).wf = false ∧
    (Instr.amo h0 .n32 1 2 3 6).wf = true ∧
    (Instr.cas h0 .f64 1 2 3 4).wf = false ∧ (Instr.cas h0 .i32 1 2 3 4).wf = true ∧
    (Instr.amof h0 .f16 1 2 3).wf = false ∧ (Instr.amof h0 .bf16 1 2 3).wf = true ∧
    (Instr.forkr h0 1 2 3 0 0 0).wf = false ∧ (Instr.forkr h0 1 2 3 0 0 5).wf = false ∧
    (Instr.forkr h0 1 2 3 0 0 4).wf = true ∧
    (Instr.migrate h0 1 3).wf = false ∧ (Instr.migrate h0 1 2).wf = true ∧
    (Instr.qbind h0 0 0 3).wf = false ∧ (Instr.qbind h0 0 0 2).wf = true ∧
    (Instr.shpset h0 1 0 11).wf = false ∧ (Instr.shpget h0 1 0 11).wf = false ∧ (Instr.shpset h0 1 0 10).wf = true := by
  decide

/-- The same of the tensor and engine forms. -/
theorem test_ill_formed_engine_forms :
    (Instr.tadd h0 1 0 1 2 false .f32 0 false).wf = false ∧ (Instr.tadd h0 1 0 1 2 true .f32 0 false).wf = false ∧
    (Instr.tadd h0 1 0 1 0 true .f32 0 false).wf = true ∧ (Instr.tadd h0 0 0 1 2 false .f32 0 true).wf = false ∧
    (Instr.tadd h0 0 0 1 2 false .m8 0 false).wf = false ∧ (Instr.tadd h0 0 0 1 2 false .i8 0 true).wf = true ∧
    (Instr.tfma h0 0 1 0 1 2 3 false false .f32 0).wf = false ∧
    (Instr.tfma h0 0 1 0 1 2 3 false true .f32 0).wf = false ∧
    (Instr.tfma h0 0 1 0 1 2 0 false true .f32 0).wf = true ∧
    (Instr.tfma h0 0 0 0 1 2 3 false false .i32 0).wf = false ∧
    (Instr.tabs h0 0 1 .f32 0 true).wf = false ∧ (Instr.tand h0 0 0 1 2 false .f32 0).wf = false ∧
    (Instr.tred h0 0 1 .f32 0 3).wf = false ∧ (Instr.tred h0 0 1 .f32 0 2).wf = true ∧
    (Instr.tcmp h0 0 0 1 2 false .i32 0 2 true).wf = false ∧ (Instr.tcmp h0 0 0 1 2 false .f32 0 6 true).wf = false ∧
    (Instr.tcmp h0 0 0 1 2 false .f32 0 2 true).wf = true ∧
    (Instr.tsfu h0 0 0 1 0 false .f32 0 9).wf = false ∧ (Instr.tsfu h0 0 0 1 2 false .f32 0 1).wf = false ∧
    (Instr.tsfu h0 0 0 1 0 false .f64 0 4).wf = false ∧ (Instr.tsfu h0 0 0 1 0 false .f64 0 3).wf = true ∧
    (Instr.mmgang h0 3).wf = false ∧ (Instr.mmgang h0 2).wf = true ∧
    (Instr.cpy h0 0 0 0 1 4 false).wf = false ∧ (Instr.cpy h0 1 0 0 1 0 false).wf = false ∧
    (Instr.cpy h0 1 2 0 1 3 false).wf = false ∧ (Instr.cpy h0 1 2 0 1 2 true).wf = false ∧
    (Instr.cpy h0 1 2 0 1 1 true).wf = true ∧ (Instr.cpyred h0 0 0 0 1 0 false 3).wf = false ∧
    (Instr.cpymm h0 0 0 0 1 2 0 false 0 0).wf = false ∧ (Instr.cpymm h0 0 0 0 1 2 0 false 1 1).wf = false ∧
    (Instr.cpymm h0 0 0 0 1 2 0 false 2 1).wf = true ∧ (Instr.tribin h0 1 2 0 0 3).wf = false ∧
    (Instr.tribin h0 1 2 0 0 2).wf = true := by decide +kernel

/-- The ranges of the events' parameters. -/
theorem test_ill_formed_events :
    (Instr.placeHead 192).wf = false ∧ (Instr.placeHead 191).wf = true ∧ (Instr.wake 0 16 0 none).wf = false ∧
    (Instr.queuePopAssign 16384).wf = false ∧ (Instr.copyUnitConfirm 0 16).wf = false ∧
    (Instr.scriptStart 0 4).wf = false ∧
    (Instr.refineFactor 24).wf = false ∧ (Instr.tileTake 4 0).wf = false ∧ (Instr.bandCapture 0 16).wf = false ∧
    (Instr.haltTree 4).wf = false ∧ (Instr.partitionStart 0 0).wf = false ∧
    (Instr.partitionStart 0 0x80000000).wf = true ∧
    (Instr.s2invPage 0 (2 ^ 36)).wf = false ∧ (Instr.routeWrite 16 0).wf = false ∧
    (Instr.headModeWrite 4 true 0).wf = false ∧
    (Instr.queueDefine 0 4096 0x80000000).wf = false ∧ (Instr.queueDefine 0 0 0).wf = false ∧
    (Instr.queueUndefine 4 0).wf = false ∧ (Instr.doorbell 4096 0).wf = false ∧
    (Instr.slotMap 64 0x80000000).wf = false ∧
    (Instr.slotMap 0 0).wf = false ∧ (Instr.slotUnmap 64).wf = false ∧ (Instr.msixEvent 256).wf = false ∧
    (Instr.firmwareException 0 0 0 []).wf = false ∧ (Instr.flitReceive 8 (0, false)).wf = false ∧
    (Instr.currentLimiterStep 0 true true).wf = false ∧ (Instr.currentLimiterStep 24 false false).wf = false ∧
    (Instr.collectiveComplete 0 0).wf = false ∧ (Instr.collectiveComplete 0 1).wf = true ∧
    (Instr.hostAccess 4 true 0 []).wf = false ∧ (Instr.hostAccess 0 true (2 ^ 48) []).wf = false ∧
    (Instr.s1rootWrite 0 16 0).wf = false ∧ (Instr.taskTypeWrite 0 64 0).wf = false ∧
    (Instr.registerWrite (2 ^ 26) 0).wf = false ∧ (Instr.softError 65536 true 0).wf = false ∧
    (Instr.displaySinkChange 4 true).wf = false := by decide +kernel

/-! ### Witnesses: for each obligation, states that meet the hypotheses of its statements -/

/-- Ready, as a computation. -/
def readyB (s : State) (g : Gate) (h : Hdr) (srcs dsts : List Opnd) : Bool :=
  let late := fun o => s.me.fixPending (s.core s.cur).turn o
  (s.me.going && !s.me.woken) || (!s.me.going && !g.refuses s.actor && srcs.all (fun o => s.me.readable s.actor o && !s.me.varPending o &&
    !(s.me.checked s.actor && late o) && s.canPop s.cur s.actor srcs o) &&
  dsts.all (fun o => s.me.writable s.actor o && !s.me.dstPending o && s.canPush s.cur s.actor o) &&
  !s.me.varPending (guardOpnd h) && !(s.me.checked s.actor && late (guardOpnd h)) && s.guardHolds s.cur s.actor h)

theorem ready_of {s g h srcs dsts} (hb : readyB s g h srcs dsts = true) : s.Ready g h srcs dsts := by
  simp only [readyB, Bool.or_eq_true, Bool.and_eq_true, Bool.not_eq_true', List.all_eq_true, Bool.and_eq_false_iff] at hb
  rcases hb with ⟨hg, hw⟩ | ⟨⟨⟨⟨⟨⟨h0, h1⟩, h2⟩, h3⟩, h4⟩, h5⟩, h6⟩
  · exact .inl ⟨hg, fun h => by rw [hw] at h; cases h⟩
  refine .inr ⟨⟨h0, h1, fun o m => (h2 o m).1.1.1, fun o m => (h3 o m).1.1, h4, fun c => ?_, h6, fun o m => (h2 o m).1.1.2,
    fun o m => (h3 o m).1.2, fun c o m => ?_⟩, fun o m => (h2 o m).2, fun o m => (h3 o m).2⟩
  · rcases h5 with h | h
    · rw [c] at h; cases h
    · exact h
  · rcases (h2 o m).1.2 with h | h
    · rw [c] at h; cases h
    · exact h

/-- A result that goes through, and a test of it. -/
def okWith {σ ε α : Type} (r : σ × Except ε α) (f : σ → α → Bool) : Bool :=
  match r.2 with
  | .ok p => f r.1 p
  | .error _ => false

theorem ok_with {σ ε α : Type} {r : σ × Except ε α} {f : σ → α → Bool} (h : okWith r f = true) :
    ∃ t p, r = (t, .ok p) ∧ f t p = true := by
  obtain ⟨t, _ | p⟩ := r
  · cases h
  · exact ⟨t, p, rfl, h⟩

/-- A result that fails. -/
def failsB {σ ε α : Type} (r : σ × Except ε α) : Bool :=
  match r.2 with
  | .ok _ => false
  | .error _ => true

theorem fails_with {σ ε α : Type} {r : σ × Except ε α} (h : failsB r = true) : ∃ t e, r = (t, .error e) := by
  obtain ⟨t, e | _⟩ := r
  · exact ⟨t, e, rfl⟩
  · cases h

theorem some_with {α : Type} {r : Option α} {f : α → Bool} (h : r.any f = true) : ∃ a, r = some a ∧ f a = true := by
  cases r with
  | none => cases h
  | some a => exact ⟨a, rfl, h⟩

theorem l1Form_of {s : State}
    (h : s.cores.all (fun e => e.2.l1.all fun
      v => v.2.valid == 0xFFFF || v.2.valid == v.2.dirty) = true) : s.L1Form := by
  intro c sec v hv
  have find_mem : ∀ m : NMap Sector, m.find sec = some v → ∃ e ∈ m, e.2 = v := by
    intro m
    induction m with
    | nil => intro hm; cases hm
    | cons e m ih =>
      intro hm
      simp only [NMap.find] at hm
      split at hm
      · exact ⟨e, List.mem_cons_self, Option.some.inj hm⟩
      · obtain ⟨a, ha, hb⟩ := ih hm
        exact ⟨a, List.mem_cons_of_mem _ ha, hb⟩
  have get_mem : ∀ m : NMap Core, NMap.get Core.reset m c = Core.reset ∨ ∃ e ∈ m, e.2 = NMap.get Core.reset m c := by
    intro m
    induction m with
    | nil => exact .inl rfl
    | cons e m ih =>
      simp only [NMap.get]
      split
      · exact .inr ⟨e, List.mem_cons_self, rfl⟩
      · rcases ih with h | ⟨a, ha, hb⟩
        · exact .inl h
        · exact .inr ⟨a, List.mem_cons_of_mem _ ha, hb⟩
  rcases get_mem s.cores with hr | ⟨e, he, hc⟩
  · rw [State.core, hr] at hv; cases hv
  · rw [State.core, ← hc] at hv
    obtain ⟨u, hu, rfl⟩ := find_mem _ hv
    have := List.all_eq_true.mp (List.all_eq_true.mp h e he) u hu
    simpa [Sector.Form] using this

/-- A strand with its own sources and destinations, as most statements about register forms need it. -/
theorem witness_IntegerArithmeticAndConstants :
    (turn 1 [3, 4]).Ready .any h0 [1, 2] [3] ∧ (turn 1 [3, 4]).Ready .any h0 [1] [15] ∧
    (turn 1 [3, 4]).Ready .any ⟨7, 3, true⟩ [1, 2] [0] ∧ (turn 0 [3, 4]).Ready .any h0 [] [63] :=
  ⟨ready_of (by decide +kernel), ready_of (by decide +kernel), ready_of (by decide +kernel),
    ready_of (by decide +kernel)⟩

theorem witness_LogicShiftsAndBitCounts :
    (turn 1 [3, 4]).Ready .any h0 [1, 2] [0x42] ∧ (turn 1 [3, 4]).Ready .any h0 [1] [1] :=
  ⟨ready_of (by decide +kernel), ready_of (by decide +kernel)⟩

theorem witness_ComparisonsAndFields :
    (turn 1 [3, 4]).Ready .any h0 [1, 2] [0x61] ∧ (turn 1 [3, 4]).Ready .any h0 [1] [0x67] ∧
    (turn 1 [3, 4]).Ready .any h0 [1, 2, 0x61] [3] :=
  ⟨ready_of (by decide +kernel), ready_of (by decide +kernel), ready_of (by decide +kernel)⟩

theorem witness_PackedLanes : (turn 1 [3, 4]).Ready .any h0 [1, 1] [1] := ready_of (by decide +kernel)

theorem witness_FloatForms :
    Ty.bf16.isFloat = true ∧ (turn 1 [0x3F80, 0xFF81]).Ready .any h0 [1, 2] [3] ∧
    (turn 1 [0x3F80, 0xFF81]).Ready .any h0 [1, 2, 1] [3] ∧ (turn 1 [0x3F80, 0xFF81]).Ready .any h0 [2] [3] :=
  ⟨by decide +kernel, ready_of (by decide +kernel), ready_of (by decide +kernel), ready_of (by decide +kernel)⟩

theorem witness_RoundingAndNan :
    (1 : Nat) ≠ 0 ∧ Ty.f64.isFloat = true ∧ 0x7FC00000 < 2 ^ tyBits .f32 ∧
    ((fmtOf .f32).value 0x7FC00000).isNan = true ∧ ((fmtOf .f32).value 0x7F800001).snan = true ∧
    ((fmtOf .f32).value 0x3F800000).isNan = false := by decide +kernel

/-- A word of CVTN's second source that names a narrow format (R75), and one that names none. -/
theorem witness_SpecialFunctionsAndConversions :
    (turn 1 [0x3F800000, 0x0700C60F]).Ready .any h0 [1, 2] [3] ∧ (turn 1 [0x3F800000]).Ready .any h0 [1] [3] ∧
    (turn 1 [0x3F800000]).Ready .any h0 [1, 2, 3] [3] ∧
    tyFloat .i8 = false ∧ tyFloat .n64 = false ∧ tyFloat .f16 = true ∧ narrowOk 0x0700C60F = true ∧
    narrowOk 0 = false ∧
    (let s := turn 1 [0x3F800000]
     let other := s.onCore 0 fun k => { k with sfu := some ⟨2, 40, 0, none⟩ }
     let traps := s.onMe fun k => { k with ff := 2 ^ 16 }
     s.me.sfuOut = none ∧ s.me.ffPending = false ∧ s.me.busy = false ∧ (s.core 0).sfuTurn s.actor = true ∧
     tenOf s.me.ff = 0 ∧ tenOf traps.me.ff ≠ 0 ∧ (traps.core 0).sfuTurn traps.actor = true ∧
     (other.core 0).sfuTurn other.actor = false ∧
     (s.onMe fun k => { k with sfuOut := some (5, 1), busy := true }).me.sfuOut = some (5, 1)) :=
  ⟨ready_of (by decide +kernel), ready_of (by decide +kernel), ready_of (by decide +kernel), by decide +kernel⟩

theorem witness_BranchesAndTraps :
    (turn 1 [1, 2]).Ready .any h0 [] [] ∧ (turn 1 [1, 2]).Ready .any h0 [] [3] ∧ (turn 1 [1, 2]).Ready .any h0 [1] [1] ∧
    (turn 1 [1, 2]).Ready .any h0 [1] [] ∧ (turn 1 [0x10F, 2]).Ready .any h0 [1, 2] [3] ∧
    ∃ t p, (turn 1 [0x10F, 2]).access 0 1 (0x10F#64 &&& ~~~15#64) 16 16 0 0 = (t, .ok p) := by
  refine ⟨ready_of (by decide +kernel), ready_of (by decide +kernel), ready_of (by decide +kernel),
    ready_of (by decide +kernel), ready_of (by decide +kernel), ?_⟩
  obtain ⟨t, p, h, _⟩ := ok_with (f := fun _ _ => true) (r := (turn 1 [0x10F,
    2]).access 0 1 (0x10F#64 &&& ~~~15#64) 16 16 0 0)
    (by decide +kernel)
  exact ⟨t, p, h⟩

theorem ok_of {σ ε α : Type} {r : σ × Except ε α} (h : okWith r (fun _ _ => true) = true) : ∃ t p, r = (t, .ok p) := by
  obtain ⟨t, p, h, _⟩ := ok_with h
  exact ⟨t, p, h⟩

/-- An aligned load and store in memory and in the scratchpad; an address off its alignment; one that no space holds. -/
theorem witness_LoadsAndStores :
    let s := turn 1 [0x100, 2, 5]
    s.Ready .any h0 [1] [3] ∧ s.Ready .any h0 [1, 2] [3] ∧ s.Ready .any h0 [1, 2] [] ∧ s.Ready .any h0 [1, 2, 3] [] ∧
    (∃ t p, s.access 0 1 (0x100 + (0xFFFFC#20).signExtend 64) 4 4 0 0 = (t, .ok p)) ∧
    (∃ t p, s.access 0 1 (0x100 + 2 * .ofNat 64 8 + (8#13).signExtend 64) 8 8 1 1 = (t, .ok p)) ∧
    (∃ t p, s.access 0 1 0xC000000000000000 8 8 1 1 = (t, .ok p)) ∧
    ((0x101 : Word) + (0 : BitVec 20).signExtend 64).toNat % tyBytes .i16 ≠ 0 ∧
    s.decodeAddr 0 1 0xC0000000001FFFF8 8 false = .error 1 ∧ s.decodeAddr 0 1 0xF000000000000000 1 true = .error 1 :=
  ⟨ready_of (by decide +kernel), ready_of (by decide +kernel), ready_of (by decide +kernel),
    ready_of (by decide +kernel), ok_of (by decide +kernel), ok_of (by decide +kernel), ok_of (by decide +kernel),
    by decide +kernel, by rfl, by rfl⟩

/-- Core 0 with a line in every way of the L1 set that line 2 belongs to. -/
def crowded (s : State) : State := s.onCore 0 fun k => { k with
  l1 := (List.range k.ways).map fun i => (8 * (2 + 1024 * (i + 1)), ⟨0, 0xFFFF, 0, false, false⟩) }

/-- A place in another core's scratchpad, one in the core's own, one in a cached page and one in a page that is not. -/
theorem witness_MemoryFrames :
    let s := turn 1 [3]
    (s.isPosted 0 ⟨scrKey 5 0, none⟩ = true ∧ s.isPosted 0 ⟨scrKey 0 0, none⟩ = false ∧ ownScr ≤ scrKey 0 0 ∧
    s.isPosted 0 ⟨2 ^ 47 + 3 * 2 ^ 42, some page0⟩ = true ∧ s.isPosted 0 ⟨0x100, some page0⟩ = false ∧
    (⟨0x100, some page0⟩ : Place).cached = true ∧ (⟨scrKey 0 0, none⟩ : Place).cached = false ∧
    0x10C % 16 + 4 ≤ 16) ∧ s.NothingPosted 0 false (scrKey 0 0) ∧ s.L1Form ∧ 0 < (s.core 0).ways ∧
    (s.core 0).l1Full 2 = false ∧ ((crowded s).core 0).l1Full 2 = true ∧ 0 < ((crowded s).core 0).ways :=
  ⟨by decide +kernel, (fun _ h => nomatch h), l1Form_of (by decide +kernel), by decide +kernel⟩

/-! #### Memory, messages, queues and signals -/

/-- Page tables that map the low 2^29 bytes to themselves, writable and executable: stage 2 from 2^24 and stage 1 of
address space 0 from 2^24 + 2^17. -/
def paged (s : State) : State :=
  let leaf := 3 + 2 ^ 53 + 2 ^ 54
  ((((s.setBytes 0x1000000 (toBytes 8 0x1010001)).setBytes 0x1010000 (toBytes 8 leaf)).setBytes 0x1020000
    (toBytes 8 0x1030001)).setBytes 0x1030000 (toBytes 8 leaf)).onPart 0 fun p =>
      { p with s2root := 0x1000001, s1root := [(0, 0x1020001)] }

/-- A state with a value queue 5, on stack 0, of 16 entries, `n` of them taken. -/
def withQueue (n : Nat) (s : State) : State :=
  s.onHwq 5 fun q => { q with v := true, log2n := 4, pmask := 1, rbase := 0x100000, count := n, tail := .ofNat 32 n }

/-- A sync object at 0x100, of a kind, with a value. -/
def withObj (kind value : Nat) (s : State) : State :=
  (s.setBytes 0x100 (toBytes 8 value)).setBytes 0x111 [.ofNat 8 kind]

theorem witness_AtomicForms :
    let s := turn 1 [0x100, 2, 5]
    (4 : Opnd) ≠ 0#7 ∧ s.Ready .any h0 [1, 2] [4] ∧ s.Ready .any h0 [1, 2, 3] [4] ∧ s.Ready .any h0 [1, 2] [0#7] ∧
    (6 : BitVec 3).toNat ≠ 7 ∧ (∃ t p, s.access 0 1 0x100 8 8 1 1 = (t, .ok p)) ∧
    ∃ t p, s.access 0 1 0xC000000000000040 4 4 1 1 = (t, .ok p) :=
  ⟨by decide +kernel, ready_of (by decide +kernel), ready_of (by decide +kernel), ready_of (by decide +kernel),
    by decide +kernel, ok_of (by decide +kernel), ok_of (by decide +kernel)⟩

/-- PREF of a page that no table maps, and of one that is mapped; the addresses GADDR and SADDR take. -/
theorem witness_CacheAndAddressForms :
    let s := turn 1 [0x100, 2, 5]
    s.Ready .any h0 [1] [] ∧ s.Ready .any h0 [1] [3] ∧ (∃ t e, s.place 0 1 0x40000000 1 1 0 0 = (t, .error e)) ∧
    (∃ t p, s.place 0 1 0x100 1 1 0 0 = (t, .ok p)) ∧ s.decodeAddr 0 1 0x100 1 false = .ok (.glob 0x100) ∧
    s.decodeAddr 0 1 0xC000000000000040 1 false = .ok (.scr 0 0x40) ∧ s.tagOk 0x100 = true ∧
    s.tagOk 0xD000000000000040 = true ∧ s.tagOk 0xD001000000000040 = false ∧ s.sizeOk 0 0xD000000000000040 = true ∧
    s.sizeOk 0 0xD0000000001FFFC0 = false ∧ (s.core 0).l1Full 2 = false ∧ ((crowded s).core 0).l1Full 2 = true :=
  ⟨ready_of (by decide +kernel), ready_of (by decide +kernel), fails_with (by decide +kernel),
    ok_of (by decide +kernel), by rfl, by rfl, by decide +kernel⟩

/-- The device as number 1 of a domain of four, with device 2 open to partition 0. -/
def inDomain (s : State) : State :=
  (s.onDev fun d => { d with domain := true, number := 1, assigned := 15 }).onPart 0 fun p => { p with fgrant := [(2, 0xFFFFFFFF)] }

/-- A mailbox with room, one that is full, one with a message for a strand that waits, and a SEND that an earlier one
holds back; names that break the layout, name a core of no partition and another device. -/
theorem witness_MessageForms :
    let s := turn 1 [3, 7]
    let full := s.onCore 3 fun k => { k with mail0 := List.replicate 64 ⟨1, none⟩ }
    let held := s.onCore 0 fun k => { k with mail1 := [⟨9, some 1⟩], mail0 := [⟨8, none⟩] }
    let waits := (s.onCtx 3 2 fun k => { k with st := .parked, wake := .mail none })
    let behind := (s.onCtx 0 2 fun k => { k with st := .ready, pc := 0x80 }).onCore 0 fun k =>
      { k with offers := [⟨2, 0x80, 3, false⟩] }
    let far := inDomain (turn 1 [0x203, 7])
    let given := s.onMe fun k => { k with grant := some (5, none) }
    s.Ready .any h0 [1, 2] [] ∧ s.Ready .any h0 [] [3] ∧ s.me.grant = none ∧ held.Ready .any h0 [] [3] ∧
    ((3 : Word).toNat < 4096 ∧ fld (3 : Word) 0 8 < 192 ∧ fld (3 : Word) 8 4 = s.ownDev ∧
    s.inPart (s.partOf 0) (fld (3 : Word) 0 8) = true ∧ (s.publishTo 0 1 0).ownDev = s.ownDev ∧
    (s.core 0).offerTurn 1 3 false = true ∧ s.mailRoom (s.home 0 3) false = true ∧
    (s.publishTo 0 1 0).mailRoom ((s.publishTo 0 1 0).home 0 3) false = true) ∧ full.Ready .any h0 [1, 2] [] ∧
    full.mailRoom (full.home 0 3) false = false ∧ behind.Ready .any h0 [1, 2] [] ∧
    (behind.core 0).offerTurn 1 3 false = false ∧ far.Ready .any h0 [1, 2] [] ∧
    (fld (0x203 : Word) 8 4 ≠ far.ownDev ∧ far.otherDev 2 = true ∧
    ((far.part (far.partOf 0)).fgrant.get 0 2).getLsbD 31 = true ∧ (far.publishTo 0 1 2).ownDev = far.ownDev ∧
    far.otherDev 3 = true ∧ ((far.part (far.partOf 0)).fgrant.get 0 3).getLsbD 31 = false ∧ far.otherDev 5 = false ∧
    (held.core 0).mail true = [⟨9, some 1⟩] ∧ (s.core 0).mail true = [] ∧ (s.core 0).mail false = [] ∧
    (held.core 0).mail false ≠ [] ∧ 4096 ≤ (0x1000 : Word).toNat ∧ 192 ≤ fld (0xC0 : Word) 0 8 ∧
    s.inPart (s.partOf 0) (fld (0xBF : Word) 0 8) = false ∧ fld (0x100 : Word) 8 4 ≠ s.ownDev ∧
    s.otherDev 1 = false ∧ (s.core 3).spill false = [] ∧ 64 ≤ ((full.core 3).mail false).length ∧
    (s.core 3).receiver false = none ∧ (waits.core 3).mail false = [] ∧ (waits.core 3).receiver false = some 2 ∧
    given.me.grant.isSome = true) ∧ given.Ready .any h0 [] [3] ∧ (s.core 0).roleHeld 1 0 5 1 = false ∧
    s.Ready .any h0 [] [] :=
  ⟨ready_of (by decide +kernel), ready_of (by decide +kernel), by decide +kernel, ready_of (by decide +kernel),
    by decide +kernel, ready_of (by decide +kernel), by decide +kernel, ready_of (by decide +kernel),
    by decide +kernel, ready_of (by decide +kernel), by decide +kernel, ready_of (by decide +kernel),
    by decide +kernel, ready_of (by decide +kernel)⟩

theorem witness_QueueForms :
    let s := withQueue 3 (paged (turn 1 [0x2000, 5, 0x100, 7]))
    let full := withQueue 16 (paged (turn 1 [0x2000, 5, 0x100, 7]))
    let asked := s.onHwq 5 fun q => { q with pops := [(0, 2)] }
    let far := inDomain s
    far.Ready .any h0 [1, 2, 3, 4] [] ∧ (2 : BitVec 4).toNat ≠ far.ownDev ∧ far.otherDev 2 = true ∧
    ((far.part (far.partOf 0)).fgrant.get 0 2).getLsbD 31 = true ∧ (5 : Word).toNat < 2 ^ 14 ∧
    (∃ t bs, far.readRange 0 1 0x100 16 0 = (t, .ok bs)) ∧ (0 : BitVec 4).toNat = s.ownDev ∧
    s.Ready .any h0 [1, 2, 3, 4] [] ∧ (0x2000 : Word).toNat < 2 ^ 52 ∧ full.Ready .any h0 [1, 2, 3, 4] [] ∧
    (∃ t bs, s.readRange 0 1 0x100 16 0 = (t, .ok bs) ∧ t.queueOk 0 5 = true ∧ (t.hwq 5).spawn = false ∧
      (t.hwq 5).isFull = false ∧ (t.putPages 0 1 (t.ownerOf 0 5) (pagesOf 0x2000 16) bs).2.isNone = true) ∧
    (∃ t bs, full.readRange 0 1 0x100 16 0 = (t, .ok bs) ∧ t.queueOk 0 5 = true ∧ (t.hwq 5).isFull = true) ∧
    s.Ready .any h0 [2, 4] [] ∧ s.Ready .any h0 [2] [6] ∧ s.me.grant = none ∧ s.valueQ 5 = true ∧ s.valueQ 6 = false ∧
    (s.hwq 5).canPop = true ∧ (asked.hwq 5).canPop = false ∧ asked.Ready .any h0 [2] [6] ∧
    (asked.hwq 5).pops = [(0, 2)] ∧
    0 < (asked.hwq 5).count ∧ (full.hwq 5).isFull = true ∧ (s.hwq 6).head = (s.hwq 6).tail ∧
    (s.hwq 5).head.toNat % 2 ^ (s.hwq 5).log2n ≠ (s.hwq 5).tail.toNat % 2 ^ (s.hwq 5).log2n := by
  refine ⟨ready_of (by decide +kernel), by decide +kernel, by decide +kernel, by decide +kernel, by decide +kernel,
    ok_of (by decide +kernel), by decide +kernel, ready_of (by decide +kernel), by decide +kernel,
    ready_of (by decide +kernel), ?_, ?_, ready_of (by decide +kernel), ready_of (by decide +kernel),
    by decide +kernel, by decide +kernel, by decide +kernel,
    by decide +kernel, by decide +kernel, ready_of (by decide +kernel), by decide +kernel⟩
  · obtain ⟨t, bs, h, hb⟩ := ok_with (f := fun t bs => t.queueOk 0 5 && !(t.hwq 5).spawn && !(t.hwq 5).isFull &&
      (t.putPages 0 1 (t.ownerOf 0 5) (pagesOf 0x2000 16) bs).2.isNone)
      (r := (withQueue 3 (paged (turn 1 [0x2000, 5, 0x100, 7]))).readRange 0 1 0x100 16 0) (by decide +kernel)
    simp only [Bool.and_eq_true, Bool.not_eq_true'] at hb
    exact ⟨t, bs, h, hb.1.1.1, hb.1.1.2, hb.1.2, hb.2⟩
  · obtain ⟨t, bs, h, hb⟩ := ok_with (f := fun t _ => t.queueOk 0 5 && (t.hwq 5).isFull)
      (r := (withQueue 16 (paged (turn 1 [0x2000, 5, 0x100, 7]))).readRange 0 1 0x100 16 0) (by decide +kernel)
    simp only [Bool.and_eq_true] at hb
    exact ⟨t, bs, h, hb.1, hb.2⟩

/-- A place is found, and the object there passes a test: reached by SIGWAIT and SIGTEST, and by SIGSET and SIGADD. -/
def sigB (s : State) (f : State → Place → State → SyncObj → Bool) : Bool :=
  okWith (s.objPlace 0 1 0x100) fun t p =>
    let r := t.reachObj 0 1 p
    f (t.publishTo 0 1 (keyDev t.ownDev p.key)) p r (r.obj p.key)

/-- A signal at 0x100 with value 7, an object there that is none, and a page of device 2 at 0. -/
theorem witness_Signals :
    let s := withObj 1 7 (turn 1 [0x100, 7])
    let none' := withObj 0 7 (turn 1 [0x100, 7])
    let far := (inDomain (turn 1 [0x100, 7])).onCore 0 fun k => { k with tlb := [{ page0 with mpa := 2 ^ 47 + 2 * 2 ^ 42 }] }
    let upd := fun (u : State) (p : Place) (set init : Bool) =>
      ((u.reachObj 0 1 p).signalAt 0 0 p.hm p.key set init 9 0 0).isSome
    (s.obj 0x100).kind = 1 ∧ (none'.obj 0x100).kind ≠ 1 ∧ s.Ready .any h0 [1, 2] [] ∧ s.Ready .any h0 [1, 2] [3] ∧
    none'.Ready .any h0 [1, 2] [] ∧ far.Ready .any h0 [1, 2] [] ∧ s.me.grant = none ∧
    sigB s (fun u p _ o => !u.isForeign p && o.kind == 1 && o.value == 7 && upd u p true false && upd u p false false &&
      relHolds 0 o.value 7 && !relHolds 1 o.value 7) = true ∧
    sigB none' (fun u p _ o => !u.isForeign p && o.kind != 1 && !upd u p false false && upd u p true true) = true ∧
    sigB far (fun u p _ _ => u.isForeign p) = true :=
  ⟨by decide +kernel, by decide +kernel, ready_of (by decide +kernel), ready_of (by decide +kernel),
    ready_of (by decide +kernel), ready_of (by decide +kernel), by decide +kernel⟩

/-- A record for device 1 that waits for one store more, and one that waits for none; two stores to one place. -/
theorem witness_EdgesAndPosted :
    let held : Posted := .edge 1 0 1 (.join 0x100 0)
    let free : Posted := .edge 1 0 0 (.join 0x100 0)
    let s := { State.reset with posted := [.store 0 1 0x100 [1] true, .store 0 1 0x100 [2] true] }
    { State.reset with posted := [held] }.earliest 0 = some (0, held) ∧
    { State.reset with posted := [free] }.earliest 0 = some (0, free) ∧ State.reset.hasLanded held = false ∧
    State.reset.hasLanded free = true ∧ s.earliest 1 = some (0, .store 0 1 0x100 [1] true) := by decide +kernel

/-- A deque of four entries in the scratchpad of its owner, strand 1. -/
def withDeq (top bot : Nat) (s : State) : State :=
  ((s.setBytes (scrKey 0 0x40) (toBytes 8 top ++ toBytes 8 bot ++ toBytes 2 (1 + 4096 * 2))).setBytes (scrKey 0 0x80)
    (toBytes 8 0x22 ++ toBytes 8 0x44 ++ toBytes 8 0x66 ++ toBytes 8 0x88))

/-- The deque instruction's address meets every check, and its deque passes a test. -/
def deqOk (s : State) (f : State → Deque → Bool) : Bool :=
  okWith (s.place 0 1 0xC000000000000040 64 64 1 1) fun t p =>
    let u := t.drain 0 p.hm p.key
    let dq := u.dequeAt p.key
    decide (1 ≤ dq.cap) && decide (dq.cap ≤ 12) && decide (dq.owner = 1) && f u dq &&
      (match u.decodeAddr 0 1 0xC000000000000040 dq.size true with | .ok _ => true | .error _ => false)

theorem witness_BindingsAndDeques :
    let s := withDeq 1 3 (turn 1 [0xC000000000000040, 0x22])
    let held := s.onCtx 0 2 fun k => { k with q := [(1, 0x15)] }
    let none' := withDeq 3 3 (turn 1 [0xC000000000000040, 0x22])
    let full := withDeq 0 4 (turn 1 [0xC000000000000040, 0x22])
    s.Ready .any h0 [] [] ∧ held.Ready .any h0 [] [] ∧ (held.core 0).roleHeld 1 0 5 1 = true ∧
    (s.core 0).roleHeld 1 0 5 1 = false ∧ s.Ready .any h0 [1] [] ∧ s.dequeTag 0xC000000000000040 true = true ∧
    s.dequeTag 0xC000000000000040 false = true ∧
    (∃ t p, s.place 0 1 0xC000000000000040 (64 + 8 * 2 ^ 12) 64 1 1 = (t, .ok p)) ∧
    s.Ready .any h0 [1, 2] [3] ∧ s.Ready .any h0 [1] [3] ∧ (0x22 : Word) ≠ 0 ∧ (0x22 : Word).getLsbD 0 = false ∧
    (0x23 : Word).getLsbD 0 = true ∧ deqOk s (fun u dq => !dq.isFull && !dq.isEmpty &&
      decide (u.loadN (dq.slot (dq.bot - 1)) 8 % 2 = 0) && decide (u.loadN (dq.slot dq.top) 8 % 2 = 0)) = true ∧
    deqOk none' (fun _ dq => dq.isEmpty) = true ∧ deqOk full (fun _ dq => dq.isFull) = true :=
  ⟨ready_of (by decide +kernel), ready_of (by decide +kernel), by decide +kernel, by decide +kernel,
    ready_of (by decide +kernel), by decide +kernel, by decide +kernel, ok_of (by decide +kernel),
    ready_of (by decide +kernel), ready_of (by decide +kernel), by decide +kernel⟩

/-! #### Strands, contexts and traps -/

/-- A frame free list with one frame, at 2^21. -/
def withFrames (s : State) : State :=
  ((withQueue 0 (paged s)).qPush 5 ⟨0x200000, none⟩ 0).onPart 0 fun p => { p with frameq := 0x80000005 }

def gotB : FrameR → Bool
  | .got _ _ => true
  | _ => false

theorem got_of {r : FrameR} (h : gotB r = true) : ∃ u f, r = .got u f := by
  cases r with
  | got u f => exact ⟨u, f, rfl⟩
  | _ => cases h

theorem witness_Spawning :
    let s := turn 1 [1, 2, 3, 4, 7]
    let full := s.onCore 7 fun k => { k with direct := List.replicate 48 (.child ⟨0, 0, 0, 0, 0, 0, 0, 0, 0⟩ 0) }
    let q := (withQueue 3 (turn 1 [1, 2, 3, 4, 5])).onHwq 5 fun q => { q with spawn := true }
    let qFull := (withQueue 16 (turn 1 [1, 2, 3, 4, 5])).onHwq 5 fun q => { q with spawn := true }
    let held := s.onCore 7 fun k => { k with directHeld := [.child ⟨0, 1, 0, 0, 0, 0, 0, 0, 0⟩ 2] }
    let both := held.onCore 7 fun k => { k with direct := List.replicate 64 (.child ⟨0, 0, 0, 0, 0, 0, 0, 0, 0⟩ 0) }
    s.Ready .any h0 [1, 2, 3, 4, 5] [] ∧ full.Ready .any h0 [1, 2, 3, 4, 5] [] ∧ q.Ready .any h0 [1, 2, 3, 4, 5] [] ∧
    qFull.Ready .any h0 [1, 2, 3, 4, 5] [] ∧ s.typeOk 0 1 = true ∧ s.typeOk 0 0 = false ∧
    s.inPart (s.partOf 0) 7 = true ∧ s.inPart (s.partOf 0) 191 = false ∧ ((s.publish 0 1).core 7).direct.length < 48 ∧
    48 ≤ ((full.publish 0 1).core 7).direct.length ∧ (q.queueOk 0 5 && (q.hwq 5).spawn) = true ∧
    ((q.publish 0 1).hwq 5).isFull = false ∧ ((qFull.publish 0 1).hwq 5).isFull = true ∧
    (held.core 7).directHeld = [.child ⟨0, 1, 0, 0, 0, 0, 0, 0, 0⟩ 2] ∧ (held.core 7).direct.length < 64 ∧
    64 ≤ (both.core 7).direct.length ∧ (both.core 7).directHeld = (held.core 7).directHeld :=
  ⟨ready_of (by decide +kernel), ready_of (by decide +kernel), ready_of (by decide +kernel),
    ready_of (by decide +kernel), by decide +kernel⟩

/-- A node that belongs to strand 1: an operation it has outstanding. -/
def withNode (s : State) : State :=
  (s.setBytes (scrKey 0 0x200) (toBytes 4 (2 ^ 31 + 5 + 256 * 1))).onCore 0 fun k => { k with nodes := [0x200] }

/-- A strand with a jc, and its join cell. -/
def joined (value : Nat) (cont : Bool) (g : List Word) : State :=
  ((withObj 0 value (turn 1 g)).setBytes 0x112 [if cont then 1 else 0]).onMe fun k => { k with jc := 0x100 }

/-- The cell is found, and passes a test. -/
def cellOk (s : State) (f : State → SyncObj → Bool) : Bool := okWith (s.objPlace 0 1 0x100) fun t p =>
  let r := t.reachObj 0 1 p
  r.cur == 0 && r.actor == 1 && f r (r.obj p.key)

/-- A yield-mode AWAIT reserves the cell, and what it leaves passes a test. -/
def yieldOk (s : State) (f : State → Bool) : Bool := okWith (s.objPlace 0 1 0x100) fun t p =>
  let r := t.reachObj 0 1 p
  f ((r.setObj 0 p.hm p.key { r.obj p.key with cont := true, link := 0 } (byStrand 0 1)).onMe fun k =>
    { k with reserved := some (p.key, p.hm) })

theorem witness_JoinCells :
    let s := joined 3 false [0x100, 7]
    let zero := joined 0 false [0x100, 7]
    let taken := joined 3 true [0x100, 7]
    let last := (joined 1 true [0x100, 7]).setBytes 0x108 (toBytes 8 0x200000)
    let yields := (withFrames s).onMe fun k => { k with jc := 0x100 }
    let woken := s.onMe fun k => { k with grant := some (0, none) }
    let locks := s.onCore 3 fun k => { k with locks := [⟨0, 0, some (sidOf 0 1)⟩] }
    yields.Ready .user h0 [1] [] ∧ woken.Ready .any h0 [1] [] ∧ locks.Ready .user h0 [1] [] ∧
    s.Ready .any h0 [1, 2] [] ∧ taken.Ready .any h0 [1, 2] [] ∧ s.Ready .user h0 [1] [] ∧ s.Ready .any h0 [1] [] ∧
    zero.Ready .any h0 [1] [] ∧ (turn 1 [0x100]).Ready .user h0 [1] [] ∧ (turn 1 [0x100]).me.jc = 0 ∧ s.me.jc ≠ 0 ∧
    s.me.grant = none ∧ s.me.reserved = none ∧ s.holdsLock 0 1 = false ∧
    cellOk s (fun t o => decide (o.kind = 0) && !o.cont && decide (o.value ≠ 0) &&
      !bit (t.part (t.partOf 0)).frameq 31) = true ∧
    cellOk zero (fun _ o => decide (o.kind = 0) && !o.cont && decide (o.value = 0)) = true ∧
    cellOk taken (fun _ o => o.cont) = true ∧ (last.obj 0x100).value = 1 ∧ (last.obj 0x100).cont = true ∧
    (last.obj 0x100).link ≠ 0 ∧ (last.obj 0x100).kind = 0 ∧ (s.obj 0x100).value ≠ 1 ∧ woken.me.grant.isSome = true ∧
    locks.holdsLock 0 1 = true ∧ cellOk yields (fun t o => decide (o.value ≠ 0) && bit (t.part (t.partOf 0)).frameq 31) = true ∧
    yieldOk yields (fun w => !w.anyOut 0 1 && gotB (w.popFrame (w.partOf 0))) = true ∧
    yieldOk (withNode yields) (fun w => w.anyOut 0 1) = true :=
  ⟨ready_of (by decide +kernel), ready_of (by decide +kernel), ready_of (by decide +kernel),
    ready_of (by decide +kernel), ready_of (by decide +kernel), ready_of (by decide +kernel),
    ready_of (by decide +kernel), ready_of (by decide +kernel), ready_of (by decide +kernel), by decide +kernel⟩

theorem witness_ForkingStrands :
    let s := (withFrames (joined 3 false [100, 7, 0x200])).onMe fun k => { k with jc := 0x100 }
    let busy := withNode s
    s.Ready .user h0 [1, 2, 3] [] ∧ (s.typeOk 0 1 = true ∧ s.typeOk 0 2 = false ∧ s.operand [] 1 ≠ 0 ∧
    s.operand [1] 2 ≠ 0 ∧ s.me.jc ≠ 0 ∧ s.holdsLock 0 1 = false ∧
    cellOk s (fun r o => o.kind == 0 && !o.cont && !r.anyOut 0 1 && gotB (r.popFrame (r.partOf 0))) = true) ∧
    busy.Ready .user h0 [1, 2, 3] [] ∧ cellOk busy (fun r o => o.kind == 0 && !o.cont && r.anyOut 0 1) = true ∧
    cellOk ((joined 3 true [100, 7, 0x200])) (fun _ o => o.cont) = true ∧
    (joined 3 true [100, 7, 0x200]).Ready .user h0 [1, 2, 3] [] :=
  ⟨ready_of (by decide +kernel), by decide +kernel, ready_of (by decide +kernel), by decide +kernel,
    by decide +kernel, ready_of (by decide +kernel)⟩

/-- Core 0 in profile 1, where it is of class 0 and core 5 of class 1. -/
def classed (s : State) : State := s.onDev fun d => { d with profile := 1 }

theorem witness_LeavingStrands :
    let s := classed (withFrames (turn 1 [0xC000000000000040]))
    let locks := s.onCore 3 fun k => { k with locks := [⟨0, 0, some (sidOf 0 1)⟩] }
    let d := withDeq 1 3 s
    let full := withDeq 0 4 s
    s.Ready .user h0 [] [] ∧ s.anyOut 0 1 = false ∧ s.me.jc = 0 ∧ (withNode s).Ready .user h0 [] [] ∧
    (withNode s).anyOut 0 1 = true ∧ s.Ready .user h0 [] [3] ∧ locks.Ready .user h0 [] [3] ∧
    (locks.holdsLock 0 1 = true ∧ s.holdsLock 0 1 = false ∧ s.classOf 0 = (0 : BitVec 2).toNat ∧
    s.classOf 0 ≠ (1 : BitVec 2).toNat ∧ s.migrateTo 0 1 = some 5 ∧ s.migrateTo 0 3 = none) ∧
    (∃ u f, s.popFrame (s.partOf 0) = .got u f) ∧ d.Ready .user h0 [1] [] ∧ full.Ready .user h0 [1] [] ∧
    deqOk d (fun u dq => !dq.isFull && !u.holdsLock 0 1 &&
      gotB (u.popFrame (u.partOf 0))) = true ∧ deqOk full (fun _ dq => dq.isFull) = true ∧
    (let v := (s.gather 0 1).publish 0 1
     v.cur = 0 ∧ v.actor = 1 ∧ (v.ctx 0 1).jc = 0) ∧ (joined 3 false []).Ready .user h0 [] [] ∧
    (let v := ((joined 3 false []).gather 0 1).publish 0 1
     v.cur = 0 ∧ v.actor = 1 ∧ (v.ctx 0 1).jc = 0x100 ∧ okWith (v.objPlace 0 1 0x100) (fun _ _ => true) = true) ∧
    s.classOf 0 ≠ 3 :=
  ⟨ready_of (by decide +kernel), by decide +kernel, by decide +kernel, ready_of (by decide +kernel),
    by decide +kernel, ready_of (by decide +kernel), ready_of (by decide +kernel), by decide +kernel,
    got_of (by decide +kernel), ready_of (by decide +kernel), ready_of (by decide +kernel), by decide +kernel,
    by decide +kernel, by decide +kernel, ready_of (by decide +kernel), by decide +kernel⟩

theorem witness_WakingAndGating :
    let s := turn 1 [3]
    let parked := s.onCtx 0 1 fun k => { k with st := .parked, wake := .fifo [] [] }
    let stopped := s.onCtx 0 1 fun k => { k with st := .stopped, resume := .parked }
    let flies := s.onCtx 0 1 fun k => { k with flight := [⟨1, 4, some 3, false, 0⟩, ⟨.ofNat 7 63, 9, none, false, 0⟩] }
    let gated := s.onCtx 0 15 fun k => { k with gated := true }
    ((parked.ctx 0 1).st = .parked ∧ (stopped.ctx 0 1).st = .stopped ∧ (stopped.ctx 0 1).resume = .parked ∧
    (s.ctx 0 1).st ≠ .parked ∧ ¬((s.ctx 0 1).st = .stopped ∧ (s.ctx 0 1).resume = .parked) ∧
    (flies.ctx 0 1).flight = [⟨1, 4, some 3, false, 0⟩] ++ ⟨.ofNat 7 63, 9, none, false, 0⟩ :: [] ∧
    (∀ e ∈ [(⟨1, 4, some 3, false, 0⟩ : Flight)], e.landable = false)) ∧
    (∃ x, 0 < x ∧ x < 16 ∧ (s.ctx 0 x).gated = false) ∧ ∃ x, x < 16 ∧ (gated.ctx 0 x).gated = true :=
  ⟨by decide +kernel, ⟨1, by decide +kernel⟩, ⟨15, by decide +kernel⟩⟩

/-- Core 0 with a child of type 1 at its head; the frame area is 64 KiB. -/
def headed (tt : Word) (s : State) : State :=
  (s.onCore 0 fun k => { k with head := some (.child ⟨0x40, 1, 1, 2, 3, 4, 0, 0, 0⟩ 0), frame := 64 }).onPart 0 fun p =>
    { p with tt := [(1, tt)] }

theorem witness_Placement :
    let s := headed 0x80001001 (turn 1 [3])
    let bad := headed 0 (turn 1 [3])
    let large := headed 0x80004100 (turn 1 [3])
    let l1 := s.onCore 0 fun k => { k with l1 := [(0x10, ⟨5, 0xF, 0xF, false, false⟩)] }
    (s.core 0).head = some (.child ⟨0x40, 1, 1, 2, 3, 4, 0, 0, 0⟩ 0) ∧ (s.core 0).blocked = false ∧
    ((s.part (s.partOf 0)).ttOf 1).getLsbD 31 = true ∧
    fld ((s.part (s.partOf 0)).ttOf 1) 8 7 ≤ fld (s.core 0).frame 0 11 ∧
    (∃ x, 0 < x ∧ x < 16 ∧ ((s.core 0).ctx x).st = .free) ∧
    (s.core 0).findWindow (fld ((s.part (s.partOf 0)).ttOf 1) 0 2 + 1) = some 1 ∧
    (s.core 0).findFrame (fld ((s.part (s.partOf 0)).ttOf 1) 8 7) = some 0 ∧
    (bad.core 0).blocked = false ∧ (bad.core 0).trapq.length < 16 ∧ bad.dev.launches.find 0 = none ∧
    ((bad.part (bad.partOf 0)).ttOf 1).getLsbD 31 = false ∧
    fld (large.core 0).frame 0 11 < fld ((large.part (large.partOf 0)).ttOf 1) 8 7 ∧
    (l1.core 0).l1.find 0x10 = some ⟨5, 0xF, 0xF, false, false⟩ ∧ 16 * 0x10 + 16 ≤ 2 ^ 48 :=
  ⟨by decide +kernel, by decide +kernel, by decide +kernel, by decide +kernel, ⟨15, by decide +kernel⟩,
    by decide +kernel⟩

/-- Core 0 in context 0's turn, with a valid trap vector. -/
def super (g : List Word) : State := (turn 0 g).onPart 0 fun p => { p with trapvec := 0x1001 }

theorem witness_TakingTraps :
    let s := turn 1 [3]
    let v := super [3]
    let closed := v.onCore 0 fun k => { k with winOpen := false }
    (1 : Nat) ≠ 0 ∧ (0x0A : Nat) ≠ 0x13 ∧ (0x0A : Nat) < 256 ∧ (s.core 0).trapq.length < 16 ∧ (v.core 0).winOpen = true ∧
    (v.part (v.partOf 0)).trapvec.getLsbD 0 = true ∧ (closed.core 0).winOpen = false ∧
    (s.part (s.partOf 0)).trapvec.getLsbD 0 = false := by decide +kernel

theorem witness_Context0Forms :
    let s := super [3, 0xC000000000000040]
    let full := s.onCore 0 fun k => { k with trapq := [mkRec 0x0A 1 0 0 0 0, mkRec 0x12 1 0 0 0 0] }
    s.Ready .sup h0 [0x46#7] [] ∧ s.Ready .sup h0 [] [] ∧ s.Ready .sup h0 [2] [3] ∧ full.Ready .sup h0 [2] [3] ∧
    s.bufferAt 0xC000000000000040 32 32 1 = .ok (scrKey 0 0x40) ∧
    full.bufferAt 0xC000000000000040 32 32 1 = .ok (scrKey 0 0x40) ∧ (turn 1 [3]).actor ≠ 0 ∧ s.actor = 0 ∧
    (s.core 0).trapq = [] ∧ (full.core 0).trapq = [mkRec 0x0A 1 0 0 0 0, mkRec 0x12 1 0 0 0 0] ∧
    (full.core 0).trapHeld = [] ∧ recKind (mkRec 0x0A 1 0 0 0 0) ≠ 0x13 :=
  ⟨ready_of (by decide +kernel), ready_of (by decide +kernel), ready_of (by decide +kernel),
    ready_of (by decide +kernel), rfl, rfl, by decide +kernel⟩

/-- Core 0 in context 0's turn, with context 2 in a state. -/
def watched (st : CtxState) (g : List Word) : State := (super g).onCtx 0 2 fun k =>
  { k with st := st, pc := 0x80, win := 3 }

theorem witness_TranslationAndContexts :
    let s := watched .trapped [2, 5]
    let r := watched .ready [2, 5]
    s.Ready .sup h0 [1] [] ∧ s.Ready .sup h0 [1] [3] ∧ s.Ready .sup h0 [1, 2] [] ∧ r.Ready .sup h0 [1] [3] ∧
    r.Ready .sup h0 [1, 2] [] ∧ (2 : BitVec 2) ≠ 3 ∧ ¬2 ^ 52 ≤ (2 : Word).toNat ∧
    2 ^ 52 ≤ (0xC000000000000040 : Word).toNat ∧
    (0 < (2 : Word).toNat ∧ (2 : Word).toNat < 16 ∧ ((s.ctx 0 2).st = .stopped ∨ (s.ctx 0 2).st = .trapped)) ∧
    (s.ctx 0 2).st = .trapped ∧ (63 : BitVec 12).toNat < ((s.landAll 0 2).ctx 0 2).winSize 2 ∧
    ¬(0 < (2 : Word).toNat ∧ (2 : Word).toNat < 16 ∧ ((r.ctx 0 2).st = .stopped ∨ (r.ctx 0 2).st = .trapped)) ∧
    ((s.landAll 0 2).ctxSel 0 2 0x80).isSome = true ∧ ((s.landAll 0 2).ctxSel 0 2 0xFFF).isNone = true ∧
    ((s.landAll 0 2).ctxPut 0 2 0x80 5).isSome = true ∧ ((s.landAll 0 2).ctxPut 0 2 0x81 5).isNone = true :=
  ⟨ready_of (by decide +kernel), ready_of (by decide +kernel), ready_of (by decide +kernel),
    ready_of (by decide +kernel), ready_of (by decide +kernel), by decide +kernel⟩

/-- An image at 0x800 of the scratchpad that core 0 holds, with the pc 0x1234. -/
def withImage (s : State) : State :=
  ((s.setBytes (scrKey 0 0xA50) (toBytes 8 0x1234)).setBytes (scrKey 0 0xA70) (toBytes 8 (2 ^ 40))).onCore 0 fun k =>
    { k with held := [⟨scrKey 0 0x800, 0, 0, 0, 0, false, 0, 0, none, []⟩] }

theorem witness_ContextForms :
    let s := watched .ready [2, 0xC000000000000800]
    let i := withImage (watched .free [2, 0xC000000000000800])
    let j := withImage (watched .ready [2, 0xC000000000000800])
    let due := (super [3]).onCore 0 fun k => { k with entryDue := [7] }
    let owed := (turn 1 [3]).onCtx 0 2 fun k => { k with st := .parked, wake := .engrend, etrap := some 5 }
    let late := (turn 1 [3]).onCtx 0 2 fun k => { k with st := .ready, etrap := some 5 }
    s.Ready .sup h0 [1] [] ∧ (watched .free [2]).Ready .sup h0 [1] [] ∧ (watched .trapped [2]).Ready .sup h0 [1] [] ∧
    (watched .parked [16]).Ready .sup h0 [1] [] ∧ s.Ready .sup h0 [1] [3] ∧ s.Ready .sup h0 [1, 2] [3] ∧
    i.Ready .sup h0 [1, 2] [3] ∧ j.Ready .sup h0 [1, 2] [3] ∧
    s.bufferAt 0xC000000000000800 256 2048 1 = .ok (scrKey 0 0x800) ∧
    i.bufferAt 0xC000000000000800 256 2048 0 = .ok (scrKey 0 0x800) ∧
    j.bufferAt 0xC000000000000800 256 2048 0 = .ok (scrKey 0 0x800) ∧
    ((s.ctx 0 2).st = .ready ∧ (s.ctx 0 2).flight = [] ∧ (s.ctx 0 2).fin = none ∧ (s.ctx 0 2).grant = none ∧
      s.wakePending 0 2 = false ∧ (s.ctx 0 2).reserved = none ∧ (s.mx 0).run ≠ some (sidOf 0 2)) ∧
    (i.ctx 0 2).st = .free ∧ (j.ctx 0 2).st ≠ .free ∧
    (i.core 0).held.find? (fun m => m.addr == scrKey 0 0x800 &&
      (frameWord (i.bytes (scrKey 0 0x800) 2048) 78).toNat % 2 ^ 41 == frameField m.fbase m.fsize + 0 * 2 ^ 32 + 2 ^ 40) =
      some ⟨scrKey 0 0x800, 0, 0, 0, 0, false, 0, 0, none, []⟩ ∧ (s.ctx 0 2).sfuOut = none ∧ (s.core 0).sfu = none ∧
    (i.core 0).findWindow ((frameWord (i.bytes (scrKey 0 0x800) 2048) 77).toNat / 2 ^ 30 % 4 + 1) = some 0 ∧
    i.bindingClash 0 2 (i.bytes (scrKey 0 0x800) 2048) = false ∧ (due.core 0).entryDue = [7] ∧
    (due.core 0).winOpen = true ∧
    (due.core 0).dead = false ∧ (due.part (due.partOf 0)).trapvec.getLsbD 0 = true ∧ (due.ctx 0 0).st = .ready ∧
    (due.ctx 0 0).wake = .none ∧ (due.ctx 0 0).reserved = none ∧ (due.ctx 0 0).grant = none ∧
    (due.ctx 0 0).busy = false ∧
    due.wakePending 0 0 = false ∧ (owed.ctx 0 2).etrap ≠ none ∧ (owed.ctx 0 2).st = .parked ∧
    (owed.ctx 0 2).wake = .engrend ∧
    (late.ctx 0 2).etrap ≠ none ∧ (late.ctx 0 2).st = .ready ∧ ((turn 1 [3]).ctx 0 2).etrap = none :=
  ⟨ready_of (by decide +kernel), ready_of (by decide +kernel), ready_of (by decide +kernel),
    ready_of (by decide +kernel), ready_of (by decide +kernel), ready_of (by decide +kernel),
    ready_of (by decide +kernel), ready_of (by decide +kernel), rfl, rfl, rfl, by decide +kernel⟩

/-- Each kind of system register: those read, one that is not listed, those that a write leaves, and the writes. -/
theorem witness_SystemRegisterForms :
    let s := withQueue 0 (super [0, 0x1000, 0x80000005, 0x10000])
    s.Ready .sup h0 [1] [3] ∧ s.Ready .sup h0 [1, 2] [] ∧ s.Ready .sup h0 [1, 3] [] ∧ s.Ready .sup h0 [1, 4] [] ∧
    sysListed 0x003 = false ∧ sysListed 0x023 = true ∧ ((0 : Word).toNat + (0xFFF : BitVec 12).toNat) % 4096 = 0xFFF ∧
    0x800 ≤ 0xFFF ∧ (s.writeWindow (s.partOf 0) false 0x1000).isSome = true ∧
    2 ^ 52 ≤ (0xFFFFFFFFFFFFFFFF : Word).toNat ∧
    (0x80000005#64 &&& ~~~0x80003FFF#64) = 0 ∧ (0x8000000000000000#64 &&& ~~~sysBits 0x023) ≠ 0 ∧ (0 &&& ~~~sysBits 0x023) = 0 ∧
    (s.sysWrite 0 0 0x020 0x1000).isSome = true ∧ (0x1000#64 &&& ~~~sysBits 0x020) = 0 ∧ (s.writeFrameq (s.partOf 0) 0x80000005).isSome = true ∧
    (0x10000 : Word).toNat < 2 ^ 32 :=
  ⟨ready_of (by decide +kernel), ready_of (by decide +kernel), ready_of (by decide +kernel),
    ready_of (by decide +kernel), by decide +kernel⟩

theorem witness_RegisterWriteEvents :
    let s := turn 1 [3]
    let idle := s.onCtx 0 1 fun k => { k with st := .free }
    let sent := s.onDev fun d => { d with fwd := [(0, mkRec 0x06 2 0 0 0 0)] }
    s.carveOk 0 1 = false ∧ idle.carveOk 0 5 = true ∧ (s.core 0).idleUsers = false ∧ (idle.core 0).idleUsers = true ∧
    (0x00400040#64 &&& ~~~0x87FF07FF#64) = 0 ∧
    1024 * (fld 0x00400040#64 16 11 + fld 0x00400040#64 0 11) ≤ (idle.core 0).scratchSize ∧
    (1 : Word).getLsbD 0 = true ∧ (s.vectorPage 0 (1 &&& sysBits 0x13)).isNone = true ∧
    (0x80000000#64).getLsbD 31 = true ∧
    s.queueIs 0 (fld 0x80000000#64 0 14) false = false ∧ (s.part 0).pwsize = 0 ∧ 0 < (11 &&& 0x3F#64).toNat ∧
    (11 &&& 0x3F#64).toNat < 12 ∧ 12 ≤ (12 &&& 0x3F#64).toNat ∧ (12 &&& 0x3F#64).toNat ≤ 32 ∧
    (s.part 0).pwbase.toNat % 2 ^ (12 &&& 0x3F#64).toNat = 0 ∧ fld 0x80004000#64 8 7 ≤ 64 ∧ 64 < fld 0x80004100#64 8 7 ∧
    (0x10 : Word).toNat % 32 ≠ 0 ∧
    (0x40 : Word).toNat < 2 ^ 21 ∧ s.scrOk (s.partOf 0) 0 0x40 32 = true ∧ sent.dev.fwd = [(0, mkRec 0x06 2 0 0 0 0)] ∧
    recCtx (mkRec 0x06 2 0 0 0 0) = 2 ∧ (sent.core 0).trapq.length < 16 := by decide +kernel

/-! #### Tensors, the matrix and copy engines, graphs and scripts -/

/-- A shape record: base, the extents of dimensions 0 and 1, the stride of dimension 1, the format's type, the status
address. -/
def shp (base e0 e1 t1 ety stat : Nat) : BitVec 512 :=
  let at_ := fun (v lo : Nat) => BitVec.ofNat 512 v <<< lo
  at_ base 0 ||| at_ (e0 - 1) 64 ||| at_ (e1 - 1) 96 ||| at_ t1 192 ||| at_ ety 288 ||| at_ stat 416

/-- A result that goes through, and one that is a number. -/
def goesB {ε α : Type} (r : Except ε α) : Bool :=
  match r with
  | .ok _ => true
  | .error _ => false

theorem goes_of {ε α : Type} {r : Except ε α} (h : goesB r = true) : ∃ t, r = .ok t := by
  cases r with
  | ok t => exact ⟨t, rfl⟩
  | error _ => cases h

def atB {ε : Type} (r : Except ε Nat) (k : Nat) : Bool :=
  match r with
  | .ok t => t == k
  | .error _ => false

theorem at_of {ε : Type} {r : Except ε Nat} {k : Nat} (h : atB r k = true) : r = .ok k := by
  cases r with
  | ok t => rw [eq_of_beq h]
  | error _ => cases h

def scr (off : Nat) : Nat := 0xC * 2 ^ 60 + off

/-- A strand with shapes 0, 1, 2 and 3 of 8 elements of i32, at 0x100, 0x200, 0x300 and 0x400 of its scratchpad,
  and shape 4
of 600 bytes at 0x800. -/
def shaped (g : List Word) : State := ((turn 1 g).setBytes (scrKey 0 0x200) [1, 0, 0, 0, 2]).onMe fun k => { k with
  shapes := [(0, shp (scr 0x100) 8 1 0 1 (scr 0x40)), (1, shp (scr 0x200) 8 1 0 1 0), (2, shp (scr 0x300) 8 1 0 1 0),
    (3, shp (scr 0x400) 8 1 0 1 0), (4, shp (scr 0x800) 600 1 0 3 0), (5, shp (scr 0x101) 8 1 0 1 0)] }

/-- The environment of shapes 0 to 3. -/
def env0 : TEnv :=
  ⟨0, 1, shapeOf (shp (scr 0x100) 8 1 0 1 (scr 0x40)), shapeOf (shp (scr 0x200) 8 1 0 1 0),
    shapeOf (shp (scr 0x300) 8 1 0 1 0), shapeOf (shp (scr 0x400) 8 1 0 1 0), 7, 0⟩

/-- A float environment of one element each. -/
def envF : TEnv :=
  ⟨0, 1, shapeOf (shp (scr 0x100) 1 1 0 9 0), shapeOf (shp (scr 0x200) 1 1 0 9 0), shapeOf (shp (scr 0x300) 1 1 0 9 0),
    shapeOf (shp (scr 0x400) 1 1 0 9 0), 7, 0⟩

theorem witness_TensorForms :
    let s := shaped [0xC000000000000040, 0xC000000000000044]
    let add := tAB 0 0 0 1 2 false .i32 0 false false
    let fill := tFill 0 4
    let bad := tFill 0 5
    s.Ready .any h0 [1] [] ∧ s.Ready .any h0 [2] [] ∧ s.Ready .any h0 [] [3] ∧ s.Ready .any h0 add.srcs [] ∧
    s.Ready .any h0 fill.srcs [] ∧
    (s.scrAt 0 1 (env0.d.addr (env0.d.coord 7)) 4 = .ok (scrKey 0 0x11C) ∧
      s.scrAt 0 1 (env0.a.addr (env0.a.bcast (env0.d.coord 7))) 4 = .ok (scrKey 0 0x21C) ∧
      s.scrAt 0 1 (env0.b.addr (env0.b.bcast (env0.d.coord 7))) 4 = .ok (scrKey 0 0x31C) ∧
      s.scrAt 0 1 (env0.c.addr (env0.c.bcast (env0.d.coord 7))) 4 = .ok (scrKey 0 0x41C)) ∧
    (s.scrAt 0 1 (envF.d.addr (envF.d.coord 0)) 4 = .ok (scrKey 0 0x100) ∧
      s.scrAt 0 1 (envF.a.addr (envF.a.bcast (envF.d.coord 0))) 4 = .ok (scrKey 0 0x200) ∧
      s.scrAt 0 1 (envF.b.addr (envF.b.bcast (envF.d.coord 0))) 4 = .ok (scrKey 0 0x300) ∧
      s.scrAt 0 1 (envF.c.addr (envF.c.bcast (envF.d.coord 0))) 4 = .ok (scrKey 0 0x400)) ∧
    (s.scrAt 0 1 (env0.a.addr (env0.a.coord 0)) 4 = .ok (scrKey 0 0x200) ∧
      s.scrAt 0 1 (env0.d.addr (env0.d.coord 0)) 4 = .ok (scrKey 0 0x100)) ∧
    (((0xC000000000000044 : Word) + (0xFFFF#16).signExtend 64 * 64).toNat % 64 ≠ 0 ∧
    fld 0xC000000000000040#64 60 4 = 0xC ∧ fld 0xC000000000000040#64 21 39 = 0 ∧
    (0xC000000000000040 : Word).toNat % 64 = 0 ∧ s.posted = [] ∧ (s.core 0).wctl = [] ∧
    s.scrOk (s.partOf 0) 0 0x40 64 = true ∧ (s.part (s.partOf 0)).scrwin = 0 ∧ (10 : BitVec 4).toNat ≤ 10 ∧
    s.tCheck bad (bad.env s 0 1 [0]) = some (5, 0, 0xC000000000000101) ∧ s.tCheck add (add.env s 0 1 []) = none ∧
    (runChunk add (add.env s 0 1 []) ⟨s, 0, 0, 0⟩).2 = none ∧ add.count (add.env s 0 1 []) ≤ 0 + 8 ∧
    (runChunk add (add.env s 0 1 []) ⟨s, 0, 0, 0⟩).1.ri = 8) ∧
    (let free := tAB 0 0 1 2 3 false .i32 0 false false
     s.Ready .any h0 free.srcs [] ∧ s.tCheck free (free.env s 0 1 []) = none ∧ free.onSfu = false ∧
       (free.env s 0 1 []).d.stat = 0 ∧ (runChunk free (free.env s 0 1 []) ⟨s.settle 0, 0, 0, 0⟩).2 = none ∧
       free.count (free.env s 0 1 []) ≤ (runChunk free (free.env s 0 1 []) ⟨s.settle 0, 0, 0, 0⟩).1.ri) ∧
    (tSfu 0 1 2 0 false .f32 0 1).onSfu = true ∧ (s.core 0).sfuTurn 1 = true ∧
    ((s.onCore 0 fun k => { k with sfu := some ⟨2, 9, 0, none⟩ }).core 0).sfuTurn 1 = false ∧
    s.tCheck fill (fill.env s 0 1 [0]) = none ∧ (runChunk fill (fill.env s 0 1 [0]) ⟨s, 0, 0, 0⟩).2 = none ∧
    (runChunk fill (fill.env s 0 1 [0]) ⟨s, 0, 0, 0⟩).1.ri < fill.count (fill.env s 0 1 [0]) ∧ env0.a.f = .ty .i32 ∧
    env0.b.f = .ty .i32 ∧ env0.d.f = .ty .i32 ∧ env0.c.f = .ty .i32 ∧ env0.d.mode = 0 ∧ env0.a.mode = 0 ∧
    env0.b.mode = 0 ∧ env0.c.mode = 0 ∧ tyFloat .i32 = false ∧ Ty.i32 ≠ .m8 ∧ env0.d.fmt = env0.a.fmt ∧
    env0.d.fmt = env0.b.fmt ∧ envF.a.f = .ty .f32 ∧ envF.b.f = .ty .f32 ∧ envF.c.f = .ty .f32 ∧
    envF.d.f = .ty .f32 ∧ tyFloat .f32 = true ∧
    (0 ≤ tyVal .i32 (s.loadN (scrKey 0 0x31C) 4 % 2 ^ 32) ∧
    tyVal .i32 (s.loadN (scrKey 0 0x31C) 4 % 2 ^ 32) < env0.a.count) ∧ ¬((8 : Int) < env0.a.count) :=
  ⟨ready_of (by decide +kernel), ready_of (by decide +kernel), ready_of (by decide +kernel),
    ready_of (by decide +kernel), ready_of (by decide +kernel),
    ⟨at_of (by decide +kernel), at_of (by decide +kernel),
    at_of (by decide +kernel), at_of (by decide +kernel)⟩,
    ⟨at_of (by decide +kernel), at_of (by decide +kernel),
    at_of (by decide +kernel), at_of (by decide +kernel)⟩, ⟨at_of (by decide +kernel), at_of (by decide +kernel)⟩,
    by decide +kernel, ⟨ready_of (by decide +kernel), by decide +kernel⟩, by decide +kernel⟩

/-- The sum of all 8 elements of shape 1 into one element. -/
def envR : TEnv := { env0 with d := shapeOf (shp (scr 0x100) 1 1 0 1 0) }

theorem witness_TensorResults :
    let s := shaped []
    let add := tAB 0 0 0 1 2 false .i32 0 false false
    let done := fun (stat : Word) => s.onCtx 0 1 fun k => { k with fin := some ⟨stat, 0x10, 0, false, []⟩ }
    (∀ i, i < 8 → s.scrAt 0 1 (envR.a.addr (redCoord envR.d envR.a (envR.d.coord 0) i)) envR.a.z = .ok (scrKey 0 (0x200 + 4 * i))) ∧
    s.scrAt 0 1 (envR.d.addr (envR.d.coord 0)) envR.d.z = .ok (scrKey 0 0x100) ∧
    s.scrAt 0 1 (.ofNat 64 (scr 0x40)) 16 = .ok (scrKey 0 0x40) ∧
    (∀ op t rm, add.kind ≠ .red op t rm) ∧ envR.a.f = .ty .i32 ∧ envR.d.f = .ty .i32 ∧ envR.a.mode = 0 ∧
    envR.d.mode = 0 ∧
    0 ≤ add.count env0 ∧ (runChunk add env0 ⟨s, 0, 0, 0⟩).2 = none ∧ (s.ctx 0 1).fin = none ∧
    ((done 0).ctx 0 1).fin = some ⟨0, 0x10, 0, false, []⟩ ∧
    ((done (.ofNat 64 (scr 0x40))).ctx 0 1).fin = some ⟨.ofNat 64 (scr 0x40), 0x10, 0, false, []⟩ := by
  refine ⟨?_, at_of (by decide +kernel), at_of (by decide +kernel), ?_, by decide +kernel⟩
  · intro i hi
    rcases i with _ | _ | _ | _ | _ | _ | _ | _ | i
    all_goals first
      | exact at_of (by decide +kernel)
      | exact absurd hi (by omega)
  · intro _ _ _ h
    cases h

/-- A strand whose shapes 0 and 1 are a B and an A of two rows of two i8 elements, and shape 2 an i32 destination. -/
def matrixed (b : Option BDesc) : State :=
  let s := (turn 1 []).onMe fun k => { k with
    shapes := [(0, shp (scr 0x100) 2 2 2 3 0), (1, shp (scr 0x200) 2 2 2 3 0), (2, shp (scr 0x300) 2 2 8 1 0),
      (3, shp (scr 0x100) 2 2 2 8 0)] }
  s.onMx 0 fun v => { v with b := b, owner := some 1, lastPart := some 0 }

theorem engine_of {s s1 : State} (h : decide (s.claimGang s.cur (sidOf s.cur s.actor) (s.partOf s.cur) = some s1 ∧
    s1.mxPending s.cur s.actor = false ∧ s1.mxBusy s.cur (sidOf s.cur s.actor) = false) = true) : s.Engine s1 :=
  of_decide_eq_true (p := _ ∧ _ ∧ _) h

def theB : BDesc := ⟨2, 2, 3, [none, none]⟩

theorem witness_MatrixWork :
    let s := matrixed (some theB)
    let other := s.onMx 0 fun v => { v with owner := some 2 }
    let sh := fun (n : Nat) => shapeOf (s.me.shapes.get 0 n)
    let run := (s.settle 0).setRun 0 (some 1)
    s.Ready .any h0 [] [] ∧ other.Ready .any h0 [] [] ∧ (matrixed none).Ready .any h0 [] [] ∧ s.Engine s ∧
    (matrixed none).Engine (matrixed none) ∧ (∃ r, s.codes 0 1 (sh 0) 1 (sh 0).e0 = .ok r) ∧
    (∃ t, s.ldbRow 1 (sh 0) 1 0 = .ok t) ∧
    (other.claimGang 0 (sidOf 0 1) (other.partOf 0)).isNone = true ∧
    s.mCheck (s.members 0) 1 .ldb (sh 3) = some (2, 0, 0) ∧
    s.mCheck (s.members 0) 1 .ldb (sh 0) = none ∧ s.mReady (s.members 0) 1 .ldb (sh 0) = true ∧
    s.mCheck (s.members 0) 1 (.mma 0) (sh 1) = none ∧ s.mReady (s.members 0) 1 (.mma 0) (sh 1) = true ∧
    (matrixed none).mReady [0] 1 (.mma 0) (sh 1) = false ∧ (s.mx 0).seen = [] ∧ (sh 2).stat = 0 ∧
    MOp.count (.st 0 0 0) (sh 2) ≤ (run.mChunk [0] 1 (.st 0 0 0) (sh 2) 0 0 0).1.ri ∧
    s.mCheck (s.members 0) 1 (.st 0 0 0) (sh 2) = none ∧
    (run.mChunk [0] 1 .ldb (sh 0) 0 0 0).2 = none ∧ (run.mChunk [0] 1 .ldb (sh 0) 0 0 0).1.ri < MOp.count .ldb (sh 0) ∧
    (run.mChunk [0] 1 (.mma 0) (sh 1) 0 1 0).2 = none ∧
    MOp.count (.mma 0) (sh 1) ≤ (run.mChunk [0] 1 (.mma 0) (sh 1) 0 1 0).1.ri ∧
    (run.mChunk [0] 1 (.st 0 0 0) (sh 2) 0 0 0).2 = none ∧ (s.mx 0).b = some theB ∧ efmt theB.fmt = .ty .i8 ∧
    theB.n ≤ 192 ∧
    [3, 4].length = theB.k ∧ theB.k ≤ 32 ∧ 0 < theB.k :=
  ⟨ready_of (by decide +kernel), ready_of (by decide +kernel), ready_of (by decide +kernel),
    engine_of (by decide +kernel), engine_of (by decide +kernel), goes_of (by decide +kernel),
    goes_of (by decide +kernel), by decide +kernel⟩

theorem witness_MatrixControl :
    let s := matrixed (some theB)
    let sh := shapeOf (s.me.shapes.get 0 2)
    let ends := fun (stat : Word) => s.onCtx 0 1 fun k => { k with fin := some ⟨stat, 0x10, 0, true, []⟩ }
    let odd := { s with cur := 1, cores := [(1, coreAt 1 [])] }
    s.Ready .any h0 [] [] ∧ s.Engine s ∧ odd.Ready .any h0 [] [] ∧
    s.scrAt 0 1 (sh.addr ⟨3 % sh.e0, 3 / sh.e0, 0, 0⟩) sh.z = .ok (scrKey 0 0x30C) ∧ sh.mode = 0 ∧
    (s.mx 0).rowL.get none (0 + 3 / sh.e0) = none ∧ (s.mx 0).colL.get none (0 + 3 % sh.e0) = none ∧ 0 ∈ s.members 0 ∧
    colOf odd.cur % 2 ^ (1 : BitVec 2).toNat ≠ 0 ∧ (s.mx 0).gang = 1 ∧ s.inPart (s.partOf 0) 0 = true ∧
    colOf 0 % 4 = 0 ∧
    (∀ i, i < 4 → s.inPart (s.partOf 0) (0 + i) = true) ∧
    (∀ m, m < 4 → 0 < m → (s.mx m).owner = none ∧ (s.mx m).waiters = [] ∧
      ((s.mx m).lastPart = some (s.partOf 0) ∨ s.mxSpill.find (spillKey (s.partOf 0) m) = none)) ∧
    (s.ctx 0 1).fin = none ∧ ((ends 0).ctx 0 1).fin = some ⟨0, 0x10, 0, true, []⟩ ∧
    (ends 0).owns 0 (sidOf 0 1) ((ends 0).partOf 0) = true :=
  ⟨ready_of (by decide +kernel), engine_of (by decide +kernel), ready_of (by decide +kernel), at_of (by decide +kernel),
    by decide +kernel⟩

/-- A copy of shape 1 to shape 0 in slot 3, whose engine's strand is in context 1. -/
def copyOf (act : Nat) (target : Word) : Copy :=
  newCopy 0 (shp (scr 0x100) 8 1 0 1 0) (shp (scr 0x200) 8 1 0 1 0) (shp (scr 0x200) 2 2 2 3 0) 1 0 0 act false target 7 1 0 0 0x40
    5 none

/-- A machine with that copy under way. -/
def copying (q : Copy) (s : State) : State := s.onCore 0 fun k => { k with copies := [(3, q)] }

/-- All 16 slots taken. -/
def slotless (s : State) : State :=
  s.onCore 0 fun k => { k with copies := (List.range 16).map fun i => (i, { copyOf 0 0 with order := i }) }

theorem witness_CopyStarts :
    let s := shaped [0, 7]
    let q := fun (form mop : Nat) => newCopy form (s.me.shape 0) (s.me.shape (if form = 2 then 3 else 1)) (s.me.shape 2) mop 0 0 0
      false 0 0 1 0 0 s.me.pc s.me.summ none
    let m := (matrixed none).onMx 0 fun v => { v with owner := none }
    let wide := { (matrixed none).onMx 0 fun v => { v with owner := none, lastPart := some 1 } with
      mxSpill := [(0, { Matrix.reset with owner := some 1, gang := 2, lastPart := some 0 })] }
    let qm := newCopy 2 (m.me.shape 0) (m.me.shape 1) (m.me.shape 0) 1 0 0 0 false 0 0 1 0 0 m.me.pc m.me.summ none
    let bad := newCopy 0 (s.me.shape 5) (s.me.shape 1) (s.me.shape 0) 0 0 0 0 false 0 0 1 0 0 s.me.pc s.me.summ none
    let copy := copyOf 0 0
    let conv := { copy with a := shp (scr 0x200) 8 1 0 3 0 }
    let far := { copy with d := shp (scr 0x200000) 8 1 0 1 0 }
    let gone := { copy with a := shp (scr 0x200000) 8 1 0 1 0 }
    let lo : Word := .ofNat 64 (scr 0x100)
    s.Ready .any h0 (actSrcs 0 1 2) [] ∧ s.Ready .any h0 (actSrcs 1 1 2) [] ∧ s.Ready .any h0 (actSrcs 3 1 2) [] ∧
    (slotless s).Ready .any h0 (actSrcs 0 1 2) [] ∧ m.Ready .any h0 (actSrcs 0 1 2) [] ∧
    (s.copyBad 0 bad).isSome = true ∧ s.copyBad 0 (q 0 0) = none ∧ s.copyBad 0 (q 1 0) = none ∧
    (slotless s).copyBad 0 (q 0 0) = none ∧ m.copyBad 0 qm = none ∧ (m.claim 0 (sidOf 0 1) 0).isSome = true ∧
    (m.claim 0 (sidOf 0 1) 0).all (fun t => (t.mx 0).gang == 1) = true ∧ wide.copyBad 0 qm = none ∧
    (wide.claim 0 (sidOf 0 1) 0).any (fun t => decide (1 < (t.mx 0).gang)) = true ∧ (s.core 0).freeSlot = some 0 ∧
    s.copyTurn 0 1 = true ∧ ((slotless s).core 0).freeSlot = none ∧
    (shapeOf copy.d).mode = 0 ∧ (shapeOf copy.a).mode = 0 ∧ (shapeOf copy.a).f = (shapeOf copy.d).f ∧
    (shapeOf conv.a).f ≠ (shapeOf conv.d).f ∧
    okWith (s.engRead 0 0 0 1 ((shapeOf copy.a).addr ((shapeOf copy.a).bcast ((shapeOf copy.d).coord 7))) 4)
      (fun _ _ => true) = true ∧
    ((copying copy s).core 0).copies.find 3 = some copy ∧ copy.phase = 0 ∧ copy.stopped = false ∧ copy.form = 0 ∧
    failsB (s.copyCodes gone 0 (unitFrom (shapeOf gone.d) 0)) = true ∧
    okWith (s.copyCodes far 0 (unitFrom (shapeOf far.d) 0)) (fun t _ =>
      failsB (t.placeIn 0 0 0 1 (.ofNat 64 (scr 0x200000)) 16 1 1 3)) = true ∧
    okWith ((copying copy s).copyCodes copy 0 (unitFrom (shapeOf copy.d) 0)) (fun t _ =>
      okWith (t.placeIn 0 0 0 1 lo 16 1 1 3) (fun u pl => u.posted == [] && decide (ownScr ≤ pl.key) &&
        keyDev 0 pl.key == 0)) = true ∧
    (unitFrom (shapeOf copy.d) 0).length = 4 ∧ (shapeOf copy.d).count ≤ 4 + (unitFrom (shapeOf copy.d) 4).length :=
  ⟨ready_of (by decide +kernel), ready_of (by decide +kernel), ready_of (by decide +kernel),
    ready_of (by decide +kernel), ready_of (by decide +kernel), by decide +kernel⟩

/-- A CPYMM whose units are all written, and a copy with only its action left. -/
def cmdOf : Copy := { copyOf 0 0 with
  form := 2, phase := 1, d := shp (scr 0x100) 2 2 2 8 0, a := shp (scr 0x100) 2 2 2 8 0,
    m := shp (scr 0x100) 2 2 2 3 0 }
def lastRow : Copy := { cmdOf with mri := 1, phase := 2 }
def badCmd : Copy := { cmdOf with m := shp (scr 0x100) 2 2 2 8 0 }
def ending (act : Nat) (target : Word) : Copy := { copyOf act target with phase := 4 }

/-- A command row goes through, and the row that follows. -/
def rowB (s : State) (k : Copy) (f : Nat → Bool) : Bool :=
  let r := (s.setRun 0 (some (8192 + 3))).mChunk (s.members 0) 1 k.command (shapeOf k.m) 0 k.mri 0
  r.2.isNone && f r.1.ri

theorem witness_CopyEnds :
    let s := shaped []
    let m := matrixed none
    let t := copying cmdOf m
    let d := shapeOf (copyOf 0 0).d
    (d.addr (d.coord 7)).toNat - scr 0x110 + d.z ≤ (List.replicate 16 (0 : Byte)).length ∧ d.f = .ty .i32 ∧
    (t.core 0).copies.find 3 = some cmdOf ∧ cmdOf.stopped = false ∧ t.partOf 0 = cmdOf.part ∧
    (copying { cmdOf with part := 1 } m).partOf 0 ≠ 1 ∧ (t.core 0).firstCommand cmdOf = true ∧
    (t.core 0).firstCommand { cmdOf with order := 1 } = false ∧
    (m.onMx 0 fun v => { v with run := some 1 }).mxBusy 0 (8192 + 3) = true ∧ t.mxBusy 0 (8192 + 3) = false ∧
    ((m.onMx 0 fun v => { v with owner := some 9 }).claimGang 0 (sidOf 0 1) 0).isNone = true ∧
    (t.claimGang 0 (sidOf 0 1) 0).any (fun u => (u.mCheck (u.members 0) 1 cmdOf.command (shapeOf cmdOf.m)).isNone &&
      u.mReady (u.members 0) 1 cmdOf.command (shapeOf cmdOf.m) &&
      (u.mCheck (u.members 0) 1 badCmd.command (shapeOf badCmd.m)).isSome &&
      rowB u cmdOf (fun r => decide (r < cmdOf.command.count (shapeOf cmdOf.m))) &&
      rowB u lastRow (fun r => decide (lastRow.command.count (shapeOf lastRow.m) ≤ r))) = true ∧
    (∀ act ∈ [0, 1, 2, 3], (ending act 0).act = act ∧ (ending act 0).phase = 4 ∧ (ending act 0).stopped = false ∧
      (ending act 0).launch = 0 ∧ (ending act 0).seqr = none ∧
      ((copying (ending act 0) s).core 0).copies.find 3 = some (ending act 0)) ∧
    (∀ n ∈ [5, 6], let q := { ending 3 (.ofNat 64 (scr 0x240)) with phase := n }
      ((copying q s).core 0).copies.find 3 = some q ∧ (copying q s).decPending q 0 = false ∧
      ((copying q s).plan (.nodeDecrement 0 0x240 5)).decPending q 0 = true) ∧
    atB (((s.publish 0 1).mailName 0 7).map fun a => a.1 * 256 + a.2) 7 = true ∧
    ((s.publish 0 1).sendMail 0 0 (0, 7) false ⟨7, some 5⟩).isSome = true ∧
    ((s.onCore 7 fun k => { k with mail0 := List.replicate 64 ⟨0, none⟩ }).publish 0 1).sendMail 0 0 (0, 7) false ⟨7, some 5⟩ =
      none ∧
    okWith (((withObj 1 0 s).publish 0 1).placeIn 0 0 0 1 0x100 256 256 1 3) (fun u pl => !u.isForeign pl &&
      (u.signalAt 0 0 pl.hm pl.key false false 7 5 (byCopy 0)).isSome) = true ∧
    goesB ((s.publish 0 1).decodeIn 0 0 1 (.ofNat 64 (scr 0x240)) 32 true) = true :=
  by decide +kernel

/-- A live node of strand 1 at 0x240 with slot 4, this action, count and target. -/
def noded (act count : Nat) (target : Word) (s : State) : State :=
  (s.setBytes (scrKey 0 0x240) (toBytes 4 (2 ^ 31 + 4 * 2 ^ 16 + 256 + act) ++ toBytes 8 0 ++ toBytes 4 count ++ toBytes 8 9 ++
    toBytes 8 target.toNat)).onCore 0 fun k => { k with nodes := [0x240], slots := [(4, 6)] }

/-- An action that has fired. -/
def firedOf (act : Nat) (target : Word) : Fired := ⟨act, target, 9, 1, 0, 0, 6, 4, 0x240, false⟩

/-- A script at 0x400 of the own scratchpad: LEN 2, SHPT 3, h2 5, then a NOP and an ENGREND of 8 bytes. -/
def scripted (s : State) : State :=
  ((s.setBytes (scrKey 0 0x410) [2]).setBytes (scrKey 0 0x418) [3]).setBytes (scrKey 0 0x430) [5]

def scriptOf (w : Nat) (r : Script → Script) : State :=
  let s := scripted (turn 1 [.ofNat 64 (scr 0x400), 0])
  (s.setBytes (scrKey 0 0x440) (toBytes 8 w)).onCore 0 fun k => { k with
    seqrs := [(2, r ⟨0x400, 0, 2, [0, 0, 5, 0], 3, 0, 1, 0, 0, 0, 0, 0, 6, 1, false, []⟩)] }

theorem witness_Nodes :
    let a : Word := .ofNat 64 (scr 0x240)
    let s := turn 1 [a, 3, 9]
    let full := s.onCore 0 fun k => { k with slots := (List.range 64).map fun i => (i, 0) }
    let live := noded 4 2 (.ofNat 64 (scr 0x260)) s
    let last := noded 0 1 0 s
    let ready := fun (g : Fired) => s.onCore 0 fun k => { k with fired := [g], slots := [(4, 6)] }
    let first := fun (t : State) => (t.core 0).fired.find? fun f => !f.stopped && f.part == t.partOf 0
    s.Ready .any h0 [1, 2, 3] [] ∧ full.Ready .any h0 [1, 2, 3] [] ∧ live.Ready .any h0 [1, 2, 3] [] ∧
    live.Ready .any h0 [1] [] ∧
    s.Ready .any h0 [1] [] ∧ s.ownAddr 0 1 0 a 32 32 = .ok 0x240 ∧ full.ownAddr 0 1 0 a 32 32 = .ok 0x240 ∧
    live.ownAddr 0 1 0 a 32 32 = .ok 0x240 ∧ live.nodeLive 0 0x240 = true ∧ s.nodeLive 0 0x240 = false ∧
    6 ≤ (6 : BitVec 3).toNat ∧ (5 : BitVec 3).toNat < 6 ∧ (full.core 0).freeSumm = none ∧ (s.core 0).freeSumm = some 0 ∧
    1 < live.loadN (scrKey 0 0x240 + 12) 4 ∧ last.nodeLive 0 0x240 = true ∧ last.loadN (scrKey 0 0x240 + 12) 4 = 1 ∧
    s.nodeTarget 0 1 0 a = none ∧ live.nodeTarget 0 1 0 a = some (0, 0x240) ∧ (s.core 0).fired = [] ∧
    (∀ act ∈ [0, 1, 2, 3, 4, 5], (firedOf act a).act = act ∧ first (ready (firedOf act a)) = some (firedOf act a)) ∧
    (s.core 0).graphBlocked = false ∧
    ((s.onCore 0 fun k => { k with trapHeld := [mkRec 0x11 0 0 0 0 0] }).core 0).graphBlocked = true ∧
    s.firedBad 0 (firedOf 1 7) = none ∧ s.firedBad 0 (firedOf 4 a) = none ∧
    (s.firedBad 0 (firedOf 4 1)).isSome = true ∧ (withObj 1 0 s).firedBad 0 (firedOf 3 0x100) = none ∧
    atB (((s.publish 0 1).mailName 0 7).map fun a => a.1 * 256 + a.2) 7 = true ∧
    ((s.publish 0 1).sendMail 0 0 (0, 7) true ⟨9, some 6⟩).isSome = true ∧
    okWith (((withObj 1 0 s).publish 0 1).placeIn 0 0 0 1 0x100 256 256 1 3) (fun u pl => !u.isForeign pl &&
      (u.signalAt 0 0 pl.hm pl.key false false 9 6 (byCopy 0)).isSome) = true ∧
    goesB ((s.publish 0 1).decodeIn 0 0 1 a 32 true) = true ∧
    goesB (s.scriptAt 0 1 0 a) = false ∧ atB ((scripted s).scriptAt 0 1 0 (.ofNat 64 (scr 0x400))) 0x400 = true ∧
    ((scripted s).core 0).freeSeqr = some 0 :=
  ⟨ready_of (by decide +kernel), ready_of (by decide +kernel), ready_of (by decide +kernel),
    ready_of (by decide +kernel), ready_of (by decide +kernel), at_of (by decide +kernel), at_of (by decide +kernel),
    at_of (by decide +kernel), by decide +kernel⟩

theorem witness_Scripts :
    let s := scripted (turn 1 [.ofNat 64 (scr 0x400), 0])
    let node := noded 4 2 0 (scripted (turn 1 [.ofNat 64 (scr 0x400), .ofNat 64 (scr 0x240)]))
    let full := s.onCore 0 fun k => { k with seqrs := (List.range 4).map fun i => (i, ⟨0x400, 0, 2, [], 0, 0, 1, 0,
      0, 0, 0, 0, 0, 0, false, []⟩) }
    let r : Script := ⟨0x400, 0, 2, [0, 0, 5, 0], 3, 0, 1, 0, 0, 0, 0, 0, 6, 1, false, []⟩
    let nop := scriptOf (Instr.encode (.nop ⟨0, 0, false⟩)) id
    let add := scriptOf (Instr.encode (.add ⟨0, 0, false⟩ .i32 1 1 1)) id
    let short := scriptOf 0 fun r => { r with len := 0 }
    let busy := s.onCore 0 fun k => { k with copies := [(0, copyOf 0 0)] }
    s.Ready .any h0 [1, 2] [] ∧ node.Ready .any h0 [1, 2] [] ∧ full.Ready .any h0 [1, 2] [] ∧
    (turn 1 [0x400, 0]).Ready .any h0 [1, 2] [] ∧
    s.Ready .any h0 [] [] ∧ busy.Ready .any h0 [] [] ∧ (s.settle 0).scriptAt 0 1 0 (.ofNat 64 (scr 0x400)) = .ok 0x400 ∧
    goesB ((turn 1 [0x400, 0]).scriptAt 0 1 0 0x400) = false ∧ s.nodeTarget 0 1 0 (.ofNat 64 (scr 0x240)) = none ∧
    (node.nodeTarget 0 1 0 (.ofNat 64 (scr 0x240))).isSome = true ∧ (full.core 0).freeSeqr = none ∧
    (s.core 0).freeSeqr = some 0 ∧
    (s.core 0).seqrs.find 2 = none ∧ (nop.core 0).seqrs.find 2 = some r ∧ r.stopped = false ∧ nop.partOf 0 = r.part ∧
    r.node = 0 ∧
    goesB (short.scriptFetch 0 { r with len := 0 }) = false ∧
    atB ((nop.scriptFetch 0 r).map Prod.fst) 8 = true ∧ atB ((add.scriptFetch 0 r).map Prod.fst) 8 = true ∧
    busy.engOut 0 1 = true ∧ s.engOut 0 1 = false ∧ scriptOp (.add ⟨0, 0, false⟩ .i32 1 1 1) = none :=
  ⟨ready_of (by decide +kernel), ready_of (by decide +kernel), ready_of (by decide +kernel),
    ready_of (by decide +kernel), ready_of (by decide +kernel), ready_of (by decide +kernel), at_of (by decide +kernel),
    by decide +kernel⟩

/-! #### Refinement -/

/-- A command block at 0x400 of memory for a matrix of one element, which it leaves zero: A at 0x800, b at 0x808, x at
0x810, the workspace at 0x900; LDA 8, TOL and the others 1, rung 3, STAG and MAXIT 1. -/
def block : List Byte :=
  toBytes 8 0x800 ++ toBytes 8 0x808 ++ toBytes 8 0x810 ++ toBytes 8 0x900 ++ toBytes 4 1 ++ toBytes 4 8 ++
    toBytes 8 0x3FF0000000000000 ++ toBytes 8 0x3FF0000000000000 ++ toBytes 8 0x3FF0000000000000 ++
    toBytes 8 (3 + 3 * 8) ++ toBytes 2 1 ++ toBytes 2 1

/-- A strand with that block. -/
def blocked : State := (turn 1 [0x400]).setBytes 0x400 block

/-- A controller's work on it, with A, b and x of one element. -/
def solving (phase : Nat) (r : Refine → Refine) : State :=
  (blocked.setBytes 0x800 (toBytes 8 0x4000000000000000)).onRf 0 fun _ =>
    r { newRefine (blocked.bytes 0x400 256) 0x400 0 1 0 0 0 0 with
      phase := phase, bs := [0x3FF0000000000000], xs := [0], xbest := [0], beta := 0x3FF0000000000000 }

theorem witness_RefinementStart :
    let odd := turn 1 [0x101]
    let busy := solving 1 id
    let bad := turn 1 [0x400]
    let done := bad.setBytes 0x460 [1]
    let r := { Refine.reset with rung := 7, esc := 15, passes := 65536 }
    let l : Lu := ⟨[[0, 1], [0x3F800000, 2]], [0, 1], 0⟩
    let col := fun (i : Nat) => getE l.t i 0
    odd.Ready .any h0 [1] [] ∧ blocked.Ready .any h0 [1] [] ∧ busy.Ready .any h0 [1] [] ∧ bad.Ready .any h0 [1] [] ∧
    busy.Ready .any h0 [1] [3] ∧ done.Ready .any h0 [1] [3] ∧ (0x101 : Word).toNat % 256 ≠ 0 ∧
    okWith (blocked.blockPlace 0x400 1) (fun t p => (t.slice (sliceOf 0)).rf.phase == 0 &&
      !(t.publish 0 1).blockBad 0 1 ((t.publish 0 1).bytes p.key 256)) = true ∧
    okWith (bad.blockPlace 0x400 1) (fun t p => (t.slice (sliceOf 0)).rf.phase == 0 &&
      (t.publish 0 1).blockBad 0 1 ((t.publish 0 1).bytes p.key 256)) = true ∧
    okWith (busy.blockPlace 0x400 1) (fun t _ => (t.slice (sliceOf 0)).rf.phase != 0) = true ∧
    okWith (busy.blockPlace 0x400 0) (fun t _ => (t.slice (sliceOf 0)).rf.blk == 0x400) = true ∧
    okWith (done.blockPlace 0x400 0) (fun t _ => (t.slice (sliceOf 0)).rf.phase == 0) = true ∧
    15 < 16 ∧ r.rung < 8 ∧ r.esc < 16 ∧ l.t.length = 2 ∧ l.perm.length = 2 ∧
    (∀ i, i < 2 → fmtF32.wild (col i) = false) ∧
    0 < fmtF32.mag (col 1) ∧ (∀ i, i < 2 → fmtF32.mag (col i) ≤ fmtF32.mag (col 1)) ∧
    (∀ i, i < 1 → fmtF32.mag (col i) < fmtF32.mag (col 1)) ∧ fmtF32.wild 0x7F800000 = true :=
  ⟨ready_of (by decide +kernel), ready_of (by decide +kernel), ready_of (by decide +kernel),
    ready_of (by decide +kernel), ready_of (by decide +kernel), ready_of (by decide +kernel), by decide +kernel⟩

/-- A pass's exit from that work. -/
def passOf (s : State) : Nat :=
  let r := (s.slice 0).rf
  match (s.readMat r r.a r.n).2 with
  | .ok a => (passExit r (.ofNat 64 (normInf (residual a r.bs r.xs)))).2
  | .error _ => 9

/-- The writes of an exit go through. -/
def exitB (s : State) : Bool := (s.exitWrites (s.slice 0).rf).2.2.isNone

/-- A Factor of the work goes through. -/
def factorB (s : State) (good : Bool) : Bool :=
  let r := (s.slice 0).rf
  okWith (s.readMat r r.a r.n) fun s2 a =>
    let f := factor r.rung r.n a r.status ((gangOf 0 r.ctrl).map fun m => (s2.mx m).err)
    f.2.1 == good && !f.2.2 && (s2.homeStores r r.ws r.summ [0]).2.2.isNone

theorem witness_RefinementRun :
    let one : Word := 0x3FF0000000000000
    let tests := { Refine.reset with
      k := 1, tol := 1, rho := one, delta := one, beta := one, nu0 := one, nuPrev := one, stag := 1, maxit := 1 }
    let v := fun (w : Word) => fmtF64.value w.toNat
    let start := solving 1 id
    let far := solving 3 fun r => { r with a := 0xF000000000000000 }
    let zero := (solving 2 id).setBytes 0x800 (toBytes 8 0)
    (v 0).isNan = false ∧ (exactMul one one).isNan = false ∧ (exactMul one one).lt (v one) = false ∧
    (v 0x7FF8000000000000).isNan = true ∧ (v 0x4000000000000000).isNan = false ∧
    fmtF64.wild 0x4000000000000000 = false ∧
    (exactMul tests.tol tests.beta).isNan = false ∧ (exactMul tests.tol tests.beta).lt (v one) = true ∧ 1 ≤ tests.k ∧
    (exactMul tests.delta tests.nu0).lt (v 0x4000000000000000) = true ∧ { tests with k := 0 }.k = 0 ∧
    0 < tests.stag ∧ tests.run = 0 ∧
    (exactMul tests.delta tests.nu0).lt (v one) = false ∧
    (exactMul { tests with rho := 0x3FE0000000000000 }.rho tests.nuPrev).lt (v one) = true ∧
    tests.stag ≤ tests.run + 1 ∧
    (start.slice 0).rf.stopped = false ∧ (start.slice 0).rf.phase = 1 ∧ start.partOf 0 = (start.slice 0).rf.part ∧
    ((solving 0 id).slice 0).rf.phase = 0 ∧
    ((solving 2 fun r => { r with stopped := true }).slice 0).rf.stopped = true ∧
    start.partOf 0 ≠ ((solving 1 fun r => { r with part := 1 }).slice 0).rf.part ∧
    (start.claimAll (sidOf 0 1) 0 (gangOf 0 (start.slice 0).rf.ctrl)).isSome = true ∧
    ((start.onMx 1 fun v => { v with owner := some 9, lastPart := some 0 }).claimAll (sidOf 0 1) 0
      (gangOf 0 (start.slice 0).rf.ctrl)).isNone = true ∧
    ((solving 3 id).slice 0).rf.phase = 3 ∧ passOf far = 9 ∧ passOf (solving 3 fun r => { r with maxit := 5 }) = 1 ∧
    passOf (solving 3 fun r => { r with tol := 1, maxit := 5 }) = 0 ∧
    passOf (solving 3 fun r => { r with
      tol := 1, stag := 1, k := 1, rho := 1, nuPrev := one, nu0 := 0x4000000000000000, ctrl := 2 * 8 + 256 }) = 2 ∧
    fld ((2 * 8 + 256 : Word)) 8 2 = 1 ∧ 0 < fld ((2 * 8 + 256 : Word)) 3 3 ∧
    ((solving 2 id).slice 0).rf.bs ≠ [] ∧ factorB (solving 2 id) true = true ∧ factorB zero false = true ∧
    ((solving 4 id).slice 0).rf.phase = 4 ∧ exitB (solving 4 id) = true ∧
    exitB (solving 4 fun r => { r with x := 0xF000000000000000 }) = false ∧ ((solving 4 id).slice 0).rf.act ≠ 2 ∧
    fld ((solving 4 id).slice 0).rf.ctrl 20 3 = 0 ∧
    ((solving 4 fun r => { r with act := 2 }).slice 0).rf.act = 2 := by decide +kernel

/-! #### Surfaces -/

/-- A descriptor of 4 × 4 pixels in tiles of 2 × 2 at 0x1000 of core 0's scratchpad, with its map at 0x300 of memory; with
a depth buffer or none, of a head, or of capture to 0x600. -/
def sdOf (depth head : Nat) : BitVec 512 :=
  BitVec.ofNat 512 (0x300 + 3 * 2 ^ 64 + 3 * 2 ^ 80 + 2 ^ 96 + 2 ^ 98) ||| (BitVec.ofNat 512 (depth + 4 * 0x1000) <<< 110) |||
    (BitVec.ofNat 512 (head + 2 ^ 8 + 100 * 2 ^ 24) <<< 136) ||| (BitVec.ofNat 512 0x600 <<< 192)

def surfOf (depth head : Nat) : Surface where
  desc := sdOf depth head
  map := [0]
  t0 := 0
  fFrame := 0
  fBand := 0
  sFrame := 0
  sBand := 0
  bands := []
  skipped := false
  late := 0
  lost := 0
  captured := 0
  tiles := []
  unbind := none
  number := 4

/-- Partition 0's surface 2 is bound. -/
def bound (u : Surface) (s : State) : State := s.onPart 0 fun p => { p with surfs := [(2, u)] }

/-- A triangle record at 0x400 of the scratchpad. -/
def tri (p : List Int) (s : State) : State :=
  let q := fun (i : Nat) => toBytes 4 (nth 0 p i % 2 ^ 32).toNat
  let v := fun (i : Nat) => q (2 * i) ++ q (2 * i + 1) ++ List.replicate 40 0
  s.setBytes (scrKey 0 0x400) (v 0 ++ v 1 ++ v 2)

def vert (x y : Int) : Vertex := ⟨x, y, []⟩

theorem witness_Coverage :
    0 < area2 (vert 0 0) (vert 1024 0) (vert 0 1024) ∧ 0 < area2 (vert 1024 0) (vert 0 0) (vert 0 (-1024)) ∧
    covered (edgesOf (vert 0 0) (vert 1024 0) (vert 0 1024)) 0 0 = true ∧
    area2 (vert 0 0) (vert 0 1024) (vert 1024 0) ≠ 0 ∧
    covered (edgesOf (vert 0 0) (vert 0 1024) (vert 1024 0)) 2 0 = true := by decide +kernel

/-- A primitive that meets tile 0 and no other, with all of its owner's tiles done or none. -/
def primOf (taken : Option Nat) (done : Nat) : Prim :=
  ⟨2, 7, 1, edgesOf (vert 0 0) (vert 256 0) (vert 0 256), [(0, 0, 0), (0, 0, 0)], done, false, taken⟩

/-- The vertices of the record are in range, and its area and owners pass a test. -/
def triB (s : State) (f : Int → List Nat → Bool) : Bool :=
  let v := fun (i : Nat) => vertexOf (s.bytes (scrKey 0 0x400) 144) 1 i
  [v 0, v 1, v 2].all (fun w => decide (-2 ^ 23 ≤ w.x ∧ w.x < 2 ^ 23 ∧ -2 ^ 23 ≤ w.y ∧ w.y < 2 ^ 23)) &&
    f (area2 (v 0) (v 1) (v 2)) (boxOwners (sdOf 0 4) [0] (v 0) (v 1) (v 2))

theorem witness_Primitives :
    let a : Word := .ofNat 64 (scr 0x400)
    let u := surfOf 0 4
    let s := bound u (turn 1 [a, 7])
    let more := s.onMe fun k => { k with ri := 1 }
    let sent := more.onCore 0 fun k => { k with primOut := [(1, 5, primOf none 0)] }
    let full := sent.onCore 5 fun k => { k with prims := List.replicate 32 (primOf none 0) }
    let act := (s.onMe fun k => { k with status := rastStatus 7 3 }).onCore 0 fun k => { k with prims := [primOf (some 7) 4] }
    let big := 2 ^ 23 - 1
    s.Ready .any h0 [1, 2] [] ∧ (turn 1 [a, 7]).Ready .any h0 [1, 2] [] ∧ more.Ready .any h0 [1, 2] [] ∧
    sent.Ready .any h0 [1, 2] [] ∧ s.Ready .any h0 [1] [] ∧ act.Ready .any h0 [1] [] ∧
    s.scrAt 0 1 a 144 = .ok (scrKey 0 0x400) ∧
    s.scrAt 0 1 a (64 + 144 + 8 * (1 : BitVec 16).toNat) = .ok (scrKey 0 0x400) ∧
    more.me.ri ≠ 0 ∧ s.me.ri = 0 ∧ (∃ e ∈ (sent.core 0).primOut, e.1 = 1) ∧ (∀ e ∈ (more.core 0).primOut, e.1 ≠ 1) ∧
    (turn 1 [a, 7]).surfAt 0 2 = none ∧ s.surfAt 0 2 = some u ∧ 8 < (9 : BitVec 4).toNat ∧ (8 : BitVec 4).toNat ≤ 8 ∧
    (0xC000000000000401 : Word).toNat % 16 ≠ 0 ∧ a.toNat % 16 = 0 ∧ fld a 60 4 = 0xC ∧
    triB (tri [0, 0, big, -2 ^ 23, 0, 0] s) (fun _ _ => true) = true ∧
    triB (tri [0, 0, big + 1, 0, 0, 0] s) (fun _ _ => true) = false ∧
    triB (tri [0, 0, 512, 0, 0, 512] s) (fun a os => decide (0 < a) && os == [0]) = true ∧
    triB (tri [0, 0, 0, 512, 512, 0] s) (fun a os => decide (a < 0) && os == [0]) = true ∧
    triB (tri [0, 0, 512, 0, 1024, 0] s) (fun a _ => a == 0) = true ∧
    (sent.core 0).primOut = (1, 5, primOf none 0) :: [] ∧
    (sent.core 5).prims.length < 32 ∧ (sent.core 5).rastWaiter 2 = none ∧ 32 ≤ (full.core 5).prims.length ∧
    (full.core 0).primOut = (1, 5, primOf none 0) :: [] ∧ a.toNat % 64 = 0 ∧ (1 : BitVec 16) ≠ 0 ∧
    sdDepth u.desc = false ∧ sdDepth (sdOf 1 4) = true ∧ s.me.status = 0 ∧ (s.core 0).nextPrim 2 = none ∧
    act.me.status ≠ 0 ∧ (s.settle 0).cur = 0 ∧ (s.settle 0).actor = 1 ∧ (act.settle 0) = act ∧
    (act.core 0).prims.find? (mine act.me.status) = some (primOf (some 7) 4) ∧ act.surfAt 0 2 = some u ∧
    nextTile u.desc u.map 0 (primOf (some 7) 4).edges (reserved u.desc u.map 0 - 4 / (sdTW u.desc * sdTH u.desc / 4))
      (4 / (sdTW u.desc * sdTH u.desc / 4)) = none ∧ (act.core 0).rastWaiter 2 = none ∧
      (primOf (some 7) 4).planes.length ≤ 9 :=
  ⟨ready_of (by decide +kernel), ready_of (by decide +kernel), ready_of (by decide +kernel),
    ready_of (by decide +kernel), ready_of (by decide +kernel), ready_of (by decide +kernel), at_of (by decide +kernel),
    at_of (by decide +kernel), by decide +kernel⟩

theorem witness_Pixels :
    let name : Word := .ofNat 64 (2 * 2 ^ 32)
    let s := bound (surfOf 0 4) (turn 1 [name, 7])
    let none_ := turn 1 [name, 7]
    let given := s.onMe fun k => { k with grant := some (0, none) }
    let quad := quadName 2 0 0
    let locked := s.onCore 0 fun k => { k with locks := [⟨quad, 7, some (sidOf 0 1)⟩] }
    let asked := s.onCore 0 fun k => { k with locks := [⟨quad, 7, none⟩], lockReqs := [(sidOf 0 1, quad, 7)] }
    3 < 4 ∧ s.Ready .any h0 [1, 2] [] ∧ none_.Ready .any h0 [1, 2] [] ∧ given.Ready .any h0 [1, 2] [] ∧
    locked.Ready .any h0 [1, 2] [] ∧ none_.quadAt 0 name = none ∧ s.quadAt 0 name = some (0, quad) ∧
    locked.quadAt 0 name = some (0, quad) ∧ s.me.grant = none ∧ given.me.grant ≠ none ∧ none_.me.grant = none ∧
    (s.core 0).locks.any (fun l => l.quad == quad && l.seq == 7 && l.holder == some (sidOf 0 1)) = false ∧
    (locked.core 0).locks.any (fun l => l.quad == quad && l.seq == 7 && l.holder == some (sidOf 0 1)) = true ∧
    (s.core 0).lockReqs = [] ∧ (asked.core 0).lockReqs = (sidOf 0 1, quad, 7) :: [] ∧
    (asked.core 0).locks = ⟨quad, 7, none⟩ :: [] ∧ (∀ e ∈ (asked.core 0).locks, e.quad = quad → e.holder = none) :=
  ⟨by decide +kernel, ready_of (by decide +kernel), ready_of (by decide +kernel), ready_of (by decide +kernel),
    ready_of (by decide +kernel), by decide +kernel⟩

theorem witness_TilesAndBands :
    let v : Word := .ofNat 64 (2 * 2 ^ 24 + 1 + 2 ^ 12)
    let s := bound (surfOf 0 4) (turn 1 [7, v, 2])
    let u := { surfOf 0 3 with bands := [(5, 1, []), (6, 0, [])] }
    let w := { surfOf 0 3 with bands := [(6, 0, [])] }
    let shown := fun (t : Tile) => bound { surfOf 0 4 with tiles := [(3, t)] } (turn 1 [7, v, 2])
    let reaches := s.onMe fun k => { k with grant := some (4, none) }
    let rebound := s.onMe fun k => { k with grant := some (5, none) }
    let gone := (turn 1 [7, v, 2]).onMe fun k => { k with grant := some (4, none) }
    reaches.Ready .any h0 [1, 2] [3] ∧ rebound.Ready .any h0 [1, 2] [3] ∧ gone.Ready .any h0 [1, 2] [3] ∧
    s.Ready .any h0 [1, 2] [3] ∧ (turn 1 [7, v, 2]).Ready .any h0 [1, 2] [3] ∧
    (turn 1 [7, v, 2]).Ready .any h0 [3] [4] ∧
    s.Ready .any h0 [3] [4] ∧ (shown ⟨some (true, 7, true), none⟩).Ready .any h0 [1, 2] [3] ∧
    (turn 1 [7, v, 2]).surfAt 0 2 = none ∧ s.surfAt 0 2 = some (surfOf 0 4) ∧ fld v 24 4 = 2 ∧ fld v 29 35 = 0 ∧
    ownerAt (sdOf 0 4) [0] 1 1 = 0 ∧ 1 < sdTX (sdOf 0 4) ∧ 1 < sdTY (sdOf 0 4) ∧ sdTX (sdOf 0 4) ≤ 2 ∧
    (surfOf 0 4).tiles.get ⟨none, none⟩ 3 = ⟨none, none⟩ ∧ 0 ≤ ((7 : BitVec 32) - 7).toInt ∧
    ((7 : BitVec 32) - 8).toInt < 0 ∧
    ((shown ⟨some (true, 7, true), none⟩).surfAt 0 2).isSome = true ∧
    ((shown ⟨none, some (true, false)⟩).surfAt 0 2).all (fun u => u.tiles.get ⟨none, none⟩ 3 == ⟨none, some (true, false)⟩) = true ∧
    ((shown ⟨some (true, 8, false), some (false, true)⟩).surfAt 0 2).all (fun u =>
      u.tiles.get ⟨none, none⟩ 3 == ⟨some (true, 8, false), some (false, true)⟩) = true ∧
    (surfOf 0 4).unbind = none ∧ (surfOf 0 4).fBand + 1 < sdTY (surfOf 0 4).desc ∧
    { surfOf 0 4 with fBand := 1 }.fBand + 1 = sdTY (surfOf 0 4).desc ∧ (bound u s).surfAt 0 2 = some u ∧
    sdHead u.desc < 4 ∧
    u.bands = (5, 1, []) :: [(6, 0, [])] ∧ sdTY u.desc ≤ 1 + 1 ∧ (bound w s).surfAt 0 2 = some w ∧
    w.bands = (6, 0, []) :: [] ∧
    0 + 1 < sdTY w.desc ∧ s.me.grant = none ∧ reaches.me.grant = some (.ofNat 64 (surfOf 0 4).number, none) ∧
    rebound.me.grant = some (5, none) ∧ (5 : Word).toNat ≠ (surfOf 0 4).number ∧ gone.me.grant = some (4, none) ∧
    gone.surfAt 0 2 = none :=
  ⟨ready_of (by decide +kernel), ready_of (by decide +kernel), ready_of (by decide +kernel),
    ready_of (by decide +kernel), ready_of (by decide +kernel), ready_of (by decide +kernel),
    ready_of (by decide +kernel), ready_of (by decide +kernel), by decide +kernel⟩

theorem witness_SurfacesAndHeads :
    let s := turn 1 []
    let good := s.setBytes 0x200 (toBytes 64 (sdOf 0 4).toNat)
    let code := fun (t : State) => (t.bindChecks 0 0x200).2.1
    let run := bound { surfOf 0 1 with fBand := 1 } s
    let still := bound (surfOf 0 1) s
    s.surfAt 0 2 = none ∧ (0x23F : Word) &&& ~~~63#64 = 0x200 ∧ (0x23F : Word) &&& ~~~63#64 ≠ 0 ∧
    (0x3F : Word) &&& ~~~63#64 = 0 ∧
    code s = 1 ∧ (s.bindChecks 0 0x200).1.surfAt 0 2 = none ∧ code good = 0 ∧ good.surfAt 0 2 = none ∧
    still.surfAt 0 2 = some (surfOf 0 1) ∧ (surfOf 0 1).fBand = 0 ∧ (surfOf 0 1).fFrame = (surfOf 0 1).sFrame ∧
    run.surfAt 0 2 = some { surfOf 0 1 with fBand := 1 } ∧ { surfOf 0 1 with fBand := 1 }.fBand ≠ 0 ∧
    (surfOf 0 1).unbind = none ∧
    { surfOf 0 1 with unbind := some 0 }.unbind = some 0 ∧
    (bound { surfOf 0 1 with unbind := some 0 } s).surfAt 0 2 = some { surfOf 0 1 with unbind := some 0 } ∧
    s.headPresent 4 = false ∧ still.headBound 1 = true ∧ s.headPresent 1 = true ∧ s.headBound 1 = false ∧
    (0x7FFFFFFFFFFFFFFF : Word).getLsbD 63 = false := by decide +kernel

/-! #### Partitions and the command processor -/

/-- PARTDEF with V set and a QMASK. -/
def partdef (m : Nat) : Word := .ofNat 64 (2 ^ 31 + 16 * m)

/-- Partitions by their state, QMASK and S2ROOT. -/
def partsOf (l : List (Nat × Nat × Nat × Nat)) : State := { State.reset with
  parts := l.map fun e => (e.1, { Part.reset with
    v := true, st := e.2.1, qmask := .ofNat 4 e.2.2.1, s2root := .ofNat 64 e.2.2.2 }) }

theorem witness_PartitionStarts :
    let bad := partsOf [(1, 0, 0, 1)]
    let s := partsOf [(0, 1, 1, 1), (1, 0, 0, 1)]
    let started := fun (t : State) (m : Nat) => t.onPart 1 fun q => { q with qmask := .ofNat 4 m, spill := false }
    (s.part 1).st = 0 ∧ (bad.part 1).st = 0 ∧ (started bad 6).startCode 1 ≠ 0 ∧ (started s 2).startCode 1 = 0 ∧
    (started s 2).mate 1 2 = none ∧ ((started s 2).part 1).qmask.getLsbD (quadOf 191) = false ∧
    ((started bad 15).part 1).qmask.getLsbD (quadOf 191) = true ∧ (started bad 15).startCode 1 = 0 ∧
    6 ∉ [1, 2, 4, 8, 3, 12, 5, 10, 15] ∧ 10 ∈ [1, 2, 4, 8, 3, 12, 5, 10, 15] ∧
    (((started s 3).part 0).st ≠ 0 ∧ ((started s 3).part 0).qmask.toNat &&& 3 ≠ 0 ∧
    ((started s 3).part 0).qmask.toNat ≠ 3 ∧
      (started s 3).mate 1 3 = none) ∧ (∀ r, r < 4 → r ≠ 1 → (bad.part r).st = 0) ∧
    ((partsOf [(1, 0, 1, 0)]).part 1).s2root.getLsbD 0 = false ∧ (bad.part 1).s2root.getLsbD 0 = true ∧
    (bad.part 1).trapvec.getLsbD 0 = false ∧ (bad.part 1).ending = false := by decide +kernel

theorem witness_PartitionStops :
    let s := partsOf [(0, 1, 1, 1), (1, 2, 1, 1)]
    let alone := partsOf [(0, 1, 1, 1)]
    let t : Tlb := { page0 with part := 0, pa := 4096 }
    (s.part 0).st = 1 ∧ (s.part 0).swapping = false ∧ (s.part 0).dfaults = [] ∧ 0 ∈ s.coresOf 0 ∧
    (s.ctx 0 0).fin = none ∧
    (s.ctx 0 0).flight = [] ∧ (s.core 0).sfu = none ∧ (alone.part 0).st = 1 ∧ (alone.part 0).ending = false ∧
    (alone.part 0).swapping = false ∧ (alone.part 1).st = 0 ∧ alone.twinOf 0 = none ∧ s.twinOf 0 = some 1 ∧
    (s.part 0).ending = false ∧
    (s.part 1).swapping = false ∧ (s.part 1).ending = false ∧ t.part = 0 ∧ t.locked = false ∧
    (t.pa < 4096 * 512 + 4096 ∧ 4096 * 512 < t.pa + t.size) ∧ ¬(t.pa < 4096 * 0 + 4096 ∧ 4096 * 0 < t.pa + t.size) := by
  decide

/-- A host queue in slot 0: partition 0 and address space 0, a ring of 16 entries at 0x1000 of memory. -/
def qdesc : BitVec 512 := BitVec.ofNat 512 (0x1000 + 4 * 2 ^ 64 + 2 ^ 127)

def slotOf0 (r : HSlot → HSlot) : HSlot := r {
  pri := 0, queue := 0, desc := qdesc, rptr := 0, wptr := 4, halted := false, err := 0, bufs := [], summ := 0, number := 0
  words := [], next := none, wcond := none, woken := false, closing := false }

/-- A machine with that slot and these packet words, and a signal at 0x100. -/
def hosted (h : HSlot) (ws : List Nat) : State :=
  ((withObj 1 5 (turn 1 [])).setBytes 0x1000 (ws.flatMap (toBytes 8))).onDev fun d =>
    { d with hslots := [(0, h)], qdbase := 0x8000 }

/-- Whether a slot's next packet may start, as a computation. -/
def startsB (s : State) (h : HSlot) (ty : Nat) : Bool :=
  decide (s.dev.hslots.find 0 = some h) && s.cpNext == some 0 && h.number == 0 && pkType (s.header h) == ty &&
  (!h.bufs.isEmpty || (s.ringOk (qdPart h.desc) (qdBase h.desc) (64 * 2 ^ qdLog h.desc) && qdBase h.desc % (64 * 2 ^ qdLog h.desc) == 0)) && h.next.isNone &&
  decide (pkLen ty ≤ h.ready) && maskedBy (s.packet h (pkLen ty)) (pkMask ty)

theorem starts_of {s : State} {h : HSlot} {ty : Nat} (hb : startsB s h ty = true) :
    packetStarts s 0 h ty := by
  simp only [startsB, Bool.and_eq_true, Bool.or_eq_true, beq_iff_eq, decide_eq_true_eq, Option.isNone_iff_eq_none] at hb
  obtain ⟨⟨⟨⟨⟨⟨⟨h1, h2⟩, h3⟩, h4⟩, h5⟩, h6⟩, h7⟩, h8⟩ := hb
  refine ⟨h1, h2, h3, h4, ?_, h6, h7, h8⟩
  rcases h5 with h | h
  · exact .inl fun e => by simp [e] at h
  · exact .inr h

theorem witness_HostQueues :
    let s := turn 1 []
    let good : BitVec 256 := .ofNat 256 (2 ^ 31 + 4 * 2 ^ 24 + 0x4000 * 2 ^ 192)
    let up := hosted (slotOf0 id) [0]
    let sig := fun (op at_ : Nat) => hosted (slotOf0 id) [2 + op * 2 ^ 16, at_, 7, 0x103]
    let wait := fun (rel at_ thr : Nat) => hosted (slotOf0 id) [3 + rel * 2 ^ 16, at_, thr]
    let ind := fun (n : Nat) => hosted (slotOf0 id) [4, 0x4000, n]
    let deep := slotOf0 fun h => { h with bufs := List.replicate 4 ⟨0x1000, 4, 1⟩ }
    let ind5 := (hosted deep []).setBytes 0x1040 ([4, 0x4000, 1].flatMap (toBytes 8))
    let bad := hosted (slotOf0 fun h => { h with bufs := [⟨0x1000, 1, 0⟩] }) [6]
    let u := fun (t : State) => t.onDev fun d => { d with lastSlot := 0 }
    let named := s.onPart 0 fun p => { p with frameq := 0x80000005 }
    (good.getLsbD 31 = true ∧ (s.hwq 5).v = false ∧ 4 ≤ fld good 24 5 ∧ fld good 24 5 ≤ 20 ∧
      fld good 192 64 % (256 * 2 ^ fld good 24 5) = 0 ∧ fld good 192 64 < 2 ^ 38 ∧ fld good 192 64 / 2 ^ 36 = 0 ∧
      fld good 32 32 = 0 ∧ fld good 0 20 = 0) ∧ ((withQueue 3 s).hwq 5).v = true ∧
    named.queueNamed 5 = true ∧ (s.hwq 5).pops = [] ∧ s.queueNamed 5 = false ∧
    packetStarts up 0 (slotOf0 id) 0 ∧ packetStarts (sig 2 0x100) 0 (slotOf0 id) 2 ∧
    packetStarts (sig 0 0x100) 0 (slotOf0 id) 2 ∧
    packetStarts (sig 1 0x101) 0 (slotOf0 id) 2 ∧ packetStarts (wait 0 0x100 5) 0 (slotOf0 id) 3 ∧
    packetStarts (wait 0 0x200 5) 0 (slotOf0 id) 3 ∧ packetStarts (ind 0) 0 (slotOf0 id) 4 ∧
    packetStarts (ind 1) 0 (slotOf0 id) 4 ∧ packetStarts ind5 0 deep 4 ∧ bad.cpNext = some 0 ∧
    pkType (bad.header (slotOf0 fun h => { h with bufs := [⟨0x1000, 1, 0⟩] })) = 6 ∧
    ((u (sig 0 0x100)).deviceSignal 0 0 0x100 true 7 fullSummary).2 = 0 ∧
    ((u (sig 1 0x101)).deviceSignal 0 0 0x101 false 7 fullSummary).2 ≠ 0 ∧
    okWith ((u (wait 0 0x100 5)).placeIn 0 0 ((u (wait 0 0x100 5)).firstCore 0) 0 0x100 256 256 1 1) (fun t pl =>
      (t.obj pl.key).kind == 1 && relHolds 0 (t.obj pl.key).value 5) = true ∧
    okWith ((u (wait 0 0x200 5)).placeIn 0 0 ((u (wait 0 0x200 5)).firstCore 0) 0 0x200 256 256 1 1) (fun t pl =>
      (t.obj pl.key).kind != 1) = true ∧ (0x100 : Word).toNat % 256 = 0 ∧ fld (0x100 : Word) 60 4 = 0 ∧
    0x4000 % 64 = 0 ∧ mpaRange 0x4000 64 = true ∧ (∀ r ∈ (slotOf0 id).running, overlap 0x4000 64 r.1 r.2 = false) ∧
    (∀ r ∈ deep.running, overlap 0x4000 64 r.1 r.2 = false) ∧ 4 ≤ deep.bufs.length ∧ (slotOf0 id).bufs.length < 4 ∧
    (slotOf0 fun h => { h with bufs := [⟨0, 4, 2⟩] }).bufs = ⟨0, 4, 2⟩ :: [] ∧ 2 + 1 < 4 ∧ 4 ≤ 2 + 2 :=
  ⟨by decide +kernel, by decide +kernel, by decide +kernel, by decide +kernel, by decide +kernel,
    starts_of (by decide +kernel), starts_of (by decide +kernel), starts_of (by decide +kernel),
    starts_of (by decide +kernel), starts_of (by decide +kernel), starts_of (by decide +kernel),
    starts_of (by decide +kernel), starts_of (by decide +kernel), starts_of (by decide +kernel), by decide +kernel⟩

/-- A LAUNCH of one strand of type 1 on core 0, with no handle or one; a COPY of 16 bytes. -/
def launchWords (tt nh : Nat) : List Nat :=
  [1 + tt * 2 ^ 16 + 2 ^ 22 + nh * 2 ^ 26, 0x40, 0, 0, 0, 0, 1 + 2 ^ 24 + 2 ^ 32, 0, 2 * 2 ^ 14, 0, 0, 0, 0, 0, 0, 0]
def copyWords (n : Nat) : List Nat := [5, 0x400, 0x600, n, 0, 0, 0, 0]

/-- A handle table of one handle, whose writer is a launch. -/
def handled (s : State) (w : Nat) : State :=
  (s.onPart 0 fun p => { p with htbase := 0x3000, htsize := 1 }).setBytes 0x3010 (toBytes 4 w)

theorem witness_Launches :
    let h := slotOf0 id
    let l := hosted h (launchWords 1 0)
    let l1 := handled (hosted h (launchWords 1 1)) 9
    let l2 := hosted h (launchWords 0 0)
    let c := hosted h (copyWords 16)
    let c0 := hosted h (copyWords 0)
    let u := fun (t : State) => t.onDev fun d => { d with lastSlot := 0 }
    let full := l.onCore 0 fun k => { k with direct := List.replicate 48 (.child ⟨0, 0, 0, 0, 0, 0, 0, 0, 0⟩ 0) }
    let r : Launch := ⟨0, 0, 0, 0, true, [], 0, 0, 3, true, 0, none, []⟩
    let out := fun (r : Launch) => l.onDev fun d => { d with launches := [(7, r)] }
    packetStarts l 0 h 1 ∧ packetStarts l1 0 h 1 ∧ packetStarts l2 0 h 1 ∧ packetStarts c 0 h 5 ∧
    packetStarts c0 0 h 5 ∧
    (u l).launchCode h (l.packet h 2) = 0 ∧ l.handlesFree 0 (pkHandles (l.packet h 2)) = true ∧
    (u l1).launchCode h (l1.packet h 2) = 0 ∧ l1.handlesFree 0 (pkHandles (l1.packet h 2)) = false ∧
    (u l2).launchCode h (l2.packet h 2) ≠ 0 ∧ (u c).copyCode h (c.packet h 1) = 0 ∧
    c.handlesFree 0 (pkHandles (c.packet h 1)) = true ∧ (c.part 0).st = 1 ∧ (c.core (c.firstCore 0)).freeSlot = some 0 ∧
    c.posted = [] ∧ (u c0).copyCode h (c0.packet h 1) ≠ 0 ∧ qdPart h.desc = 0 ∧ 48 ≤ (full.core 0).direct.length ∧
    (l.core 0).direct.length < 48 ∧ l.dev.launches.find 7 = none ∧ (out r).dev.launches.find 7 = some r ∧
    r.copy = none ∧
    r.dealt = true ∧ r.live = 0 ∧ r.csig = 0 ∧ r.handles = [] ∧ r.ven = true ∧
    { r with dealt := false }.dealt = false :=
  ⟨starts_of (by decide +kernel), starts_of (by decide +kernel), starts_of (by decide +kernel),
    starts_of (by decide +kernel), starts_of (by decide +kernel), by decide +kernel⟩

theorem witness_HostSignals :
    let s := State.reset
    let co := fun (v : Nat) => s.onDev fun d => { d with coal := [(3, .ofNat 64 v)] }
    let open_ := s.onDev fun d => { d with msix := [(7, 0)] }
    let h := slotOf0 id
    let t := hosted h []
    let d := (turn 1 []).setBytes 0 (toBytes 64 qdesc.toNat)
    let down := d.onDev fun d => { d with cpcfg := 3 }
    fld (s.dev.coalOf 3) 0 8 ≤ fld (s.dev.coalOf 3) 56 8 + 1 ∧ s.dev.masked 3 = true ∧ open_.dev.masked 3 = false ∧
    fld ((co 0x1002).dev.coalOf 3) 56 8 + 1 < fld ((co 0x1002).dev.coalOf 3) 0 8 ∧
    fld ((co 0x1002).dev.coalOf 3) 56 8 = 0 ∧
    fld ((co (0x1003 + 2 ^ 56)).dev.coalOf 3) 56 8 ≠ 0 ∧ t.slotOf 0 = some 0 ∧ t.dev.hslots.find 0 = some h ∧
    2 ^ qdLog h.desc < ((17 : BitVec 32) - h.rptr).toNat ∧ ((16 : BitVec 32) - h.rptr).toNat ≤ 2 ^ qdLog h.desc ∧
    ((3 : BitVec 32) - h.rptr).toNat < (h.wptr - h.rptr).toNat ∧
    (h.wptr - h.rptr).toNat ≤ ((16 : BitVec 32) - h.rptr).toNat ∧
    s.slotOf 0 = none ∧ qdV (s.queueDesc 0) = false ∧ 63 < 64 ∧ down.dev.fwUp = false ∧ d.dev.fwUp = true ∧
    d.dev.hslots.find 63 = none ∧ qdDefined (s.queueDesc 0) = false ∧ qdDefined (d.queueDesc 0) = true ∧
    d.slotOf 0 = none ∧
    t.dev.fwUp = true ∧ h.next = none ∧ h.bufs = [] ∧ h.queue = fld (3 * 2 ^ 27 : Word) 0 12 ∧ qdV (d.queueDesc 0) = true ∧
    ((1 : BitVec 32) - qdRptr (d.queueDesc 0)).toNat ≤ 2 ^ qdLog (d.queueDesc 0) := by decide +kernel

theorem witness_FirmwareAndLinks :
    let s := State.reset
    let off := s.onDev fun d => { d with cpcfg := 0x102 }
    let port := fun (p : Port) => s.onDev fun d => { d with ports := [(1, p)] }
    let up := port { Port.reset with st := 2, sinceAck := 62 }
    let f := mkFlit 1 5
    let g : BitVec 256 := f ^^^ (1#256 <<< 255)
    s.dev.cpcfg.getLsbD 0 = true ∧ off.dev.cpcfg.getLsbD 0 = false ∧
    (List.replicate 31 (0 : BitVec 32)).length ≤ 31 ∧ 255 < 256 ∧
    crcGood f = true ∧ crcGood g = false ∧ (s.port 1).st ≠ 2 ∧ (up.port 1).st = 2 ∧ (up.port 1).discard = false ∧
    ((port { Port.reset with st := 2, discard := true }).port 1).discard = true ∧ (up.port 1).sinceAck < 63 ∧
    flitKind f ≠ 4 ∧ flitKind (mkFlit 3 7) = 3 ∧ crcGood (mkFlit 3 7) = true ∧ (up.port 1).sinceAck ≠ 0 ∧
    (s.port 1).sinceAck = 0 ∧ (∀ d, d < 16 → (s.routeOf d).getLsbD 1 = false) ∧ (5 : Nat) ≠ 4 := by decide +kernel

theorem witness_PowerAndEvents :
    let s := State.reset
    let paced := fun (skip : Bool) => s.onDev fun d => { d with
      pacectl := 0x80000000, paceSkip := skip, leads := List.replicate 14 (1, 2) }
    let hot := s.onDev fun d => { d with thermState := 2 }
    let ring := s.onDev fun d => { d with evctl := 0x80000006, evprod := 63 }
    let full := ring.onDev fun d => { d with evprod := 64 }
    s.dev.pacectl.getLsbD 31 = false ∧ (paced true).dev.pacectl.getLsbD 31 = true ∧ (paced true).dev.paceSkip = true ∧
    (paced false).dev.paceSkip = false ∧ (paced false).dev.leads.length < 15 ∧ s.dev.hot.toNat < s.dev.crit.toNat ∧
    s.dev.thermState ≠ 2 ∧ s.dev.crit.toNat ≤ (105 : BitVec 8).toNat ∧ s.dev.hot.toNat ≤ (104 : BitVec 8).toNat ∧
    (104 : BitVec 8).toNat < s.dev.crit.toNat ∧ hot.dev.hot.toNat < hot.dev.crit.toNat ∧ hot.dev.thermState = 2 ∧
    hot.powered = true ∧ { hot with powered := false }.powered = false ∧ 65535 < 2 ^ 16 ∧
    s.dev.evctl.getLsbD 31 = false ∧
    ring.dev.evctl.getLsbD 31 = true ∧ (ring.dev.evprod - ring.dev.evcons).toNat ≠ 2 ^ fld ring.dev.evctl 0 5 ∧
    (full.dev.evprod - full.dev.evcons).toNat = 2 ^ fld full.dev.evctl 0 5 := by decide +kernel

theorem witness_ProfilesAndAttestation :
    let s := State.reset
    let put := fun (m : Mgmt → Mgmt) => s.onMgmt m
    profileOk s.dev.order ((0 : Word).setWidth 2) = false ∧ profileOk s.dev.order ((2 : Word).setWidth 2) = true ∧
    (put fun m => { m with pendProf := some 2 }).mgmt.pendProf = some 2 ∧ s.mgmt.pendProf = none ∧
    s.mgmt.pendSig = none ∧ (put fun m => { m with counter := 2 ^ 20 - 1 }).mgmt.counter < 2 ^ 20 ∧
    2 ^ 20 ≤ (put fun m => { m with counter := 2 ^ 20 }).mgmt.counter ∧ s.mgmt.reqs = [] ∧
    (put fun m => { m with pendSig := some (3, 9) }).mgmt.pendSig = some (3, 9) ∧
    (9 : BitVec 256) ≠ 8 := by decide +kernel

theorem witness_ResetsAndHost :
    let s := State.reset
    let word := fun (img : List Byte) (i : Nat) => ofBytes ((img.drop (4 * i)).take 4)
    let img := fun (svn len rsv : Nat) => toBytes 4 0x4B524746 ++ toBytes 4 svn ++ toBytes 4 len ++ toBytes 52 rsv
    imageOk s.mgmt.minSvn boardReset.slotA = false ∧ profileOk 2 (s.mgmt.profile.getD boardReset.profsel) = false ∧
    boardReset.order = s.board.order ∧ word [] 0 ≠ 0x4B524746 ∧ word (img 4 0 0) 0 = 0x4B524746 ∧ word (img 4 0 0) 1 < 5 ∧
    253952 < word (img 4 253953 0) 2 ∧ (img 4 0 0).length < 64 + word (img 4 0 0) 2 + 2820 ∧ (img 4 0 1).getD 12 0 ≠ 0 ∧
    s.powered = true ∧ { s with powered := false }.powered = false ∧ (2 ^ 46 ≤ 2 ^ 46 + 5 ∧ 2 ^ 46 + 5 + [(1 : Byte), 2].length ≤ 2 ^ 47) ∧
    2 ^ 46 - 1 < 2 ^ 46 ∧ ¬(2 ^ 46 ≤ 2 ^ 38 - 1) ∧ 2 ^ 38 < 2 ^ 38 - 1 + [(1 : Byte), 2].length ∧ 2 ^ 38 - 2 + [(1 : Byte), 2].length ≤ 2 ^ 38 ∧
    0x21 % 8 ≠ 0 := by decide +kernel

/-! #### Issue, completion and the step -/

/-- `add.i64 d, a, b` and its form. -/
def addI (h : Hdr) (d a b : Opnd) : Instr := .add h .i64 d a b
def addForm (h : Hdr) (d a b : Opnd) : Form := ⟨.any, h, 8, [a, b], [(d, some 1)]⟩

/-- The registers of a form may all be named, as a computation. -/
theorem names_of {s : State} {f : Form} (hg : s.me.going = false ∧ f.gate.refuses s.actor = false)
    (hs : decide (∀ o ∈ f.srcs, ¬(let n := o.toNat
      let window := if s.actor = 0 then 64 else 16 * (s.me.win.toNat + 1)
      (window ≤ n ∧ n < 0x40) ∨ n = 0x4A ∨ n = 0x4B ∨ (0x4C ≤ n ∧ n < 0x50 ∧ (s.me.q.get 0 (n - 0x4C)).toNat / 16 ≠ 1) ∨
      (0x57 ≤ n ∧ n < 0x60) ∨ 0x68 ≤ n)) = true)
    (hd : decide (∀ d ∈ f.dsts, ¬(let n := d.1.toNat
      let window := if s.actor = 0 then 64 else 16 * (s.me.win.toNat + 1)
      (window ≤ n ∧ n < 0x40) ∨ (0x48 ≤ n ∧ n < 0x4C) ∨ (0x4C ≤ n ∧ n < 0x50 ∧
      (s.me.q.get 0 (n - 0x4C)).toNat / 16 ≠ 2) ∨
      (0x50 ≤ n ∧ n < 0x56) ∨ (0x57 ≤ n ∧ n ≤ 0x60) ∨ 0x68 ≤ n)) = true) : namesOk s f :=
  ⟨hg.1, hg.2, fun o m => by unfold badSource; exact of_decide_eq_true hs o m,
    fun d m => by unfold badDest; exact of_decide_eq_true hd d m⟩

/-- A strand with two results on their way: one of fixed latency to g1, not ready before turn 2, and one of variable
latency to g2; q0 reads an empty FIFO and q1 writes a full one. -/
def flying : State :=
  ((turn 1 [3, 4, 5, 6]).onMe fun k => { k with
    chk := true, flight := [⟨1, 9, some 2, false, 0⟩, ⟨2, 9, none, false, 0⟩], q := [(0, 0x13), (1, 0x25)] }).onCore 0 fun k => { k with
      fifos := [(5, List.replicate 16 0)] }

theorem awaited_of {s : State} {o : Opnd} (h : s.me.flight.any (fun f => f.ready.isNone && f.o == o) = true) :
    awaited s o := by
  obtain ⟨f, m, hf⟩ := List.any_eq_true.mp h
  simp only [Bool.and_eq_true, Option.isNone_iff_eq_none, beq_iff_eq] at hf
  exact ⟨f, m, hf⟩

theorem not_awaited_of {s : State} {o : Opnd} (h : s.me.flight.any (fun f => f.ready.isNone && f.o == o) = false) :
    ¬awaited s o := by
  rintro ⟨f, m, h1, h2⟩
  have := List.any_eq_false.mp h f m
  simp [h1, h2] at this

theorem witness_IssueTests :
    let s := flying
    let bad := addForm h0 0x10 1 2
    let sup := turn 0 [1]
    formOf (addI h0 0x10 1 2) = some bad ∧ formOf (addI h0 3 1 3) = some (addForm h0 3 1 3) ∧
    formOf (addI h0 3 2 3) = some (addForm h0 3 2 3) ∧ formOf (.tren h0 false) = some ⟨.sup, h0, 8, [], []⟩ ∧
    s.actor ≠ 0 ∧ s.me.going = false ∧ sup.me.going = false ∧
    sup.actor = 0 ∧ Gate.user.refuses sup.actor = true ∧ bad.gate.refuses s.actor = false ∧ badDest s 0x10 ∧
    badSource s 0x4D ∧
    namesOk s (addForm h0 3 1 3) ∧ namesOk s (addForm h0 3 2 3) ∧ namesOk s (addForm h0 3 0x4C 3) ∧
    namesOk s (addForm h0 0x4D 3 3) ∧ awaited s 2 ∧ ¬awaited s (guardOpnd h0) ∧
    (s.guardHolds s.cur s.actor h0 = true ∧ (2#7).toNat < 0x48 ∧ s.me.checked s.actor = true ∧ s.me.fixPending (s.core s.cur).turn (guardOpnd h0) = false ∧
    s.me.chk = true ∧ s.me.fixPending (s.core s.cur).turn 1#7 = true ∧
    (let late := s.onMe fun k => { k with flight := [⟨1, 9, some 2, false, 0⟩] }
     late.me.fixPending (late.core late.cur).turn 1#7 = true ∧ late.me.varPending 1#7 = false ∧
       late.me.dstPending 3#7 = false ∧ late.me.fixPending (late.core late.cur).turn 3#7 = false) ∧
    (⟨1, 9, some 2, false, 0⟩ : Flight) ∈ s.me.flight ∧ (s.core s.cur).turn < 2) ∧
    (let t := s.onMe fun k => { k with flight := [] }
     let fifo := fun (o : Opnd) => (t.core t.cur).fifos.get [] ((t.me.q.get 0 (o.toNat - 0x4C)).toNat % 16)
     (fifo 0x4C).length < ([0x4C, 3].filter (· == (0x4C : Opnd))).length ∧ 16 ≤ (fifo 0x4D).length ∧
     namesOk t (addForm h0 3 0x4C 3) ∧
     namesOk t (addForm h0 0x4D 3 3) ∧ ¬awaited t (guardOpnd h0) ∧ t.me.varPending 0x4C#7 = false ∧
     t.me.dstPending 0x4D#7 = false ∧ t.me.fixPending (t.core t.cur).turn 0x4C#7 = false) :=
  ⟨rfl, rfl, rfl, rfl, by decide +kernel, by decide +kernel, by decide +kernel, by decide +kernel, by decide +kernel, by decide +kernel,
    by unfold badDest; decide, by unfold badSource; decide,
    names_of (by decide +kernel) (by decide +kernel) (by decide +kernel),
    names_of (by decide +kernel) (by decide +kernel) (by decide +kernel),
    names_of (by decide +kernel) (by decide +kernel) (by decide +kernel),
    names_of (by decide +kernel) (by decide +kernel) (by decide +kernel), awaited_of (by decide +kernel),
    not_awaited_of (by decide +kernel), by decide +kernel, by decide +kernel, by decide +kernel, names_of (by decide +kernel) (by decide +kernel) (by decide +kernel),
    names_of (by decide +kernel) (by decide +kernel) (by decide +kernel), not_awaited_of (by decide +kernel),
    by decide +kernel⟩

theorem witness_GuardedOffHasNoEffect :
    let s := (turn 1 [3, 4]).onMe fun k => { k with c := 1 }
    let h : Hdr := ⟨3, 7, false⟩
    formOf (addI h 3 1 2) = some (addForm h 3 1 2) ∧ namesOk s (addForm h 3 1 2) ∧ ¬awaited s (guardOpnd h) ∧
    s.me.checked s.actor = false ∧ (decide (h.gc = 0#3) || s.me.c.getLsbD h.gc.toNat) = h.gn ∧
    (decide ((0#3 : BitVec 3) = 0#3) || s.me.c.getLsbD 0) = true :=
  ⟨rfl, names_of (by decide +kernel) (by decide +kernel) (by decide +kernel), not_awaited_of (by decide +kernel),
    by decide +kernel⟩

theorem witness_CompletionAndFrame :
    let s := turn 1 [3, 4]
    (∀ o ∈ [(3 : Opnd), 1, 0x67], o.toNat < 0x4C ∨ 0x50 ≤ o.toNat) ∧ ¬badDest s 3 ∧ ¬badDest s 0x67 ∧ ¬badDest s 0x56 ∧
    ¬badSource s 1 ∧ s.me.wpend = [] ∧ s.me.flight = [] ∧ 0 < (0x47 : Opnd).toNat ∧ (0x47 : Opnd).toNat < 0x48 ∧ 1 < 2 ∧
    1 < (s.core 0).turn + 2 ∧ (s.core 0).turn + 2 ≤ (s.core 0).turn + 2 ∧ 0x4C ≤ (0x4F : Opnd).toNat ∧
    (let t := flying
     (t.core t.cur).fifos.get [] ((t.me.q.get 0 ((0x4D : Opnd).toNat - 0x4C)).toNat % 16) = 0 :: List.replicate 15 0) :=
  ⟨by decide +kernel, by unfold badDest; decide, by unfold badDest; decide, by unfold badDest; decide,
    by unfold badSource; decide, by decide +kernel⟩

/-- Core 0's strand 1 at a pc, with a word there. -/
def at_ (pc w : Nat) : State :=
  ((turn 1 [3, 4]).setBytes pc (toBytes 8 w)).onMe fun k => { k with pc := .ofNat 64 pc }

/-- The state at a slot's tests. -/
abbrev atSlot (s : State) : State := s.landed1

theorem mayIssue_of {s : State} (h : (s.powered && s.dueNow.isEmpty && !s.idle.getLsbD s.cur &&
    (let t := atSlot s
     decide (s.actor ≠ 0) && !t.holds s.cur s.actor && ((s.sfuEnd s.cur).ctx s.cur s.actor).stall == 0 &&
       (t.heldBy s.cur s.actor).isNone && (t.ctx s.cur s.actor).etraps.isEmpty &&
       (t.ctx s.cur s.actor).rtrap.isNone)) = true) : MayIssue s (atSlot s) := by
  simp only [Bool.and_eq_true, List.isEmpty_iff, decide_eq_true_eq, Bool.not_eq_true', beq_iff_eq,
    Option.isNone_iff_eq_none] at h
  obtain ⟨⟨⟨h1, h2⟩, h8⟩, ⟨⟨⟨⟨h3, h4⟩, h5⟩, h9⟩, h6⟩, h7⟩ := h
  exact ⟨h1, h2, h8, rfl, fun e => absurd e h3, h4, h5, h9, .inr ⟨h6, h7⟩⟩

/-- What the fetch of a state brings: the word, if it is found. -/
def fetched (s : State) (f : Nat → Nat → Bool) : Bool :=
  okWith (s.fetchAt s.cur s.actor s.me.pc) fun t1 key =>
    let b := t1.icacheLoad s.cur key.1 key.2 1
    f b.2 (b.1.icacheLoad s.cur key.1 key.2 (8 + 4 * (b.2 % 4))).2

theorem witness_StepRunsDecoded :
    let word := Instr.encode (addI h0 3 1 2)
    let s := at_ 0x18 word
    let odd := (at_ 0x1A 0)
    let long := at_ 0x10 1
    let past := at_ 0x18 1
    let bad := at_ 0x18 (2 ^ 15)
    let gone := at_ (2 ^ 40) 0
    let still := (turn 1 []).onMe fun k => { k with stall := 3 }
    let due := { turn 1 [] with agenda := [⟨0, .placeHead 0⟩] }
    let land := atSlot
    let kept := s.onMe fun k => { k with busy := true, running := some (addI h0 3 1 2) }
    let idle := { still with idle := 1 }
    let event := { s with agenda := [⟨0, .placeHead 0⟩, ⟨0, .tileTake 0 0⟩] }
    MayIssue s (land s) ∧ MayIssue odd (land odd) ∧ MayIssue long (land long) ∧ MayIssue past (land past) ∧
    MayIssue bad (land bad) ∧
    MayIssue gone (land gone) ∧ (land s).cur = s.cur ∧ (land s).actor = s.actor ∧ s.me.pc.toNat % 4 = 0 ∧
    s.me.pc.toNat % 32 ≠ 28 ∧
    fetched (land s) (fun b w => b % 4 != 3 && decide (0x18 + (8 + 4 * (b % 4)) ≤ 32) && w == word) = true ∧
    goesB (decode word) = true ∧ odd.me.pc.toNat % 4 ≠ 0 ∧ fetched (land odd) (fun _ _ => true) = true ∧
    fetched (land past) (fun b _ => decide (32 < 0x18 + (8 + 4 * (b % 4)))) = true ∧
    fetched (land bad) (fun b w => b % 4 != 3 && !goesB (decode w)) = true ∧
    fetched (land long) (fun b _ => decide (0x10 + (8 + 4 * (b % 4)) ≤ 32)) = true ∧
    failsB ((land gone).fetchAt 0 1 gone.me.pc) = true ∧ s.powered = true ∧ s.dueNow = [] ∧ still.actor ≠ 0 ∧
    (land still).holds 0 1 = false ∧ ((still.sfuEnd 0).ctx 0 1).stall ≠ 0 ∧
    (land (still.onMe fun k => { k with st := .parked })).holds 0 1 = true ∧ still.cur < 191 ∧
    { still with cur := 191 }.cur = 191 ∧ due.dueNow ≠ [] ∧ { s with powered := false }.powered = false ∧
    due.firstTimed = none ∧ event.firstTimed = some 1 ∧ idle.idle.getLsbD idle.cur = true ∧ s.idle.getLsbD s.cur = false ∧
    (land kept).heldBy 0 1 = some (addI h0 3 1 2) ∧ (land kept).holds 0 1 = false ∧ kept.dueNow = [] ∧
    ((kept.sfuEnd 0).ctx 0 1).stall = 0 ∧ kept.powered = true :=
  ⟨mayIssue_of (by decide +kernel), mayIssue_of (by decide +kernel), mayIssue_of (by decide +kernel),
    mayIssue_of (by decide +kernel), mayIssue_of (by decide +kernel), mayIssue_of (by decide +kernel),
    by decide +kernel⟩

theorem witness_DecodeEncodeAgree :
    (addI h0 0x67 0x67 0x67).isForm = true ∧ (addI h0 0x67 0x67 0x67).wf = true ∧
    goesB (decode 0) = true := by decide +kernel

theorem witness_MemoryCanonical : State.reset.memWf ∧ (turn 1 []).memWf ∧ ∃ t, step (turn 1 []) = .next t := by
  refine ⟨⟨rfl, fun _ => rfl⟩, ⟨rfl, fun c => by cases c <;> rfl⟩, ?_⟩
  cases h : step (turn 1 []) with
  | next t => exact ⟨t, rfl⟩
  | fault e =>
    have : (match step (turn 1 []) with | .next _ => true | _ => false) = true := by decide +kernel
    rw [h] at this; cases this
  | refused e =>
    have : (match step (turn 1 []) with | .next _ => true | _ => false) = true := by decide +kernel
    rw [h] at this; cases this

theorem witness_DecodingRight : 3 % 4 = 3 ∧ 2 ^ 64 % 4 ≠ 3 := by decide +kernel

/-! #### Further forms and clauses -/

theorem issues_of {s g h srcs dsts} (hb : (!s.me.going && readyB s g h srcs dsts) = true) : s.Issues g h srcs dsts := by
  rw [Bool.and_eq_true, Bool.not_eq_true'] at hb
  exact (ready_of hb.2).elim (fun h => by rw [hb.1] at h; cases h.1) id

/-- A SEND to device 2 whose turn has come, and one behind another. -/
theorem witness_FarMessages :
    let far := inDomain (turn 1 [0x203, 7])
    let behind := (far.onCtx 0 2 fun k => { k with st := .ready, pc := 0x80 }).onCore 0 fun k =>
      { k with offers := [⟨2, 0x80, 256 * (2 + 1) + 3, false⟩] }
    far.Ready .any h0 [1, 2] [] ∧ (far.core 0).offerTurn 1 (256 * (2 + 1) + 3) false = true ∧
    behind.Ready .any h0 [1, 2] [] ∧ (behind.core 0).offerTurn 1 (256 * (2 + 1) + 3) false = false :=
  ⟨ready_of (by decide +kernel), by decide +kernel, ready_of (by decide +kernel), by decide +kernel⟩

/-- A launch with two strands left. -/
def launched : Launch := ⟨0, 0, 0, 2, true, [], 0, 0, 3, true, 0, none, []⟩
def withLaunch (n : Nat) (s : State) : State := s.onDev fun d => { d with launches := [(n, launched)] }

/-- Strands that a launch counts: one that quits with a join cell here or on device 2, and the recruits of a fork, one of
whose cores has a full list. -/
theorem witness_Strands2 :
    let r : Child := ⟨0x40, 1, 0, 0, 0, 0, 0, 0, 5⟩
    let s := withLaunch 5 (turn 1 [3])
    let full := s.onCore 5 fun k => { k with direct := List.replicate 64 (.child r 0) }
    let far := ((inDomain (turn 1 [])).onCore 0 fun k => { k with tlb := [{ page0 with mpa := 2 ^ 47 + 2 * 2 ^ 42 }] }).onMe fun k =>
      { k with jc := 0x100 }
    let v := fun (s : State) => (s.gather 0 1).publish 0 1
    [0, 5] ≠ [] ∧ [0, 5].Nodup ∧ [0, 5][1]? = some 5 ∧ (s.core 5).direct.length < 64 ∧ 64 ≤ (full.core 5).direct.length ∧
    s.dev.launches.find r.launch = some launched ∧ 0 < min (ceilDiv 100 7) (s.group (s.partOf 0) 0 4).length ∧
    (s.recruit 0 4 100 7).any (· != 0) = true ∧
    (v (joined 3 false [])).cur = 0 ∧ (v far).cur = 0 ∧ (v far).actor = 1 ∧ ((v far).ctx 0 1).jc ≠ 0 ∧ far.anyOut 0 1 = false ∧
    okWith ((v (joined 3 false [])).objPlace 0 1 0x100) (fun t p => !t.isForeign p) = true ∧
    okWith ((v far).objPlace 0 1 0x100) (fun t p => t.isForeign p) = true ∧
    (withLaunch 0 (joined 3 false [])).dev.launches.find ((joined 3 false []).ctx 0 1).launch = some launched := by
  decide +kernel

/-- Contexts that start, and the registers' writes: a stopped context, owed traps, firmware that does not run. -/
theorem witness_Contexts2 :
    let s := watched .stopped [2]
    let owed := (turn 1 [3]).onCtx 0 2 fun k => { k with st := .parked, wake := .engrend, etrap := some 5, rejected := [7] }
    let due := (super [3]).onCore 0 fun k => { k with entryDue := [7] }
    s.Issues .sup h0 [1] [] ∧ (super [3]).Issues .sup h0 [0x46#7] [] ∧ (s.ctx 0 2).st = .stopped ∧
    (watched .ready [2]).me.going = false ∧ (turn 1 [3]).me.going = false ∧
    (owed.ctx 0 2).etraps = 5 :: [7] ∧ (2 : Nat) ≠ 0 ∧ (owed.core 0).trapq.length < 16 ∧
    ((turn 1 [3]).ctx 0 2).etraps = [] ∧ (due.ctx 0 0).going = false ∧ ((watched .ready [2]).ctx 0 2).going = false :=
  ⟨issues_of (by decide +kernel), issues_of (by decide +kernel), by decide +kernel⟩

theorem witness_Registers2 :
    let s := super [3]
    let down := s.onDev fun d => { d with cpcfg := 3 }
    let q := (withQueue 0 (turn 1 [])).onHwq 5 fun q => { q with spawn := true }
    let idle := s.onCtx 0 1 fun k => { k with st := .free }
    s.dev.fwUp = true ∧ down.dev.fwUp = false ∧ (s.writeFwdrec 0 0x40).isSome = true ∧ (s.writeFwdrec 0 0x41).isNone = true ∧
    (down.writeFwdrec 0 0x40).isSome = true ∧ (s.writeType 0 1 0x80004100).isNone = true ∧
    (0x8000000000000000#64 &&& ~~~0x87FF07FF#64) ≠ 0 ∧
    (idle.core 0).scratchSize < 1024 * (fld 0x07FF07FF#64 16 11 + fld 0x07FF07FF#64 0 11) ∧
    (∀ i, i < 4 → (0x8005#64).getLsbD (16 * i + 15) = true → q.queueIs (q.partOf 0) (fld 0x8005#64 (16 * i) 14) true = true) ∧
    ¬(∀ i, i < 4 → (0x8006#64).getLsbD (16 * i + 15) = true → q.queueIs (q.partOf 0) (fld 0x8006#64 (16 * i) 14) true = true) ∧
    (12 ≤ (13#64).toNat ∧ (13#64).toNat ≤ 32 ∧ (0x2000#64).toNat % 2 ^ (13#64).toNat = 0) ∧ 32 < (33#64 &&& 0x3F).toNat ∧
    (s.part 0).pwsize = 0 ∧ (0x1000#64).toNat % 2 ^ (13#64).toNat ≠ 0 ∧
    ((q.onPart 0 fun p => { p with htsize := 0 }).part 0).pwsize = 0 ∧ (10 : BitVec 4).toNat ≤ 10 := by decide +kernel

/-- One f32 element, compared with another into i32; split into three of bf16. -/
def envC : TEnv := { envF with d := shapeOf (shp (scr 0x100) 1 1 0 1 0) }
def envS : TEnv := { envF with
  d := shapeOf (shp (scr 0x100) 1 1 0 11 0), b := shapeOf (shp (scr 0x300) 1 1 0 11 0), c := shapeOf (shp (scr 0x400) 1 1 0 11 0) }

def finB (v : FVal) : Bool :=
  match v with
  | .fin _ _ _ => true
  | _ => false

theorem fin_of {v : FVal} (h : finB v = true) : ∃ s m e, v = .fin s m e := by
  cases v with
  | fin s m e => exact ⟨s, m, e, rfl⟩
  | _ => cases h

theorem witness_TensorForms2 :
    let s := shaped []
    let x := fun (v : Nat) => fmtF32.value ((s.setBytes (scrKey 0 0x200) (toBytes 4 v)).loadN (scrKey 0 0x200) 4)
    (s.scrAt 0 1 (envC.d.addr (envC.d.coord 0)) envC.d.z = .ok (scrKey 0 0x100) ∧
      s.scrAt 0 1 (envS.d.addr (envS.d.coord 0)) envS.d.z = .ok (scrKey 0 0x100) ∧
      s.scrAt 0 1 (envS.a.addr (envS.a.coord 0)) envS.a.z = .ok (scrKey 0 0x200) ∧
      s.scrAt 0 1 (envS.b.addr (envS.b.coord 0)) envS.b.z = .ok (scrKey 0 0x300) ∧
      s.scrAt 0 1 (envS.c.addr (envS.c.coord 0)) envS.c.z = .ok (scrKey 0 0x400)) ∧ (∃ g m e, x 0x3FC12345 = .fin g m e) ∧
    envC.a.f = .ty .f32 ∧ envC.b.f = .ty .f32 ∧ envC.d.f = .ty .i32 ∧ tyFloat .i32 = false ∧ tyFloat .m8 = false ∧
    envC.d.mode = 0 ∧ envS.a.f = .ty .f32 ∧ envS.d.f = .ty .bf16 ∧ envS.b.f = .ty .bf16 ∧ envS.c.f = .ty .bf16 ∧
    x 0xFF800000 = .inf true ∧ (x 0x7FC00000).isNan = true :=
  ⟨⟨at_of (by decide +kernel), at_of (by decide +kernel), at_of (by decide +kernel), at_of (by decide +kernel),
    at_of (by decide +kernel)⟩, fin_of (by decide +kernel), by decide +kernel⟩

/-- TSPLIT3 of 1.5 + 2^-9 + 2^-17 into its three terms (R85, R236), and TCMP, by NE, of unequal elements into m8 and i16 (R162, R238). -/
theorem test_split_and_compare :
    let s := (shaped []).setBytes (scrKey 0 0x200) (toBytes 4 0x3FC04040)
    let dest := fun (t : Nat) => { envC with d := shapeOf (shp (scr 0x100) 1 1 0 t 0) }
    (match s.tElem (tABC .split 0 1 2 3) envS 0 with
      | .ok r => r.1.loadN (scrKey 0 0x100) 2 == 0x3FC0 && r.1.loadN (scrKey 0 0x300) 2 == 0x3B00 &&
        r.1.loadN (scrKey 0 0x400) 2 == 0x3700 && r.2.1 == 0
      | .error _ => false) = true ∧
    (∀ t ∈ [12, 2], (match (shaped []).tElem (tKB (.cmp .f32 1 false 0) 0 0 1 2 false) (dest t) 0 with
      | .ok r => r.1.loadN (scrKey 0 0x100) 1 == 1
      | .error _ => false) = true) := by decide +kernel

/-- A B of two rows of bf16, with a row of A: finite elements, and a NaN. -/
theorem witness_MatrixWork2 :
    let b : BDesc := ⟨2, 2, 11, [none, none]⟩
    let v := { Matrix.reset with b := some b, array := [(0, 0x3F80), (1, 0x7FC0)] }
    let col := fun (j : Nat) => (List.range b.k).map fun k => v.array.get 0 (k * 192 + j)
    (∀ c ∈ [0x3F80, 0x4000], ∃ g m e, fmtBf16.value c = .fin g m e) ∧
    (∀ c ∈ col 0, ∃ g m e, fmtBf16.value c = .fin g m e) ∧
    v.b = some b ∧ b.n ≤ 192 ∧ [0x3F80, 0x4000].length = b.k ∧ 0 < b.k ∧ opClass (.ty .bf16) = some 2 ∧
    opClass (efmt b.fmt) = some 2 ∧ (EFmt.ty .bf16).fmt = fmtBf16 ∧ (efmt b.fmt).fmt = fmtBf16 ∧ (2 : Nat) ≠ 0 ∧
    ((col 1).any fun c => (fmtBf16.value c).isNan) = true := by
  refine ⟨fun c hc => fin_of ?_, fun c hc => fin_of ?_, by decide +kernel⟩
  · exact (by decide +kernel : ∀ c ∈ [0x3F80, 0x4000], finB (fmtBf16.value c) = true) c hc
  · exact (by decide +kernel : ∀ c ∈ [0x3F80, 0], finB (fmtBf16.value c) = true) c hc

/-- A DGDEC held up by its node's core; a RAST that has issued, its surface bound no more; a handover at the engine; a mode
that a head can show, and one it cannot. -/
theorem witness_Engines2 :
    let a : Word := .ofNat 64 (scr 0x240)
    let live := noded 4 2 (.ofNat 64 (scr 0x260)) (turn 1 [a])
    let held := live.onCore 0 fun k => { k with trapHeld := [mkRec 0x11 0 0 0 0 0] }
    let u := surfOf 0 4
    let act := ((turn 1 [.ofNat 64 (scr 0x400), 7]).onMe fun k => { k with
      status := rastStatus 7 3, busy := true, rastOn := some (u.desc, u.map) }).onCore 0 fun k => { k with prims := [primOf (some 7) 4] }
    let mode : Word := .ofNat 64 (1080 + 1125 * 2 ^ 16 + 24 * 2 ^ 32 + 4 * 2 ^ 44 + 4 * 2 ^ 48 + 2 ^ 63)
    let time : Word := .ofNat 64 (26666 + 1920 * 2 ^ 32 + 2200 * 2 ^ 48)
    held.Ready .any h0 [1] [] ∧ live.Ready .any h0 [1] [] ∧ act.Ready .any h0 [1] [] ∧
    modeShows mode time 1 ∧ ¬modeShows (mode &&& ~~~0xFFFF#64) time 1 ∧ mode.getLsbD 63 = true ∧
    held.nodeTarget 0 1 0 a = some (0, 0x240) ∧ live.nodeTarget 0 1 0 a = some (0, 0x240) ∧
    (held.core 0).graphBlocked = true ∧ (live.core 0).graphBlocked = false ∧
    act.me.rastGoes = some (u.desc, u.map) ∧ act.surfAt 0 2 = none ∧ (act.settle 0) = act ∧
    (act.core 0).prims.find? (mine act.me.status) = some (primOf (some 7) 4) ∧ (act.core 0).rastWaiter 2 = none ∧
    (bound u (turn 1 [])).me.rastGoes = none :=
  ⟨ready_of (by decide +kernel), ready_of (by decide +kernel), ready_of (by decide +kernel),
    by unfold modeShows; decide +kernel, by unfold modeShows; decide +kernel, by decide +kernel⟩

/-- Firmware's report to a partition that has set PERRSIG, and partitions that start and end. -/
theorem witness_Partitions2 :
    let s := (withObj 1 5 (turn 1 [])).onPart 0 fun p => { p with perrsig := 0x100 }
    let off := partsOf [(1, 0, 1, 1)]
    let down := off.onDev fun d => { d with cpcfg := 3 }
    let swaps := (partsOf [(0, 1, 1, 1), (1, 2, 1, 1)]).onPart 0 fun p => { p with swapping := true }
    (s.part 0).perrsig ≠ 0 ∧ (State.reset.part 0).perrsig = 0 ∧ (0x100 : Word).toNat % 256 = 0 ∧ fld (0x100 : Word) 60 4 = 0 ∧
    okWith (s.placeIn 0 0 (s.firstCore 0) 0 0x100 256 256 1 1) (fun t pl => !t.isForeign pl && (t.obj pl.key).kind == 1 &&
      !t.dev.evctl.getLsbD 31) = true ∧ off.dev.fwUp = true ∧ down.dev.fwUp = false ∧ (off.part 1).st = 0 ∧
    (down.part 1).st = 0 ∧ (swaps.part 0).st ≠ 0 ∧ (swaps.part 0).swapping = true ∧ (off.unstart 1) = off ∧
    (∀ c ∈ (partsOf [(0, 1, 1, 1)]).coresOf 0, ((partsOf [(0, 1, 1, 1)]).core c).sfu = none) := by decide +kernel

/-- Packets that halt their queue or wait; a queue that has halted in a buffer; what a launch ends with. -/
theorem witness_HostQueues2 :
    let h := slotOf0 id
    let far := slotOf0 fun h => { h with desc := BitVec.ofNat 512 (2 ^ 40 + 4 * 2 ^ 64 + 2 ^ 127) }
    let odd := hosted far []
    let type6 := hosted h [6]
    let wait := hosted h [3, 0x100, 9]
    let ind := fun (a n : Nat) => hosted h [4, a, n]
    let woken := slotOf0 fun h => { h with woken := true }
    let u := fun (t : State) => t.onDev fun d => { d with lastSlot := 0 }
    let done := fun (csig : Word) => (withObj 1 5 (turn 1 [])).onDev fun d => { d with
      launches := [(7, { launched with live := 0, csig := csig })] }
    let ended := fun (s : State) => (s.releaseHandles 0 []).onDev fun d => { d with launches := d.launches.del 7 }
    packetStarts wait 0 h 3 ∧ packetStarts (ind 0x4001 1) 0 h 4 ∧ packetStarts (ind 0x1000 1) 0 h 4 ∧
    packetStarts (ind (2 ^ 38) 1) 0 h 4 ∧
    okWith ((u wait).placeIn 0 0 ((u wait).firstCore 0) 0 0x100 256 256 1 1) (fun t pl => (t.obj pl.key).kind == 1 &&
      !relHolds 0 (t.obj pl.key).value 9) = true ∧ 0x4001 % 64 ≠ 0 ∧ mpaRange (2 ^ 38) 64 = false ∧
    (h.running.any fun r => overlap 0x1000 64 r.1 r.2) = true ∧ 2 ^ 38 % 64 = 0 ∧ mpaRange 0x1000 64 = true ∧
    odd.dev.hslots.find 0 = some far ∧ odd.cpNext = some 0 ∧ far.number = 0 ∧ pkType (odd.header far) = 0 ∧ far.bufs = [] ∧
    mpaRange (qdBase far.desc) (64 * 2 ^ qdLog far.desc) = false ∧ type6.cpNext = some 0 ∧ pkType (type6.header h) = 6 ∧
    mpaRange (qdBase h.desc) (64 * 2 ^ qdLog h.desc) = true ∧ qdBase h.desc % (64 * 2 ^ qdLog h.desc) = 0 ∧ h.next = none ∧
    (hosted woken []).dev.hslots.find 0 = some woken ∧ woken.woken = true ∧
    { h with halted := true }.halted = true ∧ 2 / 2 % 2 = 1 ∧ 1 / 2 % 2 ≠ 1 ∧ (0x100 : Word) ≠ 0 ∧
    ((ended (done 0x100)).deviceSignal 0 0 0x100 false 0 fullSummary).2 = 0 ∧
    ((ended (done 0x200)).deviceSignal 0 0 0x200 false 0 fullSummary).2 ≠ 0 ∧ State.reset.powered = true ∧
    { h with next := some 1 }.next.isSome = true := by
  refine ⟨starts_of (by decide +kernel), starts_of (by decide +kernel), starts_of (by decide +kernel),
    starts_of (by decide +kernel), by decide +kernel⟩

/-- Flits while discarding, routes to device 2, and the steps of an emergency save. -/
theorem witness_LinksAndPower2 :
    let s := inDomain (turn 1 [])
    let routed := s.onDev fun d => { d with route := [(2, 2)], ports := [(1, { Port.reset with st := 2 })] }
    let port := fun (p : Port) => s.onDev fun d => { d with ports := [(1, p)] }
    let lost := port { Port.reset with st := 2, discard := true, buf := [(3, 0, 0), (4, 0, 8)] }
    let hot := s.onDev fun d => { d with thermState := 2 }
    let saves := fun (p : Nat) => hot.onDev fun d => { d with saving := some p }
    let halted := (saves 0).onPart 0 fun p => { p with st := 3, savebase := 0x10000 }
    keyDev s.ownDev (2 ^ 47 + 2 * 2 ^ 42) = 2 ∧ (2 : Nat) ≠ s.ownDev ∧ keyDev s.ownDev 0x100 = s.ownDev ∧ s.routeOf 2 = 0 ∧
    routed.routeOf 2 ≠ 0 ∧ routed.routeOf 2 &&& 0xFF = routed.routeOf 2 ∧ (routed.port 1).st = 2 ∧
    routed.routeOf 2 = 1#64 <<< 1 ∧ (1 : Nat) < 8 ∧ (routed.part 0).st = 1 ∧
    ((routed.part 0).fgrant.get 0 2).getLsbD 31 = true ∧ (lost.port 1).discard = true ∧ crcGood (mkFlit 1 5) = true ∧
    flitKind (mkFlit 4 4) = 4 ∧ crcGood (mkFlit 4 4) = true ∧ ((lost.port 1).buf.filter fun e => seqLe 4 e.1) = [(4, 0, 8)] ∧
    ((port { Port.reset with buf := [(3, 0, 7)] }).port 1).buf.all (fun e => decide (e.2.2 < 8)) = true ∧ (lost.port 1).sinceAck < 63 ∧
    ((lost.port 1).buf.any fun e => seqLe e.1 (flitSeq (mkFlit 3 3))) = true ∧ s.dev.fwUp = true ∧
    (s.onDev fun d => { d with cpcfg := 3 }).dev.fwUp = false ∧ s.dev.thermState ≠ 2 ∧ hot.dev.thermState = 2 ∧
    hot.powered = true ∧ hot.dev.saving = none ∧ (saves 2).dev.saving = some 2 ∧ (2 : Nat) < 4 ∧
    (saves 4).dev.saving = some 4 ∧ (halted.part 0).st = 3 ∧ (halted.part 0).savebase.toNat < 2 ^ 38 ∧
    (∀ c ∈ halted.coresOf 0, (halted.core c).l1 = []) ∧ (halted.coresOf 0).head? = some 0 ∧
    (s.onMgmt fun m => { m with reqs := [9] }).mgmt.reqs = 9 :: [] := by decide +kernel

/-- A strand whose instruction goes on, woken at its queue registers, as a slot finds it. -/
theorem witness_Going :
    let s := (at_ 0x18 (Instr.encode (addI h0 3 1 2))).onMe fun k => { k with woken := true }
    let t := atSlot s
    s.me.going = true ∧ (t.ctx 0 1).going = true ∧ t.heldBy 0 1 = none ∧ t.holds 0 1 = false ∧ s.powered = true ∧ s.dueNow = [] := by
  decide +kernel

/-! #### Clauses on late traps, exact points, swaps and slots -/

/-- Exact points of FEXP2, FLOG2, FSIN, FCOS and FSQRT in f32 (R174): 2^3, log₂ 8, sin and cos of 3π/2 and π, √9. -/
theorem test_exact_points :
    g5 (.fexp2 h0 .f32 5 1 0) [0x40400000] = 0x41000000 ∧ g5 (.flog2 h0 .f32 5 1 0) [0x3E000000] = 0xC0400000 ∧
    g5 (.fsin h0 .f32 5 1 0) [0x3FC00000] = 0xBF800000 ∧ g5 (.fcos h0 .f32 5 1 0) [0x3FC00000] = 0 ∧
    g5 (.fsqrt h0 .f32 5 1 0) [0x41100000] = 0x40400000 ∧ g5 (.frsq h0 .f32 5 1 0) [0x40800000] = 0x3F000000 := by
  decide +kernel

theorem witness_ExactPoints :
    Ty.f32.isFloat = true ∧ (if true then -((3 : Nat) : Int) else ((3 : Nat) : Int)) * (2 : Int) ^ (1 : Int).toNat =
      -6 * (2 : Int) ^ (-1 : Int).toNat ∧
    (if false then -((2 * 3 : Nat) : Int) else ((2 * 3 : Nat) : Int)) * (2 : Int) ^ (-1 : Int).toNat = 3 * (2 : Int) ^ (1 : Int).toNat ∧
    (3 : Int) % 2 = 1 ∧ (9 : Nat) ≠ 0 := by decide

/-- A NaN passes the depth test for not-equal alone; 1 is below 2. -/
theorem witness_DepthTests :
    (fmtF32.value 0x7FC00000).isNan = true ∧ ((fmtF32.value 0x3F800000).isNan || (fmtF32.value 0x40000000).isNan) = false ∧
    depthTest 1 0x3F800000 0x40000000 = true ∧ depthTest 1 0x7FC00000 0x7F800000 = false ∧ depthTest 5 0x7FC00000 0 = true := by
  decide +kernel

/-- A load whose result is still on its way, read again as it lands. -/
theorem witness_LateReads :
    let s := (turn 1 [3]).onMe fun k => { k with
      flight := [⟨5, 9, none, false, 0⟩], reading := some (⟨0x100, some page0⟩, .i64) }
    let u := s.loadAt 0 1 ⟨0x100, some page0⟩ (tyBytes .i64)
    (s.ctx 0 1).flight = [] ++ ⟨.ofNat 7 5, 9, none, false, 0⟩ :: [] ∧ 0 < 5 ∧ 5 < 64 ∧
    (s.ctx 0 1).reading = some (⟨0x100, some page0⟩, .i64) ∧ (u.1.ctx 0 1).flight = (s.ctx 0 1).flight ∧
    ((turn 1 [3]).ctx 0 1).reading = none := by decide +kernel

/-- A posted store past the end of a scratchpad, and a signal update whose object, on this device, is no signal. -/
theorem witness_LateFaults :
    let p : Posted := .store 0 1 (scrKey 3 0x1FFFF8) [1] true
    let e : Posted := .edge 1 0 0 (.signal 0x100 false false 0 9 6 (some (1, mkRec 2 1 0 0 0 0)))
    let s := { turn 1 [] with posted := [p] }
    let u := { turn 1 [] with posted := [e] }
    s.earliest 0 = some (0, p) ∧ u.earliest 0 = some (0, e) ∧ s.inSize (scrKey 3 0x1FFFF8) [(1 : Byte)].length = false ∧
    (s.ctx 0 1).st ≠ .free ∧ u.hasLanded e = true ∧ (u.obj 0x100).kind ≠ 1 ∧ (u.ctx 0 1).st ≠ .free := by decide +kernel

/-- A deque's address of good form that is no scratchpad of the strand's core (R217). -/
theorem witness_DequeTag :
    let s := paged (turn 1 [0x100])
    s.Ready .any h0 [1] [] ∧ s.dequeTag 0x100 true = false ∧ (0x100 : Word).toNat % 64 = 0 ∧ 1 ≤ (2 : BitVec 4).toNat ∧
    goesB (s.decodeAddr 0 1 0x100 (64 + 8 * 2 ^ (2 : BitVec 4).toNat) true) = true :=
  ⟨ready_of (by decide +kernel), by decide +kernel⟩

/-- Context 0 in the middle of an instruction, and one that returns to it (R60, R344). -/
theorem witness_KeptIndex :
    let s := (super [3]).onCtx 0 0 fun k => { k with ri := 5 }
    let r := (super [3]).onCtx 0 0 fun k => { k with kept := [(0x40, 5, 6, 7)], h := [(6, 0x40)] }
    (s.ctx 0 0).ri ≠ 0 ∧ (s.core 0).winOpen = true ∧ (s.core 0).trapq.length < 16 ∧
    (s.part (s.partOf 0)).trapvec.getLsbD 0 = true ∧
    (r.ctx 0 0).kept.find? (·.1 == (r.ctx 0 0).h.get 0 6) = some (0x40, 5, 6, 7) := by decide +kernel

/-- A strand whose MMLDB waits for an engine that another holds, and a CPYMM that waits so. -/
theorem witness_EngineWaits :
    let m := (matrixed none).onMx 0 fun v => { v with owner := some 2 }
    let q := newCopy 2 (m.me.shape 0) (m.me.shape 1) (m.me.shape 0) 1 0 0 0 false 0 0 1 0 0 m.me.pc m.me.summ none
    m.Ready .any h0 (actSrcs 0 1 2) [] ∧ m.copyBad 0 q = none ∧ (m.claim 0 (sidOf 0 1) (m.partOf 0)).isNone = true :=
  ⟨ready_of (by decide +kernel), by decide +kernel⟩

/-- An address that names no live node. -/
theorem witness_DeadNode :
    let a : Word := .ofNat 64 (scr 0x240)
    let s := turn 1 [a]
    let live := noded 4 2 0 s
    s.Ready .any h0 [1] [] ∧ live.Ready .any h0 [1] [] ∧ s.nodePlace 0 1 (s.partOf 0) a = some (0, 0x240) ∧
    live.nodePlace 0 1 (live.partOf 0) a = some (0, 0x240) ∧ s.nodePlace 0 1 (s.partOf 0) 0x100 = none ∧
    ((s.publish 0 1).drain 0 false (scrKey 0 0x240)).nodeLive 0 0x240 = false ∧
    ((live.publish 0 1).drain 0 false (scrKey 0 0x240)).nodeLive 0 0x240 = true ∧
    (((live.publish 0 1).drain 0 false (scrKey 0 0x240)).core 0).graphBlocked = false :=
  ⟨ready_of (by decide +kernel), ready_of (by decide +kernel), by decide +kernel⟩

/-- A solve that waits for its strand's matrix operation, and one that waits for an engine of its gang. -/
theorem witness_SolveWaits :
    let s := solving 1 id
    let r := (s.slice 0).rf
    let busy := (s.onMx 0 fun v => { v with owner := some (sidOf 0 1), lastPart := some 0, run := some 1 }).onMe fun k => { k with
      busy := true, running := some (.mmldb h0 0) }
    let held := s.onMx 1 fun v => { v with owner := some 40, lastPart := some 0 }
    r.stopped = false ∧ r.phase = 1 ∧ s.partOf r.core = r.part ∧ s.mxOutstanding r (gangOf 0 r.ctrl) = false ∧
    busy.mxOutstanding r (gangOf 0 r.ctrl) = true ∧ 1 ∈ gangOf 0 r.ctrl ∧
    ((s.dissolve r.core r.ctx r.part).claimAll (sidOf r.core r.ctx) r.part (gangOf 0 r.ctrl)).isSome = true ∧
    ((held.dissolve r.core r.ctx r.part).claimAll (sidOf r.core r.ctx) r.part (gangOf 0 r.ctrl)).isNone = true ∧
    (held.dissolve r.core r.ctx r.part).owns 1 (sidOf r.core r.ctx) r.part = false := by decide +kernel

/-- HMODE values that keep and break the limits of R299. -/
theorem witness_ModeLimits :
    modeKeepsLimits (.ofNat 64 (2 ^ 40 + 96 * 2 ^ 32 + 4 * 2 ^ 48)) ∧ ¬modeKeepsLimits (.ofNat 64 (2 ^ 40 + 2 ^ 32 + 4 * 2 ^ 48)) ∧
    ¬modeKeepsLimits (.ofNat 64 (3 * 2 ^ 48)) := by
  unfold modeKeepsLimits; decide

/-- A partition that goes out and its twin; one that a twin's end frees; an engine that another partition used. -/
theorem witness_Swaps :
    let s := (partsOf [(0, 3, 1, 1), (1, 2, 1, 1)]).onPart 0 fun p => { p with swapping := true }
    let inc := partsOf [(0, 1, 1, 1), (1, 2, 1, 1)]
    let m := (matrixed (some theB)).onMx 0 fun v => { v with lastPart := some 1, owner := some 5 }
    (∀ e ∈ s.agenda, ∀ c x v d, e.ev ≠ .wake c x v d) ∧ s.coresOf 0 = s.coresOf 1 ∧ 0 ∈ s.coresOf 1 ∧
    (∀ c ∈ s.coresOf 0, s.partOf c = 0 ∧ (s.core c).l1 = [] ∧ (s.core c).ctxs = []) ∧ (s.part 0).spillbase.toNat < 2 ^ 38 ∧
    (∀ e ∈ s.parts, e.2.surfs = []) ∧ ((s.reportFaults 0).part 0).swapping = true ∧ s.twinOf 0 = some 1 ∧ s.dev.fwUp = true ∧
    s.copying 0 = false ∧ (inc.part 1).st = 2 ∧ (inc.part 1).swapping = false ∧ inc.twinOf 1 = some 0 ∧
    (inc.part 0).swapping = false ∧ (inc.part 1).surfs = [] ∧ (m.mx 0).owner = some 5 ∧ (m.mx 0).lastPart = some 1 ∧
    m.mxSpill.find (spillKey 0 0) = none ∧ m.spillBase 1 0 + (m.mx 0).spillBytes.length ≤ 2 ^ 38 ∧ 0 < (m.mx 0).spillBytes.length := by
  intro s inc m
  rw [Matrix.spillBytes_length]
  exact ⟨(fun e h => by cases h), by decide +kernel⟩

/-- A hardware queue that holds one spawn record of launch 7; slots that an update has woken, that are busy or hold another
queue; and a ring in an aperture with no grant. -/
theorem witness_SlotChanges :
    let q := ((withQueue 0 (turn 1 [])).onHwq 5 fun q => { q with lin := [7], pops := [] }).onDev fun d => { d with
      launches := [(7, launched)] }
    let s := (hosted (slotOf0 fun h => { h with queue := 1 }) []).setBytes 0x8000 (toBytes 64 qdesc.toNat)
    let h := (slotOf0 fun h => { h with queue := 1 })
    let woken := slotOf0 fun h => { h with woken := true }
    let down := s.onDev fun d => { d with cpcfg := 3 }
    (q.hwq 5).lin = [7] ∧ q.dev.launches.find 7 = some launched ∧ q.queueNamed 5 = false ∧
    s.dev.hslots.find 0 = some h ∧ h.queue ≠ 0 ∧ h.closing = false ∧ h.busy = false ∧ qdDefined (s.queueDesc 0) = true ∧
    s.slotOf 0 = none ∧ s.dev.fwUp = true ∧ down.dev.fwUp = false ∧ (slotOf0 fun h => { h with next := some 1 }).busy = true ∧
    qdDefined (s.queueDesc 9) = false ∧ (hosted woken []).dev.hslots.find 0 = some woken ∧ woken.woken = true ∧ woken.next = none ∧
    woken.bufs = [] ∧ 2 ^ 47 / 2 ^ 46 = 2 ∧ s.granted 0 (2 ^ 47 / 2 ^ 42 % 16) (2 ^ 47 / 2 ^ 36 % 4) false = false ∧
    mpaRange (2 ^ 40) 64 = false := by decide +kernel

/-- A form that writes a register on its way, and one to a FIFO that a result on its way fills. -/
theorem witness_MoreWaits :
    let s := (turn 1 [3, 4, 5, 6]).onMe fun k => { k with flight := [⟨0x56, 9, none, false, 0⟩] }
    let t := ((turn 1 [3, 4, 5, 6]).onMe fun k => { k with flight := [⟨0x4D, 9, none, false, 5⟩], q := [(1, 0x25)] }).onCore 0 fun k => { k with
      fifos := [(5, List.replicate 15 0)] }
    let number := (t.me.q.get 0 ((0x4D : Opnd).toNat - 0x4C)).toNat % 16
    awaited s 0x56 ∧ namesOk s (addForm h0 0x56 1 2) ∧ ¬awaited s (guardOpnd h0) ∧ s.guardHolds s.cur s.actor h0 = true ∧
    16 ≤ ((t.core t.cur).fifos.get [] number).length + (t.core t.cur).inbound number :=
  ⟨awaited_of (by decide +kernel), names_of (by decide +kernel) (by decide +kernel) (by decide +kernel),
    not_awaited_of (by decide +kernel), by decide +kernel⟩

/-- A strand whose last instruction loads goes on to one that waits for nothing. -/
theorem witness_Begun :
    let s := (at_ 0x18 (Instr.encode (addI h0 0x56 1 2))).onMe fun k => { k with
      flight := [⟨5, 9, none, false, 0⟩], reading := some (⟨0x100, some page0⟩, .i64) }
    MayIssue s (atSlot s) ∧ (s.ctx 0 1).reading.isSome = true ∧ (s.ctx 0 1).awaits (addI h0 0x56 1 2) = false ∧
    (s.ctx 0 1).awaits (addI h0 0x56 5 2) = true :=
  ⟨mayIssue_of (by decide +kernel), by decide +kernel⟩

end Sys2Proof.Tests
end

section
/-! PROOFS. What a byte reads after memory is cleared, after a write, and after a trap record is made. -/

namespace Sys2Proof.Machine

/-- A filter by key leaves an entry as it is, or as unlisted. -/
theorem NMap.get_filter {α : Type} {d : α} (p : Nat → Bool) (m : NMap α) (i : Nat) :
    NMap.get d (m.filter fun e => p e.1) i = if p i = true then m.get d i else d := by
  induction m with
  | nil => simp
  | cons e m ih =>
    by_cases hi : e.1 = i
    · subst hi
      cases hp : p e.1 <;> simp [NMap.get, hp, ih]
    · cases hp : p e.1 <;> simp [NMap.get, hp, hi, ih]

/-- A byte below the scratchpads lies in memory. -/
theorem State.byte_mem (s : State) {key : Nat} (h : key < 2 ^ 46) : s.byte key = s.mem.get 0 key :=
  if_neg (by unfold ownScr; omega)

/-- What lies outside the device holds none of its memory. -/
theorem outside_get (m : NMap Byte) {key : Nat} (h : key < 2 ^ 46) : (outside m).get 0 key = 0 := by
  rw [outside, NMap.get_filter fun k => decide (2 ^ 46 ≤ k), if_neg (by simpa using h)]

/-- R404: of device memory, a device reset keeps the save areas. -/
theorem keepSaved_get (saved : NMap (Nat × Nat)) (m : NMap Byte) {key : Nat} (h : key < 2 ^ 46) :
    (keepSaved saved m).get 0 key =
      if saved.any (fun a => decide (a.2.1 ≤ key) && decide (key < a.2.1 + a.2.2)) = true then m.get 0 key else 0 := by
  rw [keepSaved, NMap.get_filter fun k => decide (2 ^ 46 ≤ k) || saved.any fun a =>
    decide (a.2.1 ≤ k) && decide (k < a.2.1 + a.2.2), decide_eq_false (Nat.not_le.2 h), Bool.false_or]

/-- Bytes read alike where memory and the scratchpads are alike. -/
theorem State.byte_congr {s t : State} (hm : t.mem = s.mem) (hs : ∀ c, (t.core c).scratch = (s.core c).scratch)
    (key : Nat) : t.byte key = s.byte key := by
  simp only [State.byte, hm, hs]

/-- A changed core whose scratchpad is as it was leaves every byte. -/
theorem State.setCore_byte (s : State) {c : Nat} {k : Core} (h : k.scratch = (s.core c).scratch) (key : Nat) :
    (s.setCore c k).byte key = s.byte key := by
  refine State.byte_congr (s.setCore_mem c k) (fun r => ?_) key
  rw [State.setCore_core]
  split
  · next hr => rw [h, hr]
  · rfl

@[simp] theorem State.wakeOnce_byte (s : State) (c x key : Nat) : (s.wakeOnce c x).byte key = s.byte key := by
  unfold State.wakeOnce; split <;> rfl

/-- A record put into a trap queue changes no byte. -/
@[simp] theorem State.queueRec_byte (s : State) (c : Nat) (r : BitVec 256) (key : Nat) :
    (s.queueRec c r).byte key = s.byte key := by
  unfold State.queueRec
  dsimp only
  split
  · exact s.setCore_byte (by rfl) key
  · split
    · rw [State.wakeOnce_byte]; exact s.setCore_byte (by rfl) key
    · exact s.setCore_byte (by rfl) key

@[simp] theorem State.post_byte (s : State) (c kind x : Nat) (info pc arg : Word) (key : Nat) :
    (s.post c kind x info pc arg).byte key = s.byte key :=
  (State.queueRec_byte _ c _ key).trans (s.setCore_byte (by rfl) key)

/-- A home watchpoint makes records, and changes no byte (R358). -/
@[simp] theorem State.homeWatch_byte (s : State) (quad mpa n : Nat) (writer : Word) (key : Nat) :
    (s.homeWatch quad mpa n writer).byte key = s.byte key := by
  unfold State.homeWatch
  refine List.foldlRecOn (motive := fun t : State => t.byte key = s.byte key) _ _ rfl fun t ht h _ => ?_
  dsimp only
  split
  · rw [State.post_byte, ht]
  · exact ht

/-- A write at home changes the bytes written (R96). -/
@[simp] theorem State.homeWrite_byte (s : State) (p : Nat) (hm : Bool) (mpa : Nat) (bs : List Byte) (writer : Word)
    (key : Nat) : (s.homeWrite p hm mpa bs writer).byte key = (s.setBytes mpa bs).byte key := by
  unfold State.homeWrite
  dsimp only
  split
  · exact List.foldlRecOn (motive := fun t : State => t.byte key = (s.setBytes mpa bs).byte key) _ _ rfl
      fun t ht g _ => by rw [State.homeWatch_byte, ht]
  · rfl

/-- What a byte reads after a range is written. -/
theorem State.setBytes_byte (s : State) (k : Nat) (bs : List Byte) (key : Nat) :
    (s.setBytes k bs).byte key = if k ≤ key ∧ key < k + bs.length then bs.getD (key - k) 0 else s.byte key := by
  split
  · next h =>
    obtain ⟨i, rfl⟩ := Nat.exists_eq_add_of_le h.1
    have hi : i < bs.length := by omega
    rw [State.setBytes_byte_inside bs s k i hi, Nat.add_sub_cancel_left, ← List.getElem_eq_getD (h := hi)]
  · exact State.setBytes_byte_outside bs s k key (by omega)

end Sys2Proof.Machine
end

section
/-! PROOFS. Profiles and attestation (R1, R406, R408, R409). -/

namespace Sys2Proof.Machine

/-! ### Profiles -/

/-- R406: a profile that the ordering code forbids is not taken. -/
theorem State.writeProfile_forbidden {s : State} {v : Word} (h : profileOk s.dev.order (v.setWidth 2) = false) :
    s.writeProfile v = s := by
  simp [State.writeProfile, h]

/-- R406: a profile that the ordering code allows is on its way to the store. -/
theorem State.writeProfile_allowed {s : State} {v : Word} (h : profileOk s.dev.order (v.setWidth 2) = true) :
    s.writeProfile v = (s.onMgmt fun m => { m with pendProf := some (v.setWidth 2) }).plan .profileStoreCommitted := by
  simp [State.writeProfile, h]

theorem exec_profnextWrite (v : Word) (s : State) : exec (.profnextWrite v) s = .next (s.writeProfile v) := rfl

theorem exec_profileStoreCommitted_pending {s : State} {p : BitVec 2} (h : s.mgmt.pendProf = some p) :
    exec .profileStoreCommitted s = .next (s.onMgmt fun m => { m with profile := some p, pendProf := none }) := by
  simp [exec, execProfileStoreCommitted, h]

theorem exec_profileStoreCommitted_idle {s : State} (h : s.mgmt.pendProf = none) :
    exec .profileStoreCommitted s = .next s := by
  simp [exec, execProfileStoreCommitted, h]

theorem profiles : Claim.Profiles := by
  intro s v
  refine ⟨fun h => ?_, fun h => ?_, fun p h => ?_, exec_profileStoreCommitted_idle⟩
  · rw [exec_profnextWrite, State.writeProfile_forbidden h]
  · exact ⟨_, exec_profnextWrite v s, by simp [State.writeProfile_allowed h]⟩
  · exact ⟨_, exec_profileStoreCommitted_pending h, rfl, rfl, rfl⟩

/-! ### Attestation -/

@[simp] theorem padTo_length (n : Nat) (bs : List Byte) : (padTo n bs).length = n := by
  simp [padTo]

theorem exec_attestationRequest_some (nonce : BitVec 256) (s : State) :
    exec (.attestationRequest (some nonce)) s = .next (s.attest (some nonce)) := rfl

/-- The controller's own turn. -/
theorem exec_attestationRequest_none (s : State) :
    exec (.attestationRequest none) s = .next s.attestTurn.attestNext := rfl

/-- The controller plans no turn with nothing left to serve. -/
theorem State.attestNext_idle {s : State} (hp : s.mgmt.pendSig = none) (hr : s.mgmt.reqs = []) : s.attestNext = s := by
  simp [State.attestNext, hp, hr]

/-- The controller plans a turn while a request is in service or waits. -/
theorem State.attestNext_busy {s : State} (h : ¬(s.mgmt.pendSig = none ∧ s.mgmt.reqs = [])) :
    s.attestNext = s.plan (.attestationRequest none) := if_neg h

@[simp] theorem State.attestNext_mgmt (s : State) : s.attestNext.mgmt = s.mgmt := by
  unfold State.attestNext; split <;> rfl

@[simp] theorem State.attestNext_dev (s : State) : s.attestNext.dev = s.dev := by
  unfold State.attestNext; split <;> rfl

/-- R409: the request in service is signed with its index and answered. -/
theorem State.attestTurn_signs {s : State} {i : Nat} {nonce : BitVec 256} (h : s.mgmt.pendSig = some (i, nonce)) :
    s.attestTurn = s.onMgmt fun m => { m with replies := m.replies ++ [some (s.answer i nonce)], pendSig := none } := by
  simp [State.attestTurn, h]

theorem State.attestTurn_idle {s : State} (hp : s.mgmt.pendSig = none) (hr : s.mgmt.reqs = []) : s.attestTurn = s := by
  simp [State.attestTurn, hp, hr]

section
variable {s : State} {nonce : BitVec 256} {rest : List (BitVec 256)}
variable (hp : s.mgmt.pendSig = none) (hr : s.mgmt.reqs = nonce :: rest)
include hp hr

/-- R409: the counter is committed before the index is used. -/
theorem State.attestTurn_commits (hc : s.mgmt.counter < 2 ^ 20) :
    s.attestTurn = s.onMgmt fun m => { m with
      counter := s.mgmt.counter + 1, pendSig := some (s.mgmt.counter, nonce), reqs := rest } := by
  simp only [State.attestTurn, hp, hr, if_neg (Nat.not_le.2 hc)]

/-- R409: a key that has used its 2^20 indices refuses. -/
theorem State.attestTurn_refuses (hc : 2 ^ 20 ≤ s.mgmt.counter) :
    s.attestTurn = s.onMgmt fun m => { m with replies := m.replies ++ [none], reqs := rest } := by
  simp only [State.attestTurn, hp, hr, if_pos hc]

end

/-- A request that arrives waits behind the others. -/
theorem State.attest_some_mgmt (s : State) (nonce : BitVec 256) :
    (s.attest (some nonce)).mgmt = { s.mgmt with reqs := s.mgmt.reqs ++ [nonce] } := by
  unfold State.attest; dsimp only; split <;> simp

theorem State.attest_some_dev (s : State) (nonce : BitVec 256) : (s.attest (some nonce)).dev = s.dev := by
  unfold State.attest; dsimp only; split <;> simp

/-- A request that finds the controller idle gives it a turn. -/
theorem State.attest_some_idle {s : State} (hp : s.mgmt.pendSig = none) (hr : s.mgmt.reqs = []) (nonce : BitVec 256) :
    s.attest (some nonce) =
      (s.onMgmt fun m => { m with reqs := m.reqs ++ [nonce] }).plan (.attestationRequest none) := by
  unfold State.attest
  dsimp only
  rw [if_pos ⟨hp, hr⟩, State.attestNext_busy (by simp)]

theorem attestation : Claim.Attestation := by
  intro s nonce rest
  refine ⟨?_, fun hp hr => ?_, fun i h => ?_, fun hp hr => ?_⟩
  · refine ⟨_, exec_attestationRequest_some nonce s, s.attest_some_mgmt nonce, s.attest_some_dev nonce, fun hp hr => ?_⟩
    simp [State.attest_some_idle hp hr]
  · refine ⟨_, exec_attestationRequest_none s, ?_⟩
    rcases Nat.lt_or_ge s.mgmt.counter (2 ^ 20) with hc | hc
    · rw [State.attestTurn_commits hp hr hc, State.attestNext_busy (by simp)]
      exact ⟨rfl, rfl, fun _ => ⟨rfl, rfl, rfl, by simp⟩, fun h => absurd hc (Nat.not_lt.2 h)⟩
    · rw [State.attestTurn_refuses hp hr hc, State.attestNext_mgmt, State.attestNext_dev]
      exact ⟨rfl, rfl, fun h => absurd h (Nat.not_lt.2 hc), fun _ => ⟨rfl, rfl, hp⟩⟩
  · refine ⟨_, s.answer i nonce, exec_attestationRequest_none s, ?_⟩
    rw [State.attestTurn_signs h]
    simp [State.answer]
  · rw [exec_attestationRequest_none, State.attestTurn_idle hp hr, State.attestNext_idle hp hr]

/-- Settles O52, by the cases of the controller's turn. -/
theorem profilesAndAttestation : Obligations.ProfilesAndAttestation := ⟨profiles, attestation⟩

end Sys2Proof.Machine
end

section
/-! PROOFS. Boot, power loss and host access (R1, R122, R125, R326, R378, R402, R404, R405, R407, R409). -/

namespace Sys2Proof.Machine

/-! ### Boot (R405) -/

/-- The profile that a boot selects: the stored one, or else the board's. -/
def State.bootProfile (s : State) (b : Board) : BitVec 2 := s.mgmt.profile.getD b.profsel

/-- The step that a boot from a state stops at, or 0. -/
def State.bootStep (s : State) (b : Board) : Nat :=
  if b.railsOk = false then 1 else if profileOk b.order (s.bootProfile b) = false then 2
  else if firmwareImage b s.mgmt.minSvn = none then 3 else if b.trainOk = false then 5 else if b.pcieOk = false then 6 else 0

/-- The state with an image taken: its profile, and what the header and the code of the image set. -/
def State.imageTaken (s : State) (b : Board) (i : List Byte) : State :=
  ((s.onDev fun d => { d with profile := s.bootProfile b }).onMgmt fun m => { m with
    minSvn := max s.mgmt.minSvn (imageSvn i), bootStop := none }).onDev fun d => { d with
    measurement := Config.imageDigest i, svn := imageSvn i, fw := d.fw.load (imageCode i) }

/-- The state with the ports trained and firmware up. -/
def State.bootTrained (s : State) (b : Board) : State := s.onDev fun d => { d with ports := bootPorts b, cpcfg := 0x103 }

/-- R405: how a boot ends, by the step that it stops at. -/
theorem State.boot_cases (s : State) (b : Board) :
    (s.bootStep b = 1 ∧ s.boot b = s.bootStops 1 0) ∨
    (s.bootStep b = 2 ∧ s.boot b = (s.onDev fun d => { d with profile := s.bootProfile b }).bootStops 2 0) ∨
    (s.bootStep b = 3 ∧ firmwareImage b s.mgmt.minSvn = none ∧
      s.boot b = (s.onDev fun d => { d with profile := s.bootProfile b }).bootStops 3 0) ∨
    ∃ i, firmwareImage b s.mgmt.minSvn = some i ∧
      ((s.bootStep b = 5 ∧ s.boot b = (s.imageTaken b i).bootStops 5 0) ∨
       (s.bootStep b = 6 ∧ s.boot b = ((s.imageTaken b i).bootTrained b).bootStops 6 0) ∨
       (s.bootStep b = 0 ∧ s.boot b = { (s.imageTaken b i).bootTrained b with powered := true })) := by
  unfold State.bootStep State.boot State.bootProfile
  cases hr : b.railsOk with
  | false => exact .inl ⟨rfl, by simp⟩
  | true =>
    cases hp : profileOk b.order (s.mgmt.profile.getD b.profsel) with
    | false => exact .inr (.inl ⟨by simp, by simp [hp]⟩)
    | true =>
      cases hi : firmwareImage b s.mgmt.minSvn with
      | none => exact .inr (.inr (.inl ⟨by simp, rfl, by simp [hp, hi]⟩))
      | some i =>
        refine .inr (.inr (.inr ⟨i, rfl, ?_⟩))
        cases ht : b.trainOk with
        | false => exact .inl ⟨by simp, by simp [hp, hi]; rfl⟩
        | true =>
          cases hl : b.pcieOk with
          | false => exact .inr (.inl ⟨by simp, by simp [hp, hi]; rfl⟩)
          | true => exact .inr (.inr ⟨by simp, by simp only [hp, hi, Bool.not_true, Bool.false_eq_true, if_false]; rfl⟩)

/-- What a boot leaves as it was, and what it answers by the step that it stops at. -/
structure State.Booted (s : State) (b : Board) (t : State) : Prop where
  mem      : t.mem = s.mem
  cores    : t.cores = s.cores
  part     : t.dev.order = s.dev.order ∧ t.dev.heads = s.dev.heads ∧ t.dev.number = s.dev.number
  kept     : t.dev.sealedM = s.dev.sealedM ∧ t.dev.crash = s.dev.crash ∧ t.dev.evseq = s.dev.evseq
  store    : t.mgmt.counter = s.mgmt.counter ∧ t.mgmt.profile = s.mgmt.profile
  powered  : t.powered = decide (s.bootStep b = 0)
  reported : t.mgmt.bootStop.map Prod.fst = if s.bootStep b = 0 then none else some (s.bootStep b)
  profile  : s.bootStep b ≠ 1 → t.dev.profile = s.bootProfile b
  fwUp     : t.dev.fwUp = decide (s.bootStep b = 0 ∨ s.bootStep b = 6)
  least    : t.mgmt.minSvn = if s.bootStep b = 1 ∨ s.bootStep b = 2 then s.mgmt.minSvn
    else (firmwareImage b s.mgmt.minSvn).elim s.mgmt.minSvn fun i => max s.mgmt.minSvn (imageSvn i)

@[simp] theorem State.bootStops_mgmt (s : State) (step cause : Nat) :
    (s.bootStops step cause).mgmt = { s.mgmt with bootStop := some (step, cause) } := rfl

@[simp] theorem State.bootStops_powered (s : State) (step cause : Nat) : (s.bootStops step cause).powered = false := rfl

@[simp] theorem State.bootStops_dev (s : State) (step cause : Nat) : (s.bootStops step cause).dev = s.dev := rfl

/-- R405: a boot, once a reset has cleared the device. -/
theorem State.boot_booted {s : State} (b : Board) (hc : s.dev.cpcfg = 3) : s.Booted b (s.boot b) := by
  have down : bit 3#64 8 = false := rfl
  have up : bit 0x103#64 8 = true := rfl
  rcases s.boot_cases b with ⟨hs, e⟩ | ⟨hs, e⟩ | ⟨hs, hi, e⟩ | ⟨i, hi, ⟨hs, e⟩ | ⟨hs, e⟩ | ⟨hs, e⟩⟩
  all_goals rw [e]; exact {
    mem := rfl, cores := rfl, part := ⟨rfl, rfl, rfl⟩, kept := ⟨rfl, rfl, rfl⟩, store := ⟨rfl, rfl⟩
    powered := by simp [hs]
    reported := by simp [hs, State.bootTrained, State.imageTaken]
    profile := by simp [hs, State.bootTrained, State.imageTaken]
    fwUp := by simp [hs, State.bootTrained, State.imageTaken, Dev.fwUp, hc, down, up]
    least := by simp [*, State.bootTrained, State.imageTaken] }

/-! ### Resets (R404) -/

/-- What a reset shows of the boot that ends it, by the state before the reset. -/
def State.ShowsBoot (s : State) (b : Board) (t : State) : Prop :=
  t.powered = decide (s.bootStep b = 0) ∧
  t.mgmt.bootStop.map Prod.fst = (if s.bootStep b = 0 then none else some (s.bootStep b)) ∧ t.dev.order = b.order ∧
  t.dev.heads = wiredHeads b ∧ t.dev.number = (if b.domain = true then b.dev else 0) ∧
  (s.bootStep b ≠ 1 → t.dev.profile = s.bootProfile b) ∧ t.dev.fwUp = decide (s.bootStep b = 0 ∨ s.bootStep b = 6) ∧
  t.mgmt.minSvn = (if s.bootStep b = 1 ∨ s.bootStep b = 2 then s.mgmt.minSvn
    else (firmwareImage b s.mgmt.minSvn).elim s.mgmt.minSvn fun i => max s.mgmt.minSvn (imageSvn i)) ∧
  t.mgmt.counter = s.mgmt.counter ∧ t.mgmt.profile = s.mgmt.profile

/-- A reset has cleared the device for a boot: the registers show the board, and the stores of the part are as they were. -/
structure State.ClearedFor (s : State) (b : Board) (u : State) : Prop where
  cpcfg   : u.dev.cpcfg = 3
  order   : u.dev.order = b.order
  heads   : u.dev.heads = wiredHeads b
  number  : u.dev.number = if b.domain = true then b.dev else 0
  profile : u.mgmt.profile = s.mgmt.profile
  least   : u.mgmt.minSvn = s.mgmt.minSvn
  counter : u.mgmt.counter = s.mgmt.counter

/-- The boot after a reset shows what the state before the reset had stored. -/
theorem State.ClearedFor.showsBoot {s u : State} {b : Board} (h : s.ClearedFor b u) : s.ShowsBoot b (u.boot b) := by
  have hb := State.boot_booted b h.cpcfg
  have hprof : u.bootProfile b = s.bootProfile b := by unfold State.bootProfile; rw [h.profile]
  have hstep : u.bootStep b = s.bootStep b := by unfold State.bootStep; rw [hprof, h.least]
  obtain ⟨ho, hh, hn⟩ := hb.part
  obtain ⟨hcount, hstore⟩ := hb.store
  refine ⟨?_, ?_, ho.trans h.order, hh.trans h.heads, hn.trans h.number, ?_, ?_, ?_, hcount.trans h.counter,
    hstore.trans h.profile⟩
  · rw [hb.powered, hstep]
  · rw [hb.reported, hstep]
  · rw [← hstep, ← hprof]; exact hb.profile
  · rw [hb.fwUp, hstep]
  · rw [hb.least, hstep, h.least]

/-- A board of the same ordering code carries the same part, with its stores. -/
theorem State.cleared_mgmt {s : State} {b : Board} (h : b.order = s.board.order) : (s.cleared b).mgmt = s.mgmt := if_pos h

/-- What a power-on reset leaves for its boot: the non-volatile store, with nothing under way. -/
def State.powerOnCleared (s : State) (b : Board) : State :=
  (s.cleared b).onMgmt fun m => { m with pendProf := none, pendSig := none, reqs := [], bootStop := none }

/-- What a device reset leaves for its boot: the save areas, their seals and the retention region as well. -/
def State.resetCleared (s : State) (b : Board) : State :=
  { s.cleared b with mem := keepSaved s.dev.saved s.mem, agenda := s.agenda.filter (evMgmt ·.ev) }.onDev fun d => { d with
    sealedM := s.dev.sealedM, saved := s.dev.saved, crash := s.dev.crash, crashSeq := s.dev.crashSeq, msgs := s.dev.msgs }

theorem exec_powerOnReset (b : Board) (s : State) :
    exec (.powerOnReset b) s = .next ((s.powerOnCleared b).boot b) := rfl

theorem exec_deviceReset (b : Board) (s : State) : exec (.deviceReset b) s = .next ((s.resetCleared b).boot b) := rfl

theorem State.powerOnCleared_clearedFor {s : State} {b : Board} (h : b.order = s.board.order) :
    s.ClearedFor b (s.powerOnCleared b) where
  cpcfg   := rfl
  order   := rfl
  heads   := rfl
  number  := rfl
  profile := by simp [State.powerOnCleared, State.cleared_mgmt h]
  least   := by simp [State.powerOnCleared, State.cleared_mgmt h]
  counter := by simp [State.powerOnCleared, State.cleared_mgmt h]

theorem State.resetCleared_clearedFor {s : State} {b : Board} (h : b.order = s.board.order) :
    s.ClearedFor b (s.resetCleared b) where
  cpcfg   := rfl
  order   := rfl
  heads   := rfl
  number  := rfl
  profile := by simp [State.resetCleared, State.cleared_mgmt h]
  least   := by simp [State.resetCleared, State.cleared_mgmt h]
  counter := by simp [State.resetCleared, State.cleared_mgmt h]

theorem boots : Claim.Boots := by
  intro s b h
  have hon := State.powerOnCleared_clearedFor h
  have hreset := State.resetCleared_clearedFor h
  constructor
  · have hb := State.boot_booted b hon.cpcfg
    obtain ⟨hseal, hcrash, -⟩ := hb.kept
    refine ⟨_, exec_powerOnReset b s, fun key hk => ?_, hseal, hcrash, hb.cores, hon.showsBoot⟩
    rw [State.byte_mem _ hk, hb.mem]
    exact outside_get s.mem hk
  · have hb := State.boot_booted b hreset.cpcfg
    obtain ⟨hseal, hcrash, hseq⟩ := hb.kept
    refine ⟨_, exec_deviceReset b s, hb.cores, hseal, hcrash, hseq, fun key hk => ?_, hreset.showsBoot⟩
    rw [State.byte_mem _ hk, State.byte_mem _ hk, hb.mem]
    exact keepSaved_get s.dev.saved s.mem hk

/-! ### Firmware images (R407) -/

/-- R407: what the ROM has checked of an image that it takes. -/
theorem imageOk_checks {least : Nat} {img : List Byte} (h : imageOk least img = true) :
    imageWord img 0 = 0x4B524746 ∧ imageLen img ≤ 253952 ∧ 64 + imageLen img + 2820 ≤ img.length ∧
      least ≤ imageSvn img ∧ ∀ x ∈ (img.drop 12).take 52, x = 0 := by
  simp only [imageOk, Bool.and_eq_true, beq_iff_eq, decide_eq_true_eq, List.all_eq_true] at h
  obtain ⟨⟨⟨⟨⟨hmagic, hlen⟩, hfits⟩, hsvn⟩, hzero⟩, -⟩ := h
  exact ⟨hmagic, hlen, hfits, hsvn, hzero⟩

/-- The reserved bits of an image that the ROM takes are zero. -/
theorem imageOk_reserved {least : Nat} {img : List Byte} (h : imageOk least img = true) {i : Nat} (h12 : 12 ≤ i)
    (h64 : i < 64) : img.getD i 0 = 0 := by
  obtain ⟨-, -, hfits, -, hzero⟩ := imageOk_checks h
  have hi : i < img.length := by omega
  rw [← List.getElem_eq_getD (h := hi)]
  refine hzero _ (List.mem_iff_getElem.2 ⟨i - 12, by simp; omega, ?_⟩)
  simp [Nat.add_sub_cancel' h12]

theorem imageRefusals : Claim.ImageRefusals := by
  intro least img word hbad
  rw [Bool.eq_false_iff]
  intro hok
  obtain ⟨hmagic, hlen, hfits, hsvn, -⟩ := imageOk_checks hok
  rcases hbad with h | h | h | h | ⟨i, h12, h64, hi⟩
  · exact h hmagic
  · exact Nat.not_le.2 h hsvn
  · exact Nat.not_le.2 h hlen
  · exact Nat.not_le.2 h hfits
  · exact hi (imageOk_reserved hok h12 h64)

/-! ### Power loss (R378, R402, R409) -/

theorem exec_powerLoss (rail : Bool) (s : State) : exec (.powerLoss rail) s = .next (s.losePower rail) := rfl

theorem powerLosses : Claim.PowerLosses := by
  intro s rail
  refine ⟨_, exec_powerLoss rail s, rfl, fun key hk => ?_, rfl, rfl, rfl, rfl, rfl, rfl, rfl, rfl⟩
  rw [State.byte_mem _ hk]
  exact outside_get s.mem hk

/-! ### Host accesses (R122, R125) -/

theorem exec_hostAccess (u : Nat) (w : Bool) (mpa : Nat) (bs : List Byte) (s : State) :
    exec (.hostAccess u w mpa bs) s = .next (if !s.powered then s else s.hostAccess u w mpa bs) := rfl

/-- R405: while the host link is down, no access comes. -/
theorem exec_hostAccess_down {s : State} (hp : s.powered = false) (u : Nat) (w : Bool) (mpa : Nat) (bs : List Byte) :
    exec (.hostAccess u w mpa bs) s = .next s := by
  simp [exec_hostAccess, hp]

theorem exec_hostAccess_up {s : State} (hp : s.powered = true) (u : Nat) (w : Bool) (mpa : Nat) (bs : List Byte) :
    exec (.hostAccess u w mpa bs) s = .next (s.hostAccess u w mpa bs) := by
  simp [exec_hostAccess, hp]

section
variable {s : State} {mpa : Nat} {bs : List Byte}

/-- R122: what is neither device memory nor the host's own is not reached. -/
theorem State.hostAccess_beyond (h : 2 ^ 38 < mpa + bs.length) (ho : ¬(2 ^ 46 ≤ mpa ∧ mpa + bs.length ≤ 2 ^ 47)) (u : Nat)
    (w : Bool) : s.hostAccess u w mpa bs = s := by
  simp only [State.hostAccess, ← Bool.decide_and, decide_eq_true h, decide_eq_false ho, Bool.not_false, Bool.and_self, if_true]

variable (h : mpa + bs.length ≤ 2 ^ 38 ∨ (2 ^ 46 ≤ mpa ∧ mpa + bs.length ≤ 2 ^ 47))
include h

/-- A write that the host may make writes its bytes, and no other. -/
theorem State.hostAccess_write_byte (u key : Nat) : (s.hostAccess u true mpa bs).byte key =
    (s.setBytes mpa bs).byte key := by
  unfold State.hostAccess
  dsimp only
  rw [if_neg (by simp; omega)]
  split
  · rfl
  · exact State.homeWrite_byte ..

/-- A read that the host may make answers the bytes there. -/
theorem State.hostAccess_read (u : Nat) :
    s.hostAccess u false mpa bs = s.onDev fun d => { d with hread := s.bytes mpa bs.length } := by
  unfold State.hostAccess
  dsimp only
  rw [if_neg (by simp; omega)]
  rfl

end

/-! ### Register writes (R326) -/

theorem exec_registerWrite (o : Nat) (v : Word) (s : State) : exec (.registerWrite o v) s = .next (s.mmioWrite o v) := rfl

theorem State.mmioWrite_unaligned {o : Nat} (h : o % 8 ≠ 0) (s : State) (v : Word) : s.mmioWrite o v = s := if_pos h

/-- Offset 0x20 is partition 0's PC. -/
theorem State.mmioWrite_partPc (s : State) (v : Word) :
    s.mmioWrite 0x20 v = s.onPart 0 fun q => { q with pc := v &&& 0xFFFFFFFFFFFFC } := rfl

/-- Offset 0x418 is EVCONS. -/
theorem State.mmioWrite_evcons (s : State) (v : Word) :
    s.mmioWrite 0x418 v = s.onDev fun d => { d with evcons := v.setWidth 32 } := rfl

/-- Offset 0x400 is EVBASE. -/
theorem State.mmioWrite_evbase (s : State) (v : Word) :
    s.mmioWrite 0x400 v = s.onDev fun d => { d with evbase := v &&& 0x3FFFFFFFF000 } := rfl

/-- Offset 0x400200 is partition 0's S2ROOT, which no write reaches while the host link is down. -/
theorem State.mmioWrite_s2root (s : State) (v : Word) : s.mmioWrite 0x400200 v =
    if !s.powered then s else s.onPart 0 fun q => { q with s2root := v &&& sysBits 0x40 } := rfl

theorem hostInterface : Claim.HostInterface := by
  intro s unit mpa off bs v own
  refine ⟨fun hp w => exec_hostAccess_down hp unit w mpa bs, fun hp => ⟨fun hb ho w => ?_, fun h => ⟨?_, ?_⟩⟩,
    fun h => ?_, ?_, ?_, ?_, fun hp => ?_, fun hp => ?_⟩
  · rw [exec_hostAccess_up hp, State.hostAccess_beyond hb ho]
  · exact ⟨_, exec_hostAccess_up hp .., fun key => by rw [State.hostAccess_write_byte h, State.setBytes_byte]⟩
  · refine ⟨_, exec_hostAccess_up hp .., ?_⟩
    rw [State.hostAccess_read h]
    exact ⟨rfl, fun _ => rfl, fun _ => rfl, rfl⟩
  · rw [exec_registerWrite, State.mmioWrite_unaligned h]
  · exact ⟨_, exec_registerWrite .., by rw [State.mmioWrite_partPc, State.onPart_part_self]⟩
  · exact ⟨_, exec_registerWrite .., by rw [State.mmioWrite_evcons, State.onDev_dev]⟩
  · exact ⟨_, exec_registerWrite .., by rw [State.mmioWrite_evbase, State.onDev_dev]⟩
  · simp [exec_registerWrite, State.mmioWrite_s2root, hp]
  · exact ⟨_, exec_registerWrite .., by simp [State.mmioWrite_s2root, hp]⟩

/-- Settles O53: a reset is a boot of the cleared device, and each access changes only what it names. -/
theorem resetsAndHost : Obligations.ResetsAndHost := ⟨boots, imageRefusals, powerLosses, hostInterface⟩

end Sys2Proof.Machine
end

section
/-! PROOFS. Encodings written out, and the state after reset (R4, R19, R133 to R139, R141, R278, R330, R364, R381, R404,
R405). -/

namespace Sys2Proof.Machine

/-- R133: no instruction has LEN = 0b11. -/
theorem decode_lenThree {w : Nat} (h : w % 4 = 3) : decode w = .error .lenThree :=
  if_pos (by simpa [bf] using h)

/-- The words of the statement, each decoded by evaluation. -/
theorem decodingWords : Claim.DecodingRight :=
  ⟨by decide +kernel, by decide +kernel, by decide +kernel, by decide +kernel, by decide +kernel,
    fun _ => decode_lenThree, rfl, rfl, rfl, rfl, rfl⟩

/-- After reset every unlisted byte reads as zero (R404). -/
theorem State.reset_byte (key : Nat) : State.reset.byte key = 0 := by
  unfold State.byte; split <;> rfl

theorem resetState : Claim.ResetState :=
  ⟨rfl, State.reset_byte, rfl, rfl, fun _ _ => ⟨rfl, rfl, rfl, rfl, rfl⟩,
    fun _ => ⟨rfl, rfl, rfl, rfl, rfl, rfl, fun _ => rfl⟩, fun _ => ⟨rfl, rfl, rfl, rfl⟩, fun _ => rfl,
    rfl, rfl, rfl, rfl, rfl, rfl, rfl, rfl⟩

theorem resetCanonical : Claim.ResetCanonical := ⟨rfl, State.memWf_reset⟩

/-- Settles O58: the words and the reset state are evaluated. -/
theorem decodingRight : Obligations.DecodingRight := ⟨decodingWords, resetState, resetCanonical⟩

end Sys2Proof.Machine
end
